-- ==== Sys2Proof/Word.lean ====
section
/-!
DEFINITION. The words of the machine and the plain records that instructions and events carry. Sizes
and byte order follow 00_scope.md (multi-byte values little-endian) and 03 R44 to R47 (word layouts).
-/
namespace Sys2Proof

abbrev Byte := BitVec 8
abbrev Half := BitVec 16
/-- A 32-bit word: one instruction word, one scalar register, one lane of a vector register. -/
abbrev Word := BitVec 32
abbrev DWord := BitVec 64
/-- A main-memory virtual address of 56 bits (07 R150). -/
abbrev VA := BitVec 56
/-- A mask of R15: lane `i` is bit `i`. Span word `j` is bits `32 j` to `32 j + 31`; the summary word is derived. -/
abbrev Mask := BitVec 1024
/-- An IPv6 address (24 R369). -/
abbrev Ip := BitVec 128

/-- Word 0 of an R-form instruction after its opcode: D, A, B (03 R44). -/
structure ROps where
  d : Byte
  a : Byte
  b : Byte
  deriving DecidableEq, Repr

/-- The operand fields of an X-form instruction: D, A, B of word 0 and C, FN, MOD of word 1 (03 R44, R45). -/
structure XOps where
  d : Byte
  a : Byte
  b : Byte
  c : Byte
  fn : Byte
  mod : Half
  deriving DecidableEq, Repr

/-- The operand fields of the I, BR and BRS forms: D, A, B of word 0 and the whole of word 1 (03 R46, R47).
In the BR form D is the mask code and A is COND; in the BRS form D is the scalar register. -/
structure IOps where
  d : Byte
  a : Byte
  b : Byte
  imm : Word
  deriving DecidableEq, Repr

/-- One UDP datagram that reaches port 5310, its header fields read by the layout of 24 R369. -/
structure Datagram where
  src : Ip
  magic : Word
  version : Half
  method : Half
  tenant : Word
  len : Word
  reqid : DWord
  status : Word
  flags : Word
  payload : List Byte
  deriving DecidableEq, Repr

/-- One write or 8-byte atomic of a part that a module sends to a peer, with its remote key (24 R378, R379). -/
inductive PartOp where
  | write (rkey : Word) (va : DWord) (data : List Byte)
  | atom (rkey : Word) (va : DWord) (op : Nat) (a c : DWord)
  deriving DecidableEq, Repr

/-- One RoCEv2 request of a peer (24 R377). `cmp` is the compare value of COMPARE_SWAP; `arg` the addend or swap value; `part` the
further operations of a part that comes with a WRITE and is applied in one step with it (R379). -/
structure PeerOp where
  src : Ip
  rkey : Word
  va : DWord
  len : Nat
  data : List Byte
  arg : DWord
  cmp : DWord
  part : List PartOp := []
  deriving DecidableEq, Repr

/-- A physical unit in which an error is detected or which a self-test examines (25 R390, R392). Bays are numbered die x 8 + bay. -/
inductive HwUnit where
  | core (bay core : Nat)
  | quarter (bay core quarter : Nat)
  | mac (bay core mac : Nat)
  | channel (bay channel : Nat)
  /-- the register file that holds team `team` of tenant `tenant` -/
  | regfile (tenant team : Nat)
  /-- the local store holding the block of team `team` of tenant `tenant` -/
  | localStore (tenant team : Nat)
  /-- a scratchpad byte that team `team` reads -/
  | scratchpad (tenant team : Nat)
  | tlb (tenant team : Nat)
  /-- the scratchpad of a die -/
  | spad (die : Nat)
  /-- a 32-byte sector of main memory at `va` of tenant `tenant` -/
  | sector (tenant va : Nat)
  /-- a lane group of a die boundary or port -/
  | laneGroup (port : Nat)
  deriving DecidableEq, Repr

/-- A firmware image offered to the root of trust (25 R397). -/
structure FwImage where
  version : Nat
  body : List Byte
  sig : List Byte
  key : List Byte
  deriving DecidableEq, Repr

namespace XOps
/-- MOD[7:0]. -/
def lo8 (o : XOps) : Byte := o.mod.extractLsb' 0 8
def loNib (o : XOps) : BitVec 4 := o.mod.extractLsb' 0 4
def hiNib (o : XOps) : BitVec 4 := o.mod.extractLsb' 4 4
/-- MOD[15:13], the rounding mode (R45). -/
def rm (o : XOps) : BitVec 3 := o.mod.extractLsb' 13 3
def sat (o : XOps) : Bool := o.mod.getLsbD 12
def na (o : XOps) : Bool := o.mod.getLsbD 11
def nb (o : XOps) : Bool := o.mod.getLsbD 10
def nc (o : XOps) : Bool := o.mod.getLsbD 9
def absa (o : XOps) : Bool := o.mod.getLsbD 8
/-- MOD[7] of an atomic: the returning form (R194). -/
def ret (o : XOps) : Bool := o.mod.getLsbD 7
/-- MOD[6:4] of an atomic: its scope (R194, R196). -/
def scopeF (o : XOps) : BitVec 3 := o.mod.extractLsb' 4 3
def scope8 (o : XOps) : Byte := o.scopeF.setWidth 8
end XOps

end Sys2Proof
end

