-- ==== Sys2Proof/Syntax.lean ====
section
/-!
DEFINITION. The instructions and steps of the machine: one constructor per row of spec/opcode_table.json. The first
189 are instruction words (03 R54); the other 87 are the part's other whole steps (95_what_each_step_holds.md), whose
operands name what they act on: `t` a tenant, `k` a team, `b` a block or batch, `l` a launch, `i` a position in a list
of outstanding things, `q` a datagram or a peer's request.
-/
namespace Sys2Proof

inductive Instr where
  /-- NOP, opcode 0x00 (R84). -/
  | nop (o : ROps)
  /-- SMOV, opcode 0x01 (R84). -/
  | smov (o : ROps)
  /-- SMOVI, opcode 0x02 (R85). -/
  | smovi (o : IOps)
  /-- SADD, opcode 0x03 (R84). -/
  | sadd (o : ROps)
  /-- SSUB, opcode 0x04 (R84). -/
  | ssub (o : ROps)
  /-- SMUL, opcode 0x05 (R84). -/
  | smul (o : ROps)
  /-- SMULH, opcode 0x06 (R84). -/
  | smulh (o : ROps)
  /-- SMULHU, opcode 0x07 (R84). -/
  | smulhu (o : ROps)
  /-- SAND, opcode 0x08 (R84). -/
  | sand (o : ROps)
  /-- SOR, opcode 0x09 (R84). -/
  | sor (o : ROps)
  /-- SXOR, opcode 0x0A (R84). -/
  | sxor (o : ROps)
  /-- SSHL, opcode 0x0B (R84). -/
  | sshl (o : ROps)
  /-- SSHR, opcode 0x0C (R84). -/
  | sshr (o : ROps)
  /-- SSRA, opcode 0x0D (R84). -/
  | ssra (o : ROps)
  /-- SCMP_CC, opcode 0x0E (R86). -/
  | scmp (o : XOps)
  /-- SSEL, opcode 0x0F (R86). -/
  | ssel (o : XOps)
  /-- SADDI, opcode 0x10 (R85). -/
  | saddi (o : IOps)
  /-- SLDK, opcode 0x11 (R88). -/
  | sldk (o : ROps)
  /-- SMIN_S, opcode 0x12 (R86). -/
  | sminS (o : XOps)
  /-- SMIN_U, opcode 0x12 (R86). -/
  | sminU (o : XOps)
  /-- SMAX_S, opcode 0x12 (R86). -/
  | smaxS (o : XOps)
  /-- SMAX_U, opcode 0x12 (R86). -/
  | smaxU (o : XOps)
  /-- SBIT, opcode 0x13 (R86). -/
  | sbit (o : XOps)
  /-- SRDSR, opcode 0x14 (R89). -/
  | srdsr (o : ROps)
  /-- SWRSR, opcode 0x15 (R89). -/
  | swrsr (o : ROps)
  /-- BR_COND, opcode 0x16 (R91). -/
  | brCond (o : IOps)
  /-- BRZ, opcode 0x17 (R92). -/
  | brz (o : IOps)
  /-- BRNZ, opcode 0x18 (R92). -/
  | brnz (o : IOps)
  /-- CALL, opcode 0x19 (R98). -/
  | call (o : IOps)
  /-- CALLV, opcode 0x1A (R99). -/
  | callv (o : ROps)
  /-- CALLS, opcode 0x1B (R98). -/
  | calls (o : ROps)
  /-- RET, opcode 0x1C (R100). -/
  | ret (o : ROps)
  /-- JMPS, opcode 0x1D (R101). -/
  | jmps (o : ROps)
  /-- ENDT, opcode 0x1E (R102). -/
  | endt (o : ROps)
  /-- WAITC, opcode 0x1F (R103). -/
  | waitc (o : ROps)
  /-- MAND, opcode 0x20 (R105). -/
  | mand (o : ROps)
  /-- MOR, opcode 0x21 (R105). -/
  | mor (o : ROps)
  /-- MXOR, opcode 0x22 (R105). -/
  | mxor (o : ROps)
  /-- MANDN, opcode 0x23 (R105). -/
  | mandn (o : ROps)
  /-- MNOT, opcode 0x24 (R105). -/
  | mnot (o : ROps)
  /-- MMOV, opcode 0x25 (R105). -/
  | mmov (o : ROps)
  /-- MSETI, opcode 0x26 (R106). -/
  | mseti (o : IOps)
  /-- EXENTER, opcode 0x27 (R107). -/
  | exenter (o : ROps)
  /-- EXSET, opcode 0x28 (R107). -/
  | exset (o : ROps)
  /-- MCNT, opcode 0x29 (R108). -/
  | mcnt (o : ROps)
  /-- MFIRST, opcode 0x2A (R108). -/
  | mfirst (o : ROps)
  /-- MGETW, opcode 0x2B (R109). -/
  | mgetw (o : ROps)
  /-- MPUTW, opcode 0x2C (R109). -/
  | mputw (o : ROps)
  /-- VTOM, opcode 0x2D (R110). -/
  | vtom (o : ROps)
  /-- MTOV, opcode 0x2E (R110). -/
  | mtov (o : ROps)
  /-- QSWPH, opcode 0x30 (R112). -/
  | qswph (o : ROps)
  /-- QSWPV, opcode 0x31 (R112). -/
  | qswpv (o : ROps)
  /-- QSWPD, opcode 0x32 (R112). -/
  | qswpd (o : ROps)
  /-- QBCST, opcode 0x33 (R112). -/
  | qbcst (o : ROps)
  /-- QDDX, opcode 0x34 (R113). -/
  | qddx (o : ROps)
  /-- QDDY, opcode 0x35 (R113). -/
  | qddy (o : ROps)
  /-- QHELP, opcode 0x36 (R114). -/
  | qhelp (o : ROps)
  /-- VFADD, opcode 0x40 (R118). -/
  | vfadd (o : XOps)
  /-- VFSUB, opcode 0x41 (R118). -/
  | vfsub (o : XOps)
  /-- VFMUL, opcode 0x42 (R118). -/
  | vfmul (o : XOps)
  /-- VFMA, opcode 0x43 (R118). -/
  | vfma (o : XOps)
  /-- VFMIN, opcode 0x44 (R118). -/
  | vfmin (o : XOps)
  /-- VFMAX, opcode 0x45 (R118). -/
  | vfmax (o : XOps)
  /-- VFDIV, opcode 0x46 (R118). -/
  | vfdiv (o : XOps)
  /-- VFSQRT, opcode 0x47 (R119). -/
  | vfsqrt (o : XOps)
  /-- VFRCP, opcode 0x48 (R119). -/
  | vfrcp (o : XOps)
  /-- VFRSQ, opcode 0x49 (R119). -/
  | vfrsq (o : XOps)
  /-- VFEXP2, opcode 0x4A (R119). -/
  | vfexp2 (o : XOps)
  /-- VFLOG2, opcode 0x4B (R119). -/
  | vflog2 (o : XOps)
  /-- VFSINPI, opcode 0x4C (R119). -/
  | vfsinpi (o : XOps)
  /-- VFCOSPI, opcode 0x4D (R119). -/
  | vfcospi (o : XOps)
  /-- VFCMP_CC, opcode 0x4E (R121). -/
  | vfcmp (o : XOps)
  /-- VFCLASS, opcode 0x4F (R122). -/
  | vfclass (o : XOps)
  /-- VFRND, opcode 0x50 (R120). -/
  | vfrnd (o : XOps)
  /-- VSEL, opcode 0x51 (R123). -/
  | vsel (o : XOps)
  /-- VFLDEXP, opcode 0x52 (R118). -/
  | vfldexp (o : XOps)
  /-- VFADDS, opcode 0x53 (R118). -/
  | vfadds (o : XOps)
  /-- VFMULS, opcode 0x54 (R118). -/
  | vfmuls (o : XOps)
  /-- VFMAS, opcode 0x55 (R118). -/
  | vfmas (o : XOps)
  /-- VHADD, opcode 0x56 (R124). -/
  | vhadd (o : XOps)
  /-- VHMUL, opcode 0x57 (R124). -/
  | vhmul (o : XOps)
  /-- VHFMA, opcode 0x58 (R124). -/
  | vhfma (o : XOps)
  /-- VHDOT2, opcode 0x59 (R125). -/
  | vhdot2 (o : XOps)
  /-- VFDOT4, opcode 0x5A (R126). -/
  | vfdot4 (o : XOps)
  /-- VIADD, opcode 0x5B (R127). -/
  | viadd (o : ROps)
  /-- VISUB, opcode 0x5C (R127). -/
  | visub (o : ROps)
  /-- VIMUL, opcode 0x5D (R127). -/
  | vimul (o : ROps)
  /-- VIMULH, opcode 0x5E (R128). -/
  | vimulh (o : XOps)
  /-- VIMAD, opcode 0x5F (R128). -/
  | vimad (o : XOps)
  /-- VIMIN, opcode 0x60 (R128). -/
  | vimin (o : XOps)
  /-- VIMAX, opcode 0x61 (R128). -/
  | vimax (o : XOps)
  /-- VAND, opcode 0x62 (R127). -/
  | vand (o : ROps)
  /-- VOR, opcode 0x63 (R127). -/
  | vor (o : ROps)
  /-- VXOR, opcode 0x64 (R127). -/
  | vxor (o : ROps)
  /-- VSHL, opcode 0x65 (R127). -/
  | vshl (o : ROps)
  /-- VSHR, opcode 0x66 (R127). -/
  | vshr (o : ROps)
  /-- VSRA, opcode 0x67 (R127). -/
  | vsra (o : ROps)
  /-- VICMP_CC, opcode 0x68 (R129). -/
  | vicmp (o : XOps)
  /-- VBIT, opcode 0x69 (R130). -/
  | vbit (o : XOps)
  /-- VBFE, opcode 0x6A (R131). -/
  | vbfe (o : XOps)
  /-- VBFI, opcode 0x6B (R131). -/
  | vbfi (o : XOps)
  /-- VIADD64, opcode 0x6C (R132). -/
  | viadd64 (o : ROps)
  /-- VIDOT4, opcode 0x6D (R133). -/
  | vidot4 (o : XOps)
  /-- VIDOT8, opcode 0x6E (R133). -/
  | vidot8 (o : XOps)
  /-- VIADDS, opcode 0x6F (R128). -/
  | viadds (o : XOps)
  /-- VMOV, opcode 0x70 (R134). -/
  | vmov (o : ROps)
  /-- VMOVS, opcode 0x71 (R134). -/
  | vmovs (o : ROps)
  /-- VMOVI, opcode 0x72 (R134). -/
  | vmovi (o : IOps)
  /-- VLANE, opcode 0x73 (R134). -/
  | vlane (o : ROps)
  /-- VIADDI, opcode 0x74 (R134). -/
  | viaddi (o : IOps)
  /-- VCVT, opcode 0x80 (R135). -/
  | vcvt (o : XOps)
  /-- VCVTN, opcode 0x81 (R136). -/
  | vcvtn (o : XOps)
  /-- VCVTW, opcode 0x82 (R138). -/
  | vcvtw (o : XOps)
  /-- VPK16, opcode 0x83 (R139). -/
  | vpk16 (o : XOps)
  /-- VBLKSC, opcode 0x84 (R140). -/
  | vblksc (o : XOps)
  /-- VSHFL, opcode 0x90 (R142). -/
  | vshfl (o : XOps)
  /-- VBCST, opcode 0x91 (R143). -/
  | vbcst (o : XOps)
  /-- VRED, opcode 0x92 (R146). -/
  | vred (o : XOps)
  /-- VREDSP, opcode 0x93 (R146). -/
  | vredsp (o : XOps)
  /-- VSCAN, opcode 0x94 (R147). -/
  | vscan (o : XOps)
  /-- HAD32, opcode 0x95 (R148). -/
  | had32 (o : XOps)
  /-- VPACKL, opcode 0x96 (R149). -/
  | vpackl (o : XOps)
  /-- LDL, opcode 0xA0 (R188). -/
  | ldl (o : XOps)
  /-- STL, opcode 0xA1 (R188). -/
  | stl (o : XOps)
  /-- LDD, opcode 0xA2 (R188). -/
  | ldd (o : XOps)
  /-- STD, opcode 0xA3 (R188). -/
  | std (o : XOps)
  /-- ATL, opcode 0xA4 (R194). -/
  | atl (o : XOps)
  /-- ATD, opcode 0xA5 (R194). -/
  | atd (o : XOps)
  /-- ATD_R, opcode 0xA5 (R194). -/
  | atdR (o : XOps)
  /-- SPILL, opcode 0xA6 (R190). -/
  | spill (o : XOps)
  /-- FILL, opcode 0xA7 (R190). -/
  | fill (o : XOps)
  /-- LDH, opcode 0xA8 (R191). -/
  | ldh (o : XOps)
  /-- SLDL, opcode 0xA9 (R189). -/
  | sldl (o : ROps)
  /-- SSTL, opcode 0xAA (R189). -/
  | sstl (o : ROps)
  /-- CPYIN, opcode 0xB0 (R201). -/
  | cpyin (o : XOps)
  /-- CPYOUT, opcode 0xB1 (R202). -/
  | cpyout (o : XOps)
  /-- CPYOUT_H, opcode 0xB1 (R202). -/
  | cpyoutH (o : XOps)
  /-- TCPYIN, opcode 0xB2 (R203). -/
  | tcpyin (o : XOps)
  /-- TCPYOUT, opcode 0xB3 (R203). -/
  | tcpyout (o : XOps)
  /-- HOPEN, opcode 0xB4 (R198). -/
  | hopen (o : XOps)
  /-- HSEAL, opcode 0xB5 (R199). -/
  | hseal (o : ROps)
  /-- HFREE, opcode 0xB6 (R199). -/
  | hfree (o : ROps)
  /-- HWAIT_FULL, opcode 0xB7 (R200). -/
  | hwaitFull (o : ROps)
  /-- HWAIT_IDLE, opcode 0xB7 (R200). -/
  | hwaitIdle (o : ROps)
  /-- HSTAT, opcode 0xB8 (R200). -/
  | hstat (o : ROps)
  /-- GATOM, opcode 0xB9 (R195). -/
  | gatom (o : XOps)
  /-- GATOMR, opcode 0xBA (R196). -/
  | gatomr (o : XOps)
  /-- EVPOP, opcode 0xBB (R204). -/
  | evpop (o : ROps)
  /-- MLDB, opcode 0xC0 (R233). -/
  | mldb (o : XOps)
  /-- MMA, opcode 0xC1 (R234). -/
  | mma (o : XOps)
  /-- MOUTL, opcode 0xC2 (R235). -/
  | moutl (o : XOps)
  /-- MRD, opcode 0xC3 (R236). -/
  | mrd (o : XOps)
  /-- MZERO, opcode 0xC4 (R237). -/
  | mzero (o : ROps)
  /-- MFENCE, opcode 0xC5 (R238). -/
  | mfence (o : ROps)
  /-- XLDB, opcode 0xC6 (R239). -/
  | xldb (o : XOps)
  /-- XCMP, opcode 0xC7 (R240). -/
  | xcmp (o : XOps)
  /-- XROW, opcode 0xC8 (R241). -/
  | xrow (o : XOps)
  /-- XCOL, opcode 0xC9 (R241). -/
  | xcol (o : XOps)
  /-- XCLOS, opcode 0xCA (R242). -/
  | xclos (o : XOps)
  /-- XCOMP, opcode 0xCB (R242). -/
  | xcomp (o : ROps)
  /-- XTRN, opcode 0xCC (R242). -/
  | xtrn (o : ROps)
  /-- XLOG, opcode 0xCD (R242). -/
  | xlog (o : XOps)
  /-- XMOV, opcode 0xCE (R243). -/
  | xmov (o : XOps)
  /-- XSET, opcode 0xCF (R242). -/
  | xset (o : XOps)
  /-- TEX, opcode 0xD0 (R268). -/
  | tex (o : XOps)
  /-- TEXLD, opcode 0xD1 (R268). -/
  | texld (o : XOps)
  /-- HGF, opcode 0xD2 (R269). -/
  | hgf (o : XOps)
  /-- HGS, opcode 0xD3 (R270). -/
  | hgs (o : XOps)
  /-- TRACE, opcode 0xD4 (R271). -/
  | trace (o : XOps)
  /-- RND, opcode 0xD5 (R273). -/
  | rnd (o : XOps)
  /-- TRES, opcode 0xE0 (R317). -/
  | tres (o : XOps)
  /-- TVIEW, opcode 0xE1 (R318). -/
  | tview (o : XOps)
  /-- TQNEW, opcode 0xE2 (R320). -/
  | tqnew (o : XOps)
  /-- TQDEL, opcode 0xE3 (R321). -/
  | tqdel (o : XOps)
  /-- TQADD, opcode 0xE4 (R321). -/
  | tqadd (o : XOps)
  /-- TQREM, opcode 0xE5 (R321). -/
  | tqrem (o : XOps)
  /-- BINPUSH, opcode 0xE6 (R274). -/
  | binpush (o : XOps)
  /-- BINFLUSH, opcode 0xE7 (R275). -/
  | binflush (o : ROps)
  /-- LAUNCH, opcode 0xE8 (R322). -/
  | launch (o : XOps)
  /-- YIELD, opcode 0xF0 (R206). -/
  | yield_ (o : IOps)
  /-- BAR, opcode 0xF1 (R207). -/
  | bar (o : ROps)
  /-- SYSC, opcode 0xF2 (R208). -/
  | sysc (o : XOps)
  /-- TRAP, opcode 0xF3 (R209). -/
  | trap (o : ROps)
  /-- LDOVT, opcode 0xF4 (R212). -/
  | ldovt (o : ROps)
  /-- SLEEP, opcode 0xF5 (R211). -/
  | sleep (o : ROps)
  /-- BRK, opcode 0xF6 (R209). -/
  | brk (o : ROps)
  /-- PRD, opcode 0xF7 (R213). -/
  | prd (o : ROps)
  /-- PWR, opcode 0xF8 (R213). -/
  | pwr (o : ROps)
  /-- ERET, opcode 0xF9 (R210). -/
  | eret (o : ROps)
  /-- CLAUSE_DECODE (R42). -/
  | clauseDecode (t k : Nat)
  /-- DEADLINE (R206). -/
  | deadline (t k : Nat)
  /-- WAIT_TIMEOUT (R370). -/
  | waitTimeout (t i : Nat)
  /-- WAIT (R371). -/
  | wait (q : Datagram)
  /-- PAGE_ARRIVAL (R345). -/
  | pageArrival (t va : Nat)
  /-- GANG_DECISION_EXPIRY (R380). -/
  | gangDecisionExpiry (t g : Nat)
  /-- LOAD_DATA_ARRIVAL (R24). -/
  | loadDataArrival (t k i : Nat)
  /-- ATOMIC_OLD_VALUE_ARRIVAL (R194). -/
  | atomicOldValueArrival (t k i : Nat)
  /-- COPY_SECTOR_ARRIVAL (R179). -/
  | copySectorArrival (t i : Nat)
  /-- DRAIN_COMPLETE (R158). -/
  | drainComplete (t b i : Nat)
  /-- COMPLETE (R172). -/
  | complete (t b : Nat)
  /-- PERFORM (R182). -/
  | perform (t k i : Nat)
  /-- EVENT_RECORD_POST (R167). -/
  | eventRecordPost (t b e : Nat)
  /-- MATRIX_OP_START (R231). -/
  | matrixOpStart (t m : Nat)
  /-- MATRIX_OP_COMPLETE (R231). -/
  | matrixOpComplete (t m mism : Nat)
  /-- ENGINE_REPLY (R266). -/
  | engineReply (t k i : Nat)
  /-- TABLE_REPLY (R316). -/
  | tableReply (t k i : Nat)
  /-- BAR_RELEASE (R175). -/
  | barRelease (t b : Nat)
  /-- SYSC_DELIVER (R208). -/
  | syscDeliver (t k : Nat)
  /-- SYSC_REPLY (R208). -/
  | syscReply (t k : Nat)
  /-- SLEEP_EXPIRY (R211). -/
  | sleepExpiry (t k : Nat)
  /-- LAUNCH_RELEASE (R285). -/
  | launchRelease (t l : Nat)
  /-- BLOCK_PLACE (R289). -/
  | blockPlace (t l c : Nat)
  /-- LAUNCH_RETIRE (R286). -/
  | launchRetire (t l : Nat)
  /-- BIN_AGE_EXPIRY (R264). -/
  | binAgeExpiry (t die bin : Nat)
  /-- WORLD_SYNC (R308). -/
  | worldSync (t l : Nat)
  /-- QUANTUM_EXPIRY (R348). -/
  | quantumExpiry (t p : Nat) (stall : Bool)
  /-- CONTEXT_RESTORE (R351). -/
  | contextRestore (t b c : Nat)
  /-- SAVE_MAP_TIMEOUT (R350). -/
  | saveMapTimeout (t p : Nat) (va : DWord)
  /-- PAGER_RESTART (R347). -/
  | pagerRestart (t k : Nat)
  /-- FRAMES_TIMEOUT (R347). -/
  | framesTimeout (t k : Nat)
  /-- INVALIDATE (R346). -/
  | invalidate (t va len : Nat)
  /-- READY (R380). -/
  | ready (t g rank : Nat)
  /-- COMMIT (R381). -/
  | commit (t g : Nat)
  /-- ABORT (R381). -/
  | abort (t g rank : Nat)
  /-- GANG_TIMEOUT (R380). -/
  | gangTimeout (t g : Nat)
  /-- GANG_DECISION_QUERY (R380). -/
  | gangDecisionQuery (t g rank : Nat) (reached : Bool)
  /-- RDMA_WRITE (R377). -/
  | rdmaWrite (q : PeerOp)
  /-- RDMA_READ (R377). -/
  | rdmaRead (q : PeerOp)
  /-- FETCH_ADD (R377). -/
  | fetchAdd (q : PeerOp)
  /-- COMPARE_SWAP (R377). -/
  | compareSwap (q : PeerOp)
  /-- PEER_UNSUPPORTED_OP (R377). -/
  | peerUnsupportedOp (q : PeerOp)
  /-- PEER_ACK (R379). -/
  | peerAck (t b p : Nat)
  /-- PEERFAIL (R379). -/
  | peerfail (t b p : Nat)
  /-- MIGRATE_PAGE_PUSH (R382). -/
  | migratePagePush (t : Nat)
  /-- MIGRATE_END (R382). -/
  | migrateEnd (t : Nat)
  /-- CHECKPOINT_FREEZE (R386). -/
  | checkpointFreeze (t : Nat)
  /-- CHECKPOINT_COMPLETE (R386). -/
  | checkpointComplete (t : Nat) (durable : Bool)
  /-- ECC_ERROR (R390). -/
  | eccError (u : HwUnit) (corrected : Bool)
  /-- SELF_TEST (R392). -/
  | selfTest (u : HwUnit) (pass : Bool)
  /-- LINK_CRC_RETRY (R390). -/
  | linkCrcRetry (port : Nat) (repaired : Bool)
  /-- HBM_RETRAIN (R393). -/
  | hbmRetrain (ch : Nat)
  /-- DROOP_STRETCH (R393). -/
  | droopStretch (t c n : Nat)
  /-- THERMAL_THROTTLE (R395). -/
  | thermalThrottle (celsius : Nat)
  /-- THERMAL_SHUTDOWN (R395). -/
  | thermalShutdown (celsius : Nat)
  /-- BRING_UP (R396). -/
  | bringUp (failed : List HwUnit) (w : FwImage)
  /-- POWER_LOSS (R394). -/
  | powerLoss
  /-- FIRMWARE_IMAGE_CHECK (R397). -/
  | firmwareImageCheck (w : FwImage)
  /-- LOAD (R362). -/
  | load (q : Datagram)
  /-- ALLOC (R371). -/
  | alloc (q : Datagram)
  /-- FREE (R371). -/
  | free (q : Datagram)
  /-- READ (R374). -/
  | read (q : Datagram)
  /-- WRITE (R374). -/
  | write (q : Datagram)
  /-- RPC_LAUNCH (R283). -/
  | rpcLaunch (q : Datagram)
  /-- SYNC (R370). -/
  | sync (q : Datagram)
  /-- REGISTER_WORLD (R296). -/
  | registerWorld (q : Datagram)
  /-- REGISTER_QUERY (R312). -/
  | registerQuery (q : Datagram)
  /-- REGISTER_BIN (R262). -/
  | registerBin (q : Datagram)
  /-- REGISTER_TEXTURE (R246). -/
  | registerTexture (q : Datagram)
  /-- CHECKPOINT_TAKE (R384). -/
  | checkpointTake (q : Datagram)
  /-- CHECKPOINT_RESTORE (R388). -/
  | checkpointRestore (q : Datagram)
  /-- CHECKPOINT_LIST (R384). -/
  | checkpointList (q : Datagram)
  /-- MIGRATE (R382). -/
  | migrate (q : Datagram)
  /-- ATTEST (R397). -/
  | attest (q : Datagram)
  /-- STATUS (R372). -/
  | status (q : Datagram)
  /-- EVENTS (R376). -/
  | events (q : Datagram)
  /-- LOG (R372). -/
  | log (q : Datagram)
  /-- CONFIG (R367). -/
  | config (q : Datagram)
  /-- WINDOW_CREATE (R377). -/
  | windowCreate (q : Datagram)
  /-- WINDOW_REMOVE (R377). -/
  | windowRemove (q : Datagram)
  /-- PEERMAP (R378). -/
  | peermap (q : Datagram)
  /-- TENANT_CREATE (R367). -/
  | tenantCreate (q : Datagram)
  /-- TENANT_REMOVE (R367). -/
  | tenantRemove (q : Datagram)
  /-- CONTEXT_CREATE (R368). -/
  | contextCreate (q : Datagram)
  /-- CONTEXT_DESTROY (R368). -/
  | contextDestroy (q : Datagram)
  /-- UNASSIGNED_METHOD (R370). -/
  | unassignedMethod (q : Datagram)
  /-- PRECISION_TIME_PROTOCOL (R208). -/
  | precisionTimeProtocol (slew : Int)
  deriving DecidableEq, Repr

end Sys2Proof
end

