-- ==== Sys2Proof/WellFormed.lean ====
section
/-!
DEFINITION. Well-formed instructions: every field within the range its kind has (03 R49, R50), every must-be-zero field
zero, every modifier bit one that R45 and R116 give the instruction. What it refuses raises ILLEGAL with subcode
RESERVED at issue (R56). Checks that depend on the team's state (grants, privilege, memory) are made by the meanings.
-/
namespace Sys2Proof

namespace Wf
def atMost (x : Byte) (n : Nat) : Bool := decide (x.toNat ≤ n)
def atLeast (x : Byte) (n : Nat) : Bool := decide (n ≤ x.toNat)
def is (x : Byte) (n : Nat) : Bool := x.toNat == n
/-- An unused field: it must be zero (R45). -/
def z (x : Byte) : Bool := x == 0
/-- Scalar source codes 0 to 215 (R50). -/
def sSrc (x : Byte) : Bool := atMost x 215
/-- Scalar destinations s0 to s127 (R49). -/
def sDst (x : Byte) : Bool := atMost x 127
/-- Scalar pairs: even, 0 to 126 (R21, R49). -/
def sPair (x : Byte) : Bool := atMost x 126 && !x.getLsbD 0
def mSrc (x : Byte) : Bool := atMost x 18
/-- Mask destinations m0 to m15 and EXEC; LIVE and HELP are refused (R16). -/
def mDst (x : Byte) : Bool := atMost x 16
def vPair (x : Byte) : Bool := atMost x 254
def hdl (x : Byte) : Bool := atMost x 15
def fnIs (o : XOps) (n : Nat) : Bool := o.fn.toNat == n
def fnLe (o : XOps) (n : Nat) : Bool := decide (o.fn.toNat ≤ n)
/-- MOD[7:0] holds exactly `n`. -/
def lo (o : XOps) (n : Nat) : Bool := o.lo8.toNat == n

/-- The condition field of `BR.cond` and `CALL` (R47): COND 0 to 4, and mask code 0 when COND is ALWAYS. -/
def condOk (o : IOps) : Bool := mSrc o.d && atMost o.a 4 && z o.b && (!z o.a || z o.d)
/-- Number of elements that a 32-bit word holds in the format of code `f` (R62, R63). -/
def elemCount (f : Nat) : Nat :=
  if f == 5 || f == 6 || f == 7 then 8
  else if f == 3 || f == 4 || f == 8 || f == 9 then 4
  else if f == 1 || f == 2 || f == 10 || f == 11 then 2 else 1
def fp8 (x : BitVec 4) : Bool := x == 3 || x == 4
end Wf

/-- The modifier bits of word 1 (R45): each one set only where the instruction gives it a meaning (R116). -/
def XOps.modOk (o : XOps) (rm sat na nb nc absa : Bool) : Bool :=
  (if rm then decide (o.rm.toNat ≤ 5) else o.rm == 0) && (sat || !o.sat) && (na || !o.na) && (nb || !o.nb) &&
    (nc || !o.nc) && (absa || !o.absa)

/-- No modifier bit at all: MOD[15:8] is zero. -/
def XOps.plain (o : XOps) : Bool := o.modOk false false false false false false

namespace Wf
/-- `VCVT` (R135): formats F32, S32, N32, different; a rounding mode only where the result is rounded; sign modifiers only for an F32 source. -/
def vcvtOk (o : XOps) : Bool :=
  let dst := o.hiNib.toNat
  let src := o.loNib.toNat
  let f (x : Nat) : Bool := x == 0 || x == 12 || x == 13
  f dst && f src && dst != src && o.modOk (dst == 0 || src == 0) false (src == 0) false false (src == 0)
/-- `VCVTN` (R136). -/
def vcvtnOk (o : XOps) : Bool :=
  let dst := o.hiNib.toNat
  decide (1 ≤ dst) && decide (dst ≤ 11) && decide (o.loNib.toNat < elemCount dst) && o.modOk true (decide (dst ≤ 4)) true false false true
/-- `VCVTW` (R138): FN 1 takes integer formats only. -/
def vcvtwOk (o : XOps) : Bool :=
  let src := o.hiNib.toNat
  decide (1 ≤ src) && decide (src ≤ 11) && decide (o.loNib.toNat < elemCount src) && (!fnIs o 1 || decide (6 ≤ src))
/-- `VRED`, `VREDSP` (R144): a rounding mode only for FADD. -/
def redMod (o : XOps) : Bool := o.modOk (fnIs o 1) false false false false false
/-- `VSCAN` (R147): operation 0 to 10 in FN[3:0], FN[7:6] zero. -/
def scanOk (o : XOps) : Bool :=
  let op := o.fn.toNat % 16
  decide (op ≤ 10) && decide (o.fn.toNat < 64) && o.modOk (op == 1) false false false false false
/-- The operation and type of an atomic (R192). -/
def atomOk (o : XOps) : Bool :=
  let t := o.loNib.toNat
  o.plain && (match o.fn.toNat with
    | 0 => t == 0 || t == 4 || t == 3
    | 1 => t == 1 || t == 2 || t == 3 || t == 5 || t == 6
    | 2 => t == 1 || t == 2 || t == 3 || t == 5 || t == 6
    | 3 => t == 0 || t == 4
    | 4 => t == 0 || t == 4
    | 5 => t == 0 || t == 4
    | 6 => t == 0 || t == 4
    | 7 => t == 0 || t == 4
    | _ => false)
/-- A data register of an atomic: a vector pair for the 64-bit types (R192). -/
def atomSrc (o : XOps) (x : Byte) : Bool := decide (o.loNib.toNat < 4) || vPair x
/-- The third operand: a register for CAS, otherwise zero. -/
def atomCas (o : XOps) (x : Byte) : Bool := if fnIs o 7 then atomSrc o x else z x
/-- The registers of `ATL` and `ATD` (R194). -/
def atomRegs (o : XOps) (ret : Bool) (d b c : Byte) : Bool := (if ret then atomSrc o d else z d) && atomSrc o b && atomCas o c
/-- `SPILL` and `FILL` (R190): the kind, the count and the register group. -/
def spillOk (o : XOps) (fill : Bool) : Bool :=
  let n := o.c.toNat
  match o.fn.toNat with
  | 0 => decide (1 ≤ n)
  | 1 => decide (1 ≤ n) && decide (n ≤ 128) && decide (o.d.toNat + n ≤ 128)
  | 2 => n == 1 && (if fill then mDst o.d else mSrc o.d)
  | _ => false
/-- The operand formats of `MLDB` and `MMA` (R233, R234). -/
def matFmt (o : XOps) : Bool := fnIs o 5 || fnIs o 6 || fnIs o 8 || fnIs o 10
/-- `MRD` (R236). -/
def mrdOk (o : XOps) : Bool :=
  let dst := o.hiNib.toNat
  decide (dst ≤ 13) && decide (o.loNib.toNat < elemCount dst) && o.modOk true (decide (dst ≤ 4)) false false false false
/-- `XLDB` (R239): NaN policy 3 is reserved; policies only for F32 keys. -/
def xldbOk (o : XOps) : Bool := if fnIs o 2 then o.mod.extractLsb' 0 2 != 3 else lo o 0
/-- `SYSC` services (R208). -/
def syscFn (o : XOps) : Bool :=
  match o.fn.toNat with
  | 0 => lo o 0
  | 1 => true
  | 2 => lo o 0
  | n => decide (128 ≤ n)
end Wf

open Wf in
/-- The check of one instruction. An event is no instruction word and has no field to check. -/
def Instr.wf : Instr → Bool
  | .nop o => z o.d && z o.a && z o.b
  | .smov o => sDst o.d && sSrc o.a && z o.b
  | .smovi o => sDst o.d && z o.a && z o.b
  | .sadd o => sDst o.d && sSrc o.a && sSrc o.b
  | .ssub o => sDst o.d && sSrc o.a && sSrc o.b
  | .smul o => sDst o.d && sSrc o.a && sSrc o.b
  | .smulh o => sDst o.d && sSrc o.a && sSrc o.b
  | .smulhu o => sDst o.d && sSrc o.a && sSrc o.b
  | .sand o => sDst o.d && sSrc o.a && sSrc o.b
  | .sor o => sDst o.d && sSrc o.a && sSrc o.b
  | .sxor o => sDst o.d && sSrc o.a && sSrc o.b
  | .sshl o => sDst o.d && sSrc o.a && sSrc o.b
  | .sshr o => sDst o.d && sSrc o.a && sSrc o.b
  | .ssra o => sDst o.d && sSrc o.a && sSrc o.b
  | .scmp o => sDst o.d && sSrc o.a && sSrc o.b && z o.c && fnLe o 9 && o.plain && lo o 0
  | .ssel o => sDst o.d && sSrc o.a && sSrc o.b && sSrc o.c && fnIs o 0 && o.plain && lo o 0
  | .saddi o => sDst o.d && sSrc o.a && z o.b
  | .sldk o => sDst o.d && sSrc o.a && sSrc o.b
  | .sminS o => sDst o.d && sSrc o.a && sSrc o.b && z o.c && fnIs o 0 && o.plain && lo o 0
  | .sminU o => sDst o.d && sSrc o.a && sSrc o.b && z o.c && fnIs o 1 && o.plain && lo o 0
  | .smaxS o => sDst o.d && sSrc o.a && sSrc o.b && z o.c && fnIs o 2 && o.plain && lo o 0
  | .smaxU o => sDst o.d && sSrc o.a && sSrc o.b && z o.c && fnIs o 3 && o.plain && lo o 0
  | .sbit o => sDst o.d && sSrc o.a && z o.b && z o.c && fnLe o 3 && o.plain && lo o 0
  | .srdsr o => sDst o.d && z o.b
  | .swrsr o => sSrc o.a && z o.b
  | .brCond o => condOk o
  | .brz o => sDst o.d && z o.a && z o.b
  | .brnz o => sDst o.d && z o.a && z o.b
  | .call o => condOk o
  | .callv o => z o.d && sPair o.b
  | .calls o => z o.d && sPair o.a && z o.b
  | .ret o => z o.d && z o.a && z o.b
  | .jmps o => z o.d && sPair o.a && z o.b
  | .endt o => z o.d && z o.a && z o.b
  | .waitc o => atMost o.d 31 && sSrc o.a && z o.b
  | .mand o => mDst o.d && mSrc o.a && mSrc o.b
  | .mor o => mDst o.d && mSrc o.a && mSrc o.b
  | .mxor o => mDst o.d && mSrc o.a && mSrc o.b
  | .mandn o => mDst o.d && mSrc o.a && mSrc o.b
  | .mnot o => mDst o.d && mSrc o.a && z o.b
  | .mmov o => mDst o.d && mSrc o.a && z o.b
  | .mseti o => mDst o.d && z o.a && z o.b
  | .exenter o => atMost o.d 15 && mSrc o.a && z o.b
  | .exset o => z o.d && mSrc o.a && z o.b
  | .mcnt o => sDst o.d && mSrc o.a && z o.b
  | .mfirst o => sDst o.d && mSrc o.a && z o.b
  | .mgetw o => sDst o.d && mSrc o.a && sSrc o.b
  | .mputw o => mDst o.d && sSrc o.a && sSrc o.b
  | .vtom o => mDst o.d && z o.b
  | .mtov o => mSrc o.a && z o.b
  | .qswph o => z o.b
  | .qswpv o => z o.b
  | .qswpd o => z o.b
  | .qbcst o => sSrc o.b
  | .qddx o => z o.b
  | .qddy o => z o.b
  | .qhelp o => mDst o.d && mSrc o.a && z o.b
  | .vfadd o => z o.c && fnIs o 0 && o.modOk true true true true false true && lo o 0
  | .vfsub o => z o.c && fnIs o 0 && o.modOk true true true true false true && lo o 0
  | .vfmul o => z o.c && fnIs o 0 && o.modOk true true true true false true && lo o 0
  | .vfma o => fnIs o 0 && o.modOk true true true true true true && lo o 0
  | .vfmin o => z o.c && fnIs o 0 && o.modOk false false true true false true && lo o 0
  | .vfmax o => z o.c && fnIs o 0 && o.modOk false false true true false true && lo o 0
  | .vfdiv o => z o.c && fnIs o 0 && o.modOk false true true true false true && lo o 0
  | .vfsqrt o => z o.b && z o.c && fnIs o 0 && o.modOk false true true false false true && lo o 0
  | .vfrcp o => z o.b && z o.c && fnIs o 0 && o.modOk false true true false false true && lo o 0
  | .vfrsq o => z o.b && z o.c && fnIs o 0 && o.modOk false true true false false true && lo o 0
  | .vfexp2 o => z o.b && z o.c && fnIs o 0 && o.modOk false true true false false true && lo o 0
  | .vflog2 o => z o.b && z o.c && fnIs o 0 && o.modOk false true true false false true && lo o 0
  | .vfsinpi o => z o.b && z o.c && fnIs o 0 && o.modOk false true true false false true && lo o 0
  | .vfcospi o => z o.b && z o.c && fnIs o 0 && o.modOk false true true false false true && lo o 0
  | .vfcmp o => mDst o.d && z o.c && fnLe o 7 && o.modOk false false true true false true && lo o 0
  | .vfclass o => mDst o.d && z o.b && atMost o.c 1 && fnIs o 0 && o.modOk false false true false false true
  | .vfrnd o => z o.b && z o.c && fnIs o 0 && o.modOk true false true false false true && lo o 0
  | .vsel o => z o.c && fnIs o 0 && o.modOk false false true true false true && mSrc o.lo8
  | .vfldexp o => z o.c && fnIs o 0 && o.modOk true true true false false true && lo o 0
  | .vfadds o => sSrc o.b && z o.c && fnIs o 0 && o.modOk true true true true false true && lo o 0
  | .vfmuls o => sSrc o.b && z o.c && fnIs o 0 && o.modOk true true true true false true && lo o 0
  | .vfmas o => sSrc o.b && fnIs o 0 && o.modOk true true true true true true && lo o 0
  | .vhadd o => z o.c && fnIs o 0 && o.modOk true true true true false true && (lo o 1 || lo o 2)
  | .vhmul o => z o.c && fnIs o 0 && o.modOk true true true true false true && (lo o 1 || lo o 2)
  | .vhfma o => fnIs o 0 && o.modOk true true true true true true && (lo o 1 || lo o 2)
  | .vhdot2 o => fnIs o 0 && o.modOk true true true true true true && (lo o 1 || lo o 2)
  | .vfdot4 o => fnIs o 0 && o.modOk true true true true true true && fp8 o.hiNib && fp8 o.loNib
  | .viadd _ => true
  | .visub _ => true
  | .vimul _ => true
  | .vimulh o => z o.c && fnLe o 1 && o.plain && lo o 0
  | .vimad o => fnLe o 1 && o.modOk false true false false false false && lo o 0
  | .vimin o => z o.c && fnLe o 1 && o.plain && lo o 0
  | .vimax o => z o.c && fnLe o 1 && o.plain && lo o 0
  | .vand _ => true
  | .vor _ => true
  | .vxor _ => true
  | .vshl _ => true
  | .vshr _ => true
  | .vsra _ => true
  | .vicmp o => mDst o.d && z o.c && fnLe o 9 && o.plain && lo o 0
  | .vbit o => z o.b && z o.c && fnLe o 3 && o.plain && lo o 0
  | .vbfe o => z o.c && fnLe o 1 && o.plain && atMost o.lo8 32
  | .vbfi o => fnIs o 0 && o.plain && atMost o.lo8 32
  | .viadd64 o => vPair o.d && vPair o.a && vPair o.b
  | .vidot4 o => fnLe o 3 && o.modOk false true false false false false && lo o 0
  | .vidot8 o => fnLe o 3 && o.modOk false true false false false false && lo o 0
  | .viadds o => z o.c && fnLe o 3 && o.plain && lo o 0
  | .vmov o => z o.b
  | .vmovs o => sSrc o.a && z o.b
  | .vmovi o => z o.a && z o.b
  | .vlane o => z o.a && z o.b
  | .viaddi o => z o.b
  | .vcvt o => z o.b && z o.c && fnIs o 0 && vcvtOk o
  | .vcvtn o => z o.c && fnLe o 1 && (fnIs o 1 || z o.b) && vcvtnOk o
  | .vcvtw o => z o.c && fnLe o 2 && (fnIs o 2 || z o.b) && o.plain && vcvtwOk o
  | .vpk16 o => z o.c && fnIs o 0 && o.modOk true true true true false true && (lo o 1 || lo o 2)
  | .vblksc o => z o.b && z o.c && fnIs o 0 && o.plain && (lo o 3 || lo o 4 || lo o 5 || lo o 6 || lo o 8 || lo o 10)
  | .vshfl o => z o.c && fnLe o 3 && (fnIs o 0 || sSrc o.b) && o.plain && atLeast o.lo8 1 && atMost o.lo8 5
  | .vbcst o => sSrc o.b && z o.c && fnLe o 1 && o.plain && lo o 0
  | .vred o => sDst o.d && z o.b && z o.c && fnLe o 11 && redMod o && lo o 0
  | .vredsp o => z o.b && z o.c && fnLe o 11 && redMod o && lo o 0
  | .vscan o => z o.b && z o.c && scanOk o && lo o 0
  | .had32 o => z o.c && fnLe o 1 && (if fnIs o 0 then z o.b else sSrc o.b) && o.plain && lo o 0
  | .vpackl o => z o.b && sDst o.c && fnIs o 0 && o.plain && mSrc o.lo8
  | .ldl o => sSrc o.b && z o.c && fnIs o 0 && o.plain && atMost o.lo8 6
  | .stl o => sSrc o.b && z o.c && fnIs o 0 && o.plain && atMost o.lo8 4
  | .ldd o => sSrc o.b && z o.c && fnIs o 0 && o.plain && atMost o.lo8 6
  | .std o => sSrc o.b && z o.c && fnIs o 0 && o.plain && atMost o.lo8 4
  | .atl o => atomOk o && o.scopeF == 0 && atomRegs o o.ret o.d o.b o.c
  | .atd o => atomOk o && o.scopeF == 0 && !o.ret && atomRegs o false o.d o.b o.c
  | .atdR o => atomOk o && atMost o.scope8 4 && o.ret && atomRegs o true o.d o.b o.c
  | .spill o => sSrc o.a && z o.b && o.plain && lo o 0 && spillOk o false
  | .fill o => sSrc o.a && z o.b && o.plain && lo o 0 && spillOk o true
  | .ldh o => hdl o.a && z o.c && fnIs o 0 && o.plain && atMost o.lo8 6
  | .sldl o => sDst o.d && sSrc o.a && sSrc o.b
  | .sstl o => sSrc o.d && sSrc o.a && sSrc o.b
  | .cpyin o => hdl o.d && vPair o.b && z o.c && fnIs o 0 && o.plain && atMost o.lo8 2
  | .cpyout o => vPair o.d && z o.b && z o.c && fnIs o 0 && o.plain && atMost o.lo8 2
  | .cpyoutH o => vPair o.d && hdl o.a && z o.c && fnIs o 1 && o.plain && atMost o.lo8 2
  | .tcpyin o => hdl o.d && sSrc o.a && atMost o.b 124 && sSrc o.c && fnIs o 0 && o.plain && lo o 0
  | .tcpyout o => hdl o.d && sSrc o.a && atMost o.b 124 && sSrc o.c && fnIs o 0 && o.plain && lo o 0
  | .hopen o => hdl o.d && sSrc o.a && sSrc o.b && (if o.mod.getLsbD 1 then sSrc o.c else z o.c) && fnIs o 0 && o.plain && atMost o.lo8 3
  | .hseal o => hdl o.d && z o.a && z o.b
  | .hfree o => hdl o.d && z o.a && z o.b
  | .hwaitFull o => hdl o.d && z o.a && z o.b
  | .hwaitIdle o => hdl o.d && z o.a && is o.b 1
  | .hstat o => sDst o.d && hdl o.a && z o.b
  | .gatom o => vPair o.d && z o.c && atomOk o && atMost o.lo8 15 && atomSrc o o.a && atomCas o o.b
  | .gatomr o => vPair o.a && atomOk o && !o.ret && atMost o.scope8 4 && atomSrc o o.d && atomSrc o o.b && atomCas o o.c
  | .evpop o => sPair o.d && z o.a && z o.b
  | .mldb o => atMost o.d 3 && hdl o.a && z o.c && matFmt o && o.plain && atMost o.lo8 1 && (if o.mod.getLsbD 0 then sPair o.b else z o.b)
  | .mma o => atMost o.d 7 && atMost o.a 3 && hdl o.b && atMost o.c 63 && matFmt o && o.plain && atMost o.lo8 1
  | .moutl o => atMost o.d 7 && atMost o.a 3 && hdl o.b && sSrc o.c && fnIs o 0 && o.plain && lo o 0
  | .mrd o => atMost o.a 7 && sSrc o.b && sSrc o.c && fnLe o 7 && mrdOk o
  | .mzero o => atMost o.d 7 && z o.a && z o.b
  | .mfence o => z o.d && z o.a && z o.b
  | .xldb o => atMost o.d 3 && sSrc o.b && z o.c && fnLe o 2 && o.plain && atMost o.lo8 7 && xldbOk o
  | .xcmp o => atMost o.d 7 && atMost o.a 3 && z o.c && fnLe o 7 && o.plain && lo o 0
  | .xrow o => atMost o.a 7 && z o.b && z o.c && fnLe o 3 && o.plain && atMost o.lo8 64
  | .xcol o => atMost o.a 7 && z o.b && z o.c && fnLe o 1 && o.plain && atMost o.lo8 64
  | .xclos o => atMost o.d 7 && atMost o.a 7 && z o.b && z o.c && fnLe o 1 && o.plain && lo o 0
  | .xcomp o => atMost o.d 7 && atMost o.a 7 && atMost o.b 7
  | .xtrn o => atMost o.d 7 && atMost o.a 7 && z o.b
  | .xlog o => atMost o.d 7 && atMost o.a 7 && atMost o.b 7 && z o.c && fnLe o 3 && o.plain && lo o 0
  | .xmov o => z o.b && z o.c && fnLe o 1 && o.plain && lo o 0 && (if fnIs o 0 then vPair o.d && atMost o.a 7 else atMost o.d 7 && vPair o.a)
  | .xset o => atMost o.d 7 && z o.a && z o.b && z o.c && fnLe o 2 && o.plain && lo o 0
  | .tex o => sPair o.b && atMost o.c 15 && fnIs o 0 && o.plain && lo o 0
  | .texld o => sPair o.b && atMost o.c 15 && fnIs o 0 && o.plain && lo o 0
  | .hgf o => sPair o.b && atMost o.c 15 && fnIs o 0 && o.plain
  | .hgs o => sPair o.b && sPair o.c && fnIs o 0 && o.plain
  | .trace o => sPair o.b && z o.c && fnIs o 0 && o.plain && lo o 0
  | .rnd o => z o.c && fnLe o 1 && o.plain && atMost o.lo8 1 && (lo o 0 || sSrc o.b)
  | .tres o => vPair o.a && sSrc o.b && z o.c && fnLe o 1 && o.plain && lo o 0
  | .tview o => sSrc o.b && fnLe o 2 && (if fnIs o 2 then sPair o.c else z o.c) && o.plain && lo o 0
  | .tqnew o => vPair o.d && z o.a && sSrc o.b && z o.c && fnIs o 0 && o.plain && lo o 0
  | .tqdel o => z o.d && vPair o.a && sSrc o.b && z o.c && fnIs o 0 && o.plain && lo o 0
  | .tqadd o => vPair o.a && sSrc o.b && z o.c && fnIs o 0 && o.plain && atMost o.lo8 63
  | .tqrem o => z o.d && vPair o.a && sSrc o.b && z o.c && fnIs o 0 && o.plain && lo o 0
  | .binpush o => z o.d && sSrc o.b && z o.c && fnIs o 0 && o.plain && atLeast o.lo8 4 && atMost o.lo8 16
  | .binflush o => z o.d && sSrc o.a && z o.b
  | .launch o => z o.d && sSrc o.a && z o.b && (if o.mod.getLsbD 0 then sPair o.c else z o.c) && fnIs o 0 && o.plain && atMost o.lo8 1
  | .yield_ o => atMost o.d 4 && z o.a && z o.b
  | .bar o => atLeast o.d 1 && atMost o.d 4 && z o.a && z o.b
  | .sysc o => sPair o.d && sSrc o.a && sSrc o.b && (lo o 1 || z o.c) && o.plain && atMost o.lo8 1 && syscFn o
  | .trap o => z o.a && z o.b
  | .ldovt o => z o.d && sSrc o.a && z o.b
  | .sleep o => atMost o.d 1 && sSrc o.a && z o.b
  | .brk o => z o.a && z o.b
  | .prd o => sDst o.d && sSrc o.a && z o.b
  | .pwr o => z o.d && sSrc o.a && sSrc o.b
  | .eret o => z o.d && z o.a && z o.b
  | .clauseDecode _ _ => true
  | .deadline _ _ => true
  | .loadDataArrival _ _ _ => true
  | .atomicOldValueArrival _ _ _ => true
  | .copySectorArrival _ _ => true
  | .drainComplete _ _ _ => true
  | .complete _ _ => true
  | .perform _ _ _ => true
  | .eventRecordPost _ _ _ => true
  | .matrixOpStart _ _ => true
  | .matrixOpComplete _ _ _ => true
  | .engineReply _ _ _ => true
  | .tableReply _ _ _ => true
  | .barRelease _ _ => true
  | .syscDeliver _ _ => true
  | .syscReply _ _ => true
  | .sleepExpiry _ _ => true
  | .launchRelease _ _ => true
  | .blockPlace _ _ _ => true
  | .launchRetire _ _ => true
  | .binAgeExpiry _ _ _ => true
  | .worldSync _ _ => true
  | .quantumExpiry _ _ _ => true
  | .contextRestore _ _ _ => true
  | .saveMapTimeout _ _ _ => true
  | .pagerRestart _ _ => true
  | .framesTimeout _ _ => true
  | .invalidate _ _ _ => true
  | .ready _ _ _ => true
  | .commit _ _ => true
  | .abort _ _ _ => true
  | .gangTimeout _ _ => true
  | .gangDecisionQuery _ _ _ _ => true
  | .rdmaWrite _ => true
  | .rdmaRead _ => true
  | .fetchAdd _ => true
  | .compareSwap _ => true
  | .peerUnsupportedOp _ => true
  | .peerAck _ _ _ => true
  | .peerfail _ _ _ => true
  | .migratePagePush _ => true
  | .migrateEnd _ => true
  | .checkpointFreeze _ => true
  | .checkpointComplete _ _ => true
  | .eccError _ _ => true
  | .selfTest _ _ => true
  | .linkCrcRetry _ _ => true
  | .hbmRetrain _ => true
  | .droopStretch _ _ _ => true
  | .thermalThrottle _ => true
  | .thermalShutdown _ => true
  | .bringUp _ _ => true
  | .powerLoss => true
  | .firmwareImageCheck _ => true
  | .load _ => true
  | .alloc _ => true
  | .free _ => true
  | .read _ => true
  | .write _ => true
  | .rpcLaunch _ => true
  | .wait _ => true
  | .waitTimeout _ _ => true
  | .sync _ => true
  | .registerWorld _ => true
  | .registerQuery _ => true
  | .registerBin _ => true
  | .registerTexture _ => true
  | .checkpointTake _ => true
  | .checkpointRestore _ => true
  | .checkpointList _ => true
  | .migrate _ => true
  | .attest _ => true
  | .status _ => true
  | .events _ => true
  | .log _ => true
  | .config _ => true
  | .windowCreate _ => true
  | .windowRemove _ => true
  | .peermap _ => true
  | .tenantCreate _ => true
  | .tenantRemove _ => true
  | .contextCreate _ => true
  | .contextDestroy _ => true
  | .pageArrival _ _ => true
  | .unassignedMethod _ => true
  | .precisionTimeProtocol _ => true
  | .gangDecisionExpiry _ _ => true

/-- The rows that are instruction words. -/
def Instr.isWord : Instr → Bool
  | .nop _ => true
  | .smov _ => true
  | .smovi _ => true
  | .sadd _ => true
  | .ssub _ => true
  | .smul _ => true
  | .smulh _ => true
  | .smulhu _ => true
  | .sand _ => true
  | .sor _ => true
  | .sxor _ => true
  | .sshl _ => true
  | .sshr _ => true
  | .ssra _ => true
  | .scmp _ => true
  | .ssel _ => true
  | .saddi _ => true
  | .sldk _ => true
  | .sminS _ => true
  | .sminU _ => true
  | .smaxS _ => true
  | .smaxU _ => true
  | .sbit _ => true
  | .srdsr _ => true
  | .swrsr _ => true
  | .brCond _ => true
  | .brz _ => true
  | .brnz _ => true
  | .call _ => true
  | .callv _ => true
  | .calls _ => true
  | .ret _ => true
  | .jmps _ => true
  | .endt _ => true
  | .waitc _ => true
  | .mand _ => true
  | .mor _ => true
  | .mxor _ => true
  | .mandn _ => true
  | .mnot _ => true
  | .mmov _ => true
  | .mseti _ => true
  | .exenter _ => true
  | .exset _ => true
  | .mcnt _ => true
  | .mfirst _ => true
  | .mgetw _ => true
  | .mputw _ => true
  | .vtom _ => true
  | .mtov _ => true
  | .qswph _ => true
  | .qswpv _ => true
  | .qswpd _ => true
  | .qbcst _ => true
  | .qddx _ => true
  | .qddy _ => true
  | .qhelp _ => true
  | .vfadd _ => true
  | .vfsub _ => true
  | .vfmul _ => true
  | .vfma _ => true
  | .vfmin _ => true
  | .vfmax _ => true
  | .vfdiv _ => true
  | .vfsqrt _ => true
  | .vfrcp _ => true
  | .vfrsq _ => true
  | .vfexp2 _ => true
  | .vflog2 _ => true
  | .vfsinpi _ => true
  | .vfcospi _ => true
  | .vfcmp _ => true
  | .vfclass _ => true
  | .vfrnd _ => true
  | .vsel _ => true
  | .vfldexp _ => true
  | .vfadds _ => true
  | .vfmuls _ => true
  | .vfmas _ => true
  | .vhadd _ => true
  | .vhmul _ => true
  | .vhfma _ => true
  | .vhdot2 _ => true
  | .vfdot4 _ => true
  | .viadd _ => true
  | .visub _ => true
  | .vimul _ => true
  | .vimulh _ => true
  | .vimad _ => true
  | .vimin _ => true
  | .vimax _ => true
  | .vand _ => true
  | .vor _ => true
  | .vxor _ => true
  | .vshl _ => true
  | .vshr _ => true
  | .vsra _ => true
  | .vicmp _ => true
  | .vbit _ => true
  | .vbfe _ => true
  | .vbfi _ => true
  | .viadd64 _ => true
  | .vidot4 _ => true
  | .vidot8 _ => true
  | .viadds _ => true
  | .vmov _ => true
  | .vmovs _ => true
  | .vmovi _ => true
  | .vlane _ => true
  | .viaddi _ => true
  | .vcvt _ => true
  | .vcvtn _ => true
  | .vcvtw _ => true
  | .vpk16 _ => true
  | .vblksc _ => true
  | .vshfl _ => true
  | .vbcst _ => true
  | .vred _ => true
  | .vredsp _ => true
  | .vscan _ => true
  | .had32 _ => true
  | .vpackl _ => true
  | .ldl _ => true
  | .stl _ => true
  | .ldd _ => true
  | .std _ => true
  | .atl _ => true
  | .atd _ => true
  | .atdR _ => true
  | .spill _ => true
  | .fill _ => true
  | .ldh _ => true
  | .sldl _ => true
  | .sstl _ => true
  | .cpyin _ => true
  | .cpyout _ => true
  | .cpyoutH _ => true
  | .tcpyin _ => true
  | .tcpyout _ => true
  | .hopen _ => true
  | .hseal _ => true
  | .hfree _ => true
  | .hwaitFull _ => true
  | .hwaitIdle _ => true
  | .hstat _ => true
  | .gatom _ => true
  | .gatomr _ => true
  | .evpop _ => true
  | .mldb _ => true
  | .mma _ => true
  | .moutl _ => true
  | .mrd _ => true
  | .mzero _ => true
  | .mfence _ => true
  | .xldb _ => true
  | .xcmp _ => true
  | .xrow _ => true
  | .xcol _ => true
  | .xclos _ => true
  | .xcomp _ => true
  | .xtrn _ => true
  | .xlog _ => true
  | .xmov _ => true
  | .xset _ => true
  | .tex _ => true
  | .texld _ => true
  | .hgf _ => true
  | .hgs _ => true
  | .trace _ => true
  | .rnd _ => true
  | .tres _ => true
  | .tview _ => true
  | .tqnew _ => true
  | .tqdel _ => true
  | .tqadd _ => true
  | .tqrem _ => true
  | .binpush _ => true
  | .binflush _ => true
  | .launch _ => true
  | .yield_ _ => true
  | .bar _ => true
  | .sysc _ => true
  | .trap _ => true
  | .ldovt _ => true
  | .sleep _ => true
  | .brk _ => true
  | .prd _ => true
  | .pwr _ => true
  | .eret _ => true
  | .clauseDecode _ _ => false
  | .deadline _ _ => false
  | .loadDataArrival _ _ _ => false
  | .atomicOldValueArrival _ _ _ => false
  | .copySectorArrival _ _ => false
  | .drainComplete _ _ _ => false
  | .complete _ _ => false
  | .perform _ _ _ => false
  | .eventRecordPost _ _ _ => false
  | .matrixOpStart _ _ => false
  | .matrixOpComplete _ _ _ => false
  | .engineReply _ _ _ => false
  | .tableReply _ _ _ => false
  | .barRelease _ _ => false
  | .syscDeliver _ _ => false
  | .syscReply _ _ => false
  | .sleepExpiry _ _ => false
  | .launchRelease _ _ => false
  | .blockPlace _ _ _ => false
  | .launchRetire _ _ => false
  | .binAgeExpiry _ _ _ => false
  | .worldSync _ _ => false
  | .quantumExpiry _ _ _ => false
  | .contextRestore _ _ _ => false
  | .saveMapTimeout _ _ _ => false
  | .pagerRestart _ _ => false
  | .framesTimeout _ _ => false
  | .invalidate _ _ _ => false
  | .ready _ _ _ => false
  | .commit _ _ => false
  | .abort _ _ _ => false
  | .gangTimeout _ _ => false
  | .gangDecisionQuery _ _ _ _ => false
  | .rdmaWrite _ => false
  | .rdmaRead _ => false
  | .fetchAdd _ => false
  | .compareSwap _ => false
  | .peerUnsupportedOp _ => false
  | .peerAck _ _ _ => false
  | .peerfail _ _ _ => false
  | .migratePagePush _ => false
  | .migrateEnd _ => false
  | .checkpointFreeze _ => false
  | .checkpointComplete _ _ => false
  | .eccError _ _ => false
  | .selfTest _ _ => false
  | .linkCrcRetry _ _ => false
  | .hbmRetrain _ => false
  | .droopStretch _ _ _ => false
  | .thermalThrottle _ => false
  | .thermalShutdown _ => false
  | .bringUp _ _ => false
  | .powerLoss => false
  | .firmwareImageCheck _ => false
  | .load _ => false
  | .alloc _ => false
  | .free _ => false
  | .read _ => false
  | .write _ => false
  | .rpcLaunch _ => false
  | .wait _ => false
  | .waitTimeout _ _ => false
  | .sync _ => false
  | .registerWorld _ => false
  | .registerQuery _ => false
  | .registerBin _ => false
  | .registerTexture _ => false
  | .checkpointTake _ => false
  | .checkpointRestore _ => false
  | .checkpointList _ => false
  | .migrate _ => false
  | .attest _ => false
  | .status _ => false
  | .events _ => false
  | .log _ => false
  | .config _ => false
  | .windowCreate _ => false
  | .windowRemove _ => false
  | .peermap _ => false
  | .tenantCreate _ => false
  | .tenantRemove _ => false
  | .contextCreate _ => false
  | .contextDestroy _ => false
  | .pageArrival _ _ => false
  | .unassignedMethod _ => false
  | .precisionTimeProtocol _ => false
  | .gangDecisionExpiry _ _ => false

end Sys2Proof
end

