-- ==== Sys2Proof/Decode.lean ====
section
/-!
DEFINITION. From words to instructions and back. The opcode map, lengths, engine classes and terminators are 03 R54;
the word layouts are R44 to R47. `decode` is total: an opcode of R55 is rejected as `opcode`, a two-word instruction
without its word 1 as `straddle`, and an ill-formed instruction as `reserved`. `encode` writes the same layouts.
-/
namespace Sys2Proof

/-- The formats of R44. BR and BRS have the shape of I: word 0 fields and one whole word. -/
inductive Fmt where
  | r | x | i
  deriving DecidableEq, Repr

/-- Why a word is no instruction. -/
inductive Reject where
  /-- there is no word at all -/
  | noWord
  /-- an unassigned opcode (R55): ILLEGAL, subcode OPCODE -/
  | opcode
  /-- a two-word instruction without its word 1 (R41): ILLEGAL, subcode STRADDLE -/
  | straddle
  /-- a reserved field, code or value (R45, R49): ILLEGAL, subcode RESERVED -/
  | reserved
  deriving DecidableEq, Repr

/-- The format of an opcode value, none for the 73 values of R55. -/
def fmtOf (opc : Nat) : Option Fmt :=
  match opc with
  | 0x00 => some .r
  | 0x01 => some .r
  | 0x02 => some .i
  | 0x03 => some .r
  | 0x04 => some .r
  | 0x05 => some .r
  | 0x06 => some .r
  | 0x07 => some .r
  | 0x08 => some .r
  | 0x09 => some .r
  | 0x0A => some .r
  | 0x0B => some .r
  | 0x0C => some .r
  | 0x0D => some .r
  | 0x0E => some .x
  | 0x0F => some .x
  | 0x10 => some .i
  | 0x11 => some .r
  | 0x12 => some .x
  | 0x13 => some .x
  | 0x14 => some .r
  | 0x15 => some .r
  | 0x16 => some .i
  | 0x17 => some .i
  | 0x18 => some .i
  | 0x19 => some .i
  | 0x1A => some .r
  | 0x1B => some .r
  | 0x1C => some .r
  | 0x1D => some .r
  | 0x1E => some .r
  | 0x1F => some .r
  | 0x20 => some .r
  | 0x21 => some .r
  | 0x22 => some .r
  | 0x23 => some .r
  | 0x24 => some .r
  | 0x25 => some .r
  | 0x26 => some .i
  | 0x27 => some .r
  | 0x28 => some .r
  | 0x29 => some .r
  | 0x2A => some .r
  | 0x2B => some .r
  | 0x2C => some .r
  | 0x2D => some .r
  | 0x2E => some .r
  | 0x30 => some .r
  | 0x31 => some .r
  | 0x32 => some .r
  | 0x33 => some .r
  | 0x34 => some .r
  | 0x35 => some .r
  | 0x36 => some .r
  | 0x40 => some .x
  | 0x41 => some .x
  | 0x42 => some .x
  | 0x43 => some .x
  | 0x44 => some .x
  | 0x45 => some .x
  | 0x46 => some .x
  | 0x47 => some .x
  | 0x48 => some .x
  | 0x49 => some .x
  | 0x4A => some .x
  | 0x4B => some .x
  | 0x4C => some .x
  | 0x4D => some .x
  | 0x4E => some .x
  | 0x4F => some .x
  | 0x50 => some .x
  | 0x51 => some .x
  | 0x52 => some .x
  | 0x53 => some .x
  | 0x54 => some .x
  | 0x55 => some .x
  | 0x56 => some .x
  | 0x57 => some .x
  | 0x58 => some .x
  | 0x59 => some .x
  | 0x5A => some .x
  | 0x5B => some .r
  | 0x5C => some .r
  | 0x5D => some .r
  | 0x5E => some .x
  | 0x5F => some .x
  | 0x60 => some .x
  | 0x61 => some .x
  | 0x62 => some .r
  | 0x63 => some .r
  | 0x64 => some .r
  | 0x65 => some .r
  | 0x66 => some .r
  | 0x67 => some .r
  | 0x68 => some .x
  | 0x69 => some .x
  | 0x6A => some .x
  | 0x6B => some .x
  | 0x6C => some .r
  | 0x6D => some .x
  | 0x6E => some .x
  | 0x6F => some .x
  | 0x70 => some .r
  | 0x71 => some .r
  | 0x72 => some .i
  | 0x73 => some .r
  | 0x74 => some .i
  | 0x80 => some .x
  | 0x81 => some .x
  | 0x82 => some .x
  | 0x83 => some .x
  | 0x84 => some .x
  | 0x90 => some .x
  | 0x91 => some .x
  | 0x92 => some .x
  | 0x93 => some .x
  | 0x94 => some .x
  | 0x95 => some .x
  | 0x96 => some .x
  | 0xA0 => some .x
  | 0xA1 => some .x
  | 0xA2 => some .x
  | 0xA3 => some .x
  | 0xA4 => some .x
  | 0xA5 => some .x
  | 0xA6 => some .x
  | 0xA7 => some .x
  | 0xA8 => some .x
  | 0xA9 => some .r
  | 0xAA => some .r
  | 0xB0 => some .x
  | 0xB1 => some .x
  | 0xB2 => some .x
  | 0xB3 => some .x
  | 0xB4 => some .x
  | 0xB5 => some .r
  | 0xB6 => some .r
  | 0xB7 => some .r
  | 0xB8 => some .r
  | 0xB9 => some .x
  | 0xBA => some .x
  | 0xBB => some .r
  | 0xC0 => some .x
  | 0xC1 => some .x
  | 0xC2 => some .x
  | 0xC3 => some .x
  | 0xC4 => some .r
  | 0xC5 => some .r
  | 0xC6 => some .x
  | 0xC7 => some .x
  | 0xC8 => some .x
  | 0xC9 => some .x
  | 0xCA => some .x
  | 0xCB => some .r
  | 0xCC => some .r
  | 0xCD => some .x
  | 0xCE => some .x
  | 0xCF => some .x
  | 0xD0 => some .x
  | 0xD1 => some .x
  | 0xD2 => some .x
  | 0xD3 => some .x
  | 0xD4 => some .x
  | 0xD5 => some .x
  | 0xE0 => some .x
  | 0xE1 => some .x
  | 0xE2 => some .x
  | 0xE3 => some .x
  | 0xE4 => some .x
  | 0xE5 => some .x
  | 0xE6 => some .x
  | 0xE7 => some .r
  | 0xE8 => some .x
  | 0xF0 => some .i
  | 0xF1 => some .r
  | 0xF2 => some .x
  | 0xF3 => some .r
  | 0xF4 => some .r
  | 0xF5 => some .r
  | 0xF6 => some .r
  | 0xF7 => some .r
  | 0xF8 => some .r
  | 0xF9 => some .r
  | _ => none

/-- The engine class of an opcode (R54): 1 copy, 2 matrix, 3 sampler, 4 table, 0 none. -/
def classOf (opc : Nat) : Nat :=
  if (0xB0 ≤ opc ∧ opc ≤ 0xB6) ∨ opc = 0xB9 ∨ opc = 0xBA then 1
  else if 0xC0 ≤ opc ∧ opc ≤ 0xCF then 2
  else if 0xD0 ≤ opc ∧ opc ≤ 0xD4 then 3
  else if 0xE0 ≤ opc ∧ opc ≤ 0xE8 then 4
  else 0

/-- The terminators that the opcode alone marks (R40, R54). -/
def isTerm (opc : Nat) : Bool :=
  (0x16 ≤ opc && opc ≤ 0x1E) || opc == 0xBA || opc == 0xE8 || (0xF0 ≤ opc && opc ≤ 0xF3) || opc == 0xF9

/-- The terminator test of R40 with word 1 at hand: `ATD` is one in its returning form (MOD[7], R194). -/
def isTermWords (opc : Nat) (w1 : Word) : Bool := isTerm opc || (opc == 0xA5 && w1.getLsbD 7)

def opcOf (w : Word) : Nat := (w.extractLsb' 24 8).toNat
def rOf (w : Word) : ROps := { d := w.extractLsb' 16 8, a := w.extractLsb' 8 8, b := w.extractLsb' 0 8 }
def xOf (w w1 : Word) : XOps :=
  { d := w.extractLsb' 16 8, a := w.extractLsb' 8 8, b := w.extractLsb' 0 8,
    c := w1.extractLsb' 24 8, fn := w1.extractLsb' 16 8, mod := w1.extractLsb' 0 16 }
def iOf (w w1 : Word) : IOps := { d := w.extractLsb' 16 8, a := w.extractLsb' 8 8, b := w.extractLsb' 0 8, imm := w1 }

/-- R-form instructions by opcode; `HWAIT` splits on its mode (R200). -/
def buildR (opc : Nat) (o : ROps) : Option Instr :=
  match opc with
  | 0x00 => some (.nop o)
  | 0x01 => some (.smov o)
  | 0x03 => some (.sadd o)
  | 0x04 => some (.ssub o)
  | 0x05 => some (.smul o)
  | 0x06 => some (.smulh o)
  | 0x07 => some (.smulhu o)
  | 0x08 => some (.sand o)
  | 0x09 => some (.sor o)
  | 0x0A => some (.sxor o)
  | 0x0B => some (.sshl o)
  | 0x0C => some (.sshr o)
  | 0x0D => some (.ssra o)
  | 0x11 => some (.sldk o)
  | 0x14 => some (.srdsr o)
  | 0x15 => some (.swrsr o)
  | 0x1A => some (.callv o)
  | 0x1B => some (.calls o)
  | 0x1C => some (.ret o)
  | 0x1D => some (.jmps o)
  | 0x1E => some (.endt o)
  | 0x1F => some (.waitc o)
  | 0x20 => some (.mand o)
  | 0x21 => some (.mor o)
  | 0x22 => some (.mxor o)
  | 0x23 => some (.mandn o)
  | 0x24 => some (.mnot o)
  | 0x25 => some (.mmov o)
  | 0x27 => some (.exenter o)
  | 0x28 => some (.exset o)
  | 0x29 => some (.mcnt o)
  | 0x2A => some (.mfirst o)
  | 0x2B => some (.mgetw o)
  | 0x2C => some (.mputw o)
  | 0x2D => some (.vtom o)
  | 0x2E => some (.mtov o)
  | 0x30 => some (.qswph o)
  | 0x31 => some (.qswpv o)
  | 0x32 => some (.qswpd o)
  | 0x33 => some (.qbcst o)
  | 0x34 => some (.qddx o)
  | 0x35 => some (.qddy o)
  | 0x36 => some (.qhelp o)
  | 0x5B => some (.viadd o)
  | 0x5C => some (.visub o)
  | 0x5D => some (.vimul o)
  | 0x62 => some (.vand o)
  | 0x63 => some (.vor o)
  | 0x64 => some (.vxor o)
  | 0x65 => some (.vshl o)
  | 0x66 => some (.vshr o)
  | 0x67 => some (.vsra o)
  | 0x6C => some (.viadd64 o)
  | 0x70 => some (.vmov o)
  | 0x71 => some (.vmovs o)
  | 0x73 => some (.vlane o)
  | 0xA9 => some (.sldl o)
  | 0xAA => some (.sstl o)
  | 0xB5 => some (.hseal o)
  | 0xB6 => some (.hfree o)
  | 0xB7 => some (if o.b = 1 then .hwaitIdle o else .hwaitFull o)
  | 0xB8 => some (.hstat o)
  | 0xBB => some (.evpop o)
  | 0xC4 => some (.mzero o)
  | 0xC5 => some (.mfence o)
  | 0xCB => some (.xcomp o)
  | 0xCC => some (.xtrn o)
  | 0xE7 => some (.binflush o)
  | 0xF1 => some (.bar o)
  | 0xF3 => some (.trap o)
  | 0xF4 => some (.ldovt o)
  | 0xF5 => some (.sleep o)
  | 0xF6 => some (.brk o)
  | 0xF7 => some (.prd o)
  | 0xF8 => some (.pwr o)
  | 0xF9 => some (.eret o)
  | _ => none

/-- X-form instructions by opcode; one opcode that carries several rows splits on FN (R86, R202) or on RET (R194). -/
def buildX (opc : Nat) (o : XOps) : Option Instr :=
  match opc with
  | 0x0E => some (.scmp o)
  | 0x0F => some (.ssel o)
  | 0x12 => if o.fn = 0 then some (.sminS o) else if o.fn = 1 then some (.sminU o) else if o.fn = 2 then some (.smaxS o) else if o.fn = 3 then some (.smaxU o) else none
  | 0x13 => some (.sbit o)
  | 0x40 => some (.vfadd o)
  | 0x41 => some (.vfsub o)
  | 0x42 => some (.vfmul o)
  | 0x43 => some (.vfma o)
  | 0x44 => some (.vfmin o)
  | 0x45 => some (.vfmax o)
  | 0x46 => some (.vfdiv o)
  | 0x47 => some (.vfsqrt o)
  | 0x48 => some (.vfrcp o)
  | 0x49 => some (.vfrsq o)
  | 0x4A => some (.vfexp2 o)
  | 0x4B => some (.vflog2 o)
  | 0x4C => some (.vfsinpi o)
  | 0x4D => some (.vfcospi o)
  | 0x4E => some (.vfcmp o)
  | 0x4F => some (.vfclass o)
  | 0x50 => some (.vfrnd o)
  | 0x51 => some (.vsel o)
  | 0x52 => some (.vfldexp o)
  | 0x53 => some (.vfadds o)
  | 0x54 => some (.vfmuls o)
  | 0x55 => some (.vfmas o)
  | 0x56 => some (.vhadd o)
  | 0x57 => some (.vhmul o)
  | 0x58 => some (.vhfma o)
  | 0x59 => some (.vhdot2 o)
  | 0x5A => some (.vfdot4 o)
  | 0x5E => some (.vimulh o)
  | 0x5F => some (.vimad o)
  | 0x60 => some (.vimin o)
  | 0x61 => some (.vimax o)
  | 0x68 => some (.vicmp o)
  | 0x69 => some (.vbit o)
  | 0x6A => some (.vbfe o)
  | 0x6B => some (.vbfi o)
  | 0x6D => some (.vidot4 o)
  | 0x6E => some (.vidot8 o)
  | 0x6F => some (.viadds o)
  | 0x80 => some (.vcvt o)
  | 0x81 => some (.vcvtn o)
  | 0x82 => some (.vcvtw o)
  | 0x83 => some (.vpk16 o)
  | 0x84 => some (.vblksc o)
  | 0x90 => some (.vshfl o)
  | 0x91 => some (.vbcst o)
  | 0x92 => some (.vred o)
  | 0x93 => some (.vredsp o)
  | 0x94 => some (.vscan o)
  | 0x95 => some (.had32 o)
  | 0x96 => some (.vpackl o)
  | 0xA0 => some (.ldl o)
  | 0xA1 => some (.stl o)
  | 0xA2 => some (.ldd o)
  | 0xA3 => some (.std o)
  | 0xA4 => some (.atl o)
  | 0xA5 => some (if o.ret then .atdR o else .atd o)
  | 0xA6 => some (.spill o)
  | 0xA7 => some (.fill o)
  | 0xA8 => some (.ldh o)
  | 0xB0 => some (.cpyin o)
  | 0xB1 => some (if o.fn = 1 then .cpyoutH o else .cpyout o)
  | 0xB2 => some (.tcpyin o)
  | 0xB3 => some (.tcpyout o)
  | 0xB4 => some (.hopen o)
  | 0xB9 => some (.gatom o)
  | 0xBA => some (.gatomr o)
  | 0xC0 => some (.mldb o)
  | 0xC1 => some (.mma o)
  | 0xC2 => some (.moutl o)
  | 0xC3 => some (.mrd o)
  | 0xC6 => some (.xldb o)
  | 0xC7 => some (.xcmp o)
  | 0xC8 => some (.xrow o)
  | 0xC9 => some (.xcol o)
  | 0xCA => some (.xclos o)
  | 0xCD => some (.xlog o)
  | 0xCE => some (.xmov o)
  | 0xCF => some (.xset o)
  | 0xD0 => some (.tex o)
  | 0xD1 => some (.texld o)
  | 0xD2 => some (.hgf o)
  | 0xD3 => some (.hgs o)
  | 0xD4 => some (.trace o)
  | 0xD5 => some (.rnd o)
  | 0xE0 => some (.tres o)
  | 0xE1 => some (.tview o)
  | 0xE2 => some (.tqnew o)
  | 0xE3 => some (.tqdel o)
  | 0xE4 => some (.tqadd o)
  | 0xE5 => some (.tqrem o)
  | 0xE6 => some (.binpush o)
  | 0xE8 => some (.launch o)
  | 0xF2 => some (.sysc o)
  | _ => none

/-- I, BR and BRS forms by opcode. -/
def buildI (opc : Nat) (o : IOps) : Option Instr :=
  match opc with
  | 0x02 => some (.smovi o)
  | 0x10 => some (.saddi o)
  | 0x16 => some (.brCond o)
  | 0x17 => some (.brz o)
  | 0x18 => some (.brnz o)
  | 0x19 => some (.call o)
  | 0x26 => some (.mseti o)
  | 0x72 => some (.vmovi o)
  | 0x74 => some (.viaddi o)
  | 0xF0 => some (.yield_ o)
  | _ => none

/-- A built instruction is accepted when it is well formed. -/
def accept (i : Option Instr) (rest : List Word) : Except Reject (Instr × List Word) :=
  match i with
  | none => .error .reserved
  | some i => if i.wf then .ok (i, rest) else .error .reserved

/-- One instruction from the front of a list of words, and the words after it. -/
def decode (ws : List Word) : Except Reject (Instr × List Word) :=
  match ws with
  | [] => .error .noWord
  | w :: rest =>
    match fmtOf (opcOf w) with
    | none => .error .opcode
    | some .r => accept (buildR (opcOf w) (rOf w)) rest
    | some .x =>
      match rest with
      | [] => .error .straddle
      | w1 :: rest => accept (buildX (opcOf w) (xOf w w1)) rest
    | some .i =>
      match rest with
      | [] => .error .straddle
      | w1 :: rest => accept (buildI (opcOf w) (iOf w w1)) rest

/-- The number of words of an opcode (R54); 0 when it has no length. -/
def wordsOf (opc : Nat) : Nat :=
  match fmtOf opc with
  | none => 0
  | some .r => 1
  | some .x => 2
  | some .i => 2

/-- Word 0 from its fields (R44). -/
def packWord (opc d a b : Byte) : Word := opc ++ d ++ a ++ b
def packR (opc : Byte) (o : ROps) : List Word := [packWord opc o.d o.a o.b]
def packX (opc : Byte) (o : XOps) : List Word := [packWord opc o.d o.a o.b, o.c ++ o.fn ++ o.mod]
def packI (opc : Byte) (o : IOps) : List Word := [packWord opc o.d o.a o.b, o.imm]

/-- The words of an instruction; an event has none. -/
def encode : Instr → List Word
  | .nop o => packR 0x00 o
  | .smov o => packR 0x01 o
  | .smovi o => packI 0x02 o
  | .sadd o => packR 0x03 o
  | .ssub o => packR 0x04 o
  | .smul o => packR 0x05 o
  | .smulh o => packR 0x06 o
  | .smulhu o => packR 0x07 o
  | .sand o => packR 0x08 o
  | .sor o => packR 0x09 o
  | .sxor o => packR 0x0A o
  | .sshl o => packR 0x0B o
  | .sshr o => packR 0x0C o
  | .ssra o => packR 0x0D o
  | .scmp o => packX 0x0E o
  | .ssel o => packX 0x0F o
  | .saddi o => packI 0x10 o
  | .sldk o => packR 0x11 o
  | .sminS o => packX 0x12 o
  | .sminU o => packX 0x12 o
  | .smaxS o => packX 0x12 o
  | .smaxU o => packX 0x12 o
  | .sbit o => packX 0x13 o
  | .srdsr o => packR 0x14 o
  | .swrsr o => packR 0x15 o
  | .brCond o => packI 0x16 o
  | .brz o => packI 0x17 o
  | .brnz o => packI 0x18 o
  | .call o => packI 0x19 o
  | .callv o => packR 0x1A o
  | .calls o => packR 0x1B o
  | .ret o => packR 0x1C o
  | .jmps o => packR 0x1D o
  | .endt o => packR 0x1E o
  | .waitc o => packR 0x1F o
  | .mand o => packR 0x20 o
  | .mor o => packR 0x21 o
  | .mxor o => packR 0x22 o
  | .mandn o => packR 0x23 o
  | .mnot o => packR 0x24 o
  | .mmov o => packR 0x25 o
  | .mseti o => packI 0x26 o
  | .exenter o => packR 0x27 o
  | .exset o => packR 0x28 o
  | .mcnt o => packR 0x29 o
  | .mfirst o => packR 0x2A o
  | .mgetw o => packR 0x2B o
  | .mputw o => packR 0x2C o
  | .vtom o => packR 0x2D o
  | .mtov o => packR 0x2E o
  | .qswph o => packR 0x30 o
  | .qswpv o => packR 0x31 o
  | .qswpd o => packR 0x32 o
  | .qbcst o => packR 0x33 o
  | .qddx o => packR 0x34 o
  | .qddy o => packR 0x35 o
  | .qhelp o => packR 0x36 o
  | .vfadd o => packX 0x40 o
  | .vfsub o => packX 0x41 o
  | .vfmul o => packX 0x42 o
  | .vfma o => packX 0x43 o
  | .vfmin o => packX 0x44 o
  | .vfmax o => packX 0x45 o
  | .vfdiv o => packX 0x46 o
  | .vfsqrt o => packX 0x47 o
  | .vfrcp o => packX 0x48 o
  | .vfrsq o => packX 0x49 o
  | .vfexp2 o => packX 0x4A o
  | .vflog2 o => packX 0x4B o
  | .vfsinpi o => packX 0x4C o
  | .vfcospi o => packX 0x4D o
  | .vfcmp o => packX 0x4E o
  | .vfclass o => packX 0x4F o
  | .vfrnd o => packX 0x50 o
  | .vsel o => packX 0x51 o
  | .vfldexp o => packX 0x52 o
  | .vfadds o => packX 0x53 o
  | .vfmuls o => packX 0x54 o
  | .vfmas o => packX 0x55 o
  | .vhadd o => packX 0x56 o
  | .vhmul o => packX 0x57 o
  | .vhfma o => packX 0x58 o
  | .vhdot2 o => packX 0x59 o
  | .vfdot4 o => packX 0x5A o
  | .viadd o => packR 0x5B o
  | .visub o => packR 0x5C o
  | .vimul o => packR 0x5D o
  | .vimulh o => packX 0x5E o
  | .vimad o => packX 0x5F o
  | .vimin o => packX 0x60 o
  | .vimax o => packX 0x61 o
  | .vand o => packR 0x62 o
  | .vor o => packR 0x63 o
  | .vxor o => packR 0x64 o
  | .vshl o => packR 0x65 o
  | .vshr o => packR 0x66 o
  | .vsra o => packR 0x67 o
  | .vicmp o => packX 0x68 o
  | .vbit o => packX 0x69 o
  | .vbfe o => packX 0x6A o
  | .vbfi o => packX 0x6B o
  | .viadd64 o => packR 0x6C o
  | .vidot4 o => packX 0x6D o
  | .vidot8 o => packX 0x6E o
  | .viadds o => packX 0x6F o
  | .vmov o => packR 0x70 o
  | .vmovs o => packR 0x71 o
  | .vmovi o => packI 0x72 o
  | .vlane o => packR 0x73 o
  | .viaddi o => packI 0x74 o
  | .vcvt o => packX 0x80 o
  | .vcvtn o => packX 0x81 o
  | .vcvtw o => packX 0x82 o
  | .vpk16 o => packX 0x83 o
  | .vblksc o => packX 0x84 o
  | .vshfl o => packX 0x90 o
  | .vbcst o => packX 0x91 o
  | .vred o => packX 0x92 o
  | .vredsp o => packX 0x93 o
  | .vscan o => packX 0x94 o
  | .had32 o => packX 0x95 o
  | .vpackl o => packX 0x96 o
  | .ldl o => packX 0xA0 o
  | .stl o => packX 0xA1 o
  | .ldd o => packX 0xA2 o
  | .std o => packX 0xA3 o
  | .atl o => packX 0xA4 o
  | .atd o => packX 0xA5 o
  | .atdR o => packX 0xA5 o
  | .spill o => packX 0xA6 o
  | .fill o => packX 0xA7 o
  | .ldh o => packX 0xA8 o
  | .sldl o => packR 0xA9 o
  | .sstl o => packR 0xAA o
  | .cpyin o => packX 0xB0 o
  | .cpyout o => packX 0xB1 o
  | .cpyoutH o => packX 0xB1 o
  | .tcpyin o => packX 0xB2 o
  | .tcpyout o => packX 0xB3 o
  | .hopen o => packX 0xB4 o
  | .hseal o => packR 0xB5 o
  | .hfree o => packR 0xB6 o
  | .hwaitFull o => packR 0xB7 o
  | .hwaitIdle o => packR 0xB7 o
  | .hstat o => packR 0xB8 o
  | .gatom o => packX 0xB9 o
  | .gatomr o => packX 0xBA o
  | .evpop o => packR 0xBB o
  | .mldb o => packX 0xC0 o
  | .mma o => packX 0xC1 o
  | .moutl o => packX 0xC2 o
  | .mrd o => packX 0xC3 o
  | .mzero o => packR 0xC4 o
  | .mfence o => packR 0xC5 o
  | .xldb o => packX 0xC6 o
  | .xcmp o => packX 0xC7 o
  | .xrow o => packX 0xC8 o
  | .xcol o => packX 0xC9 o
  | .xclos o => packX 0xCA o
  | .xcomp o => packR 0xCB o
  | .xtrn o => packR 0xCC o
  | .xlog o => packX 0xCD o
  | .xmov o => packX 0xCE o
  | .xset o => packX 0xCF o
  | .tex o => packX 0xD0 o
  | .texld o => packX 0xD1 o
  | .hgf o => packX 0xD2 o
  | .hgs o => packX 0xD3 o
  | .trace o => packX 0xD4 o
  | .rnd o => packX 0xD5 o
  | .tres o => packX 0xE0 o
  | .tview o => packX 0xE1 o
  | .tqnew o => packX 0xE2 o
  | .tqdel o => packX 0xE3 o
  | .tqadd o => packX 0xE4 o
  | .tqrem o => packX 0xE5 o
  | .binpush o => packX 0xE6 o
  | .binflush o => packR 0xE7 o
  | .launch o => packX 0xE8 o
  | .yield_ o => packI 0xF0 o
  | .bar o => packR 0xF1 o
  | .sysc o => packX 0xF2 o
  | .trap o => packR 0xF3 o
  | .ldovt o => packR 0xF4 o
  | .sleep o => packR 0xF5 o
  | .brk o => packR 0xF6 o
  | .prd o => packR 0xF7 o
  | .pwr o => packR 0xF8 o
  | .eret o => packR 0xF9 o
  | .clauseDecode _ _ => []
  | .deadline _ _ => []
  | .loadDataArrival _ _ _ => []
  | .atomicOldValueArrival _ _ _ => []
  | .copySectorArrival _ _ => []
  | .drainComplete _ _ _ => []
  | .complete _ _ => []
  | .perform _ _ _ => []
  | .eventRecordPost _ _ _ => []
  | .matrixOpStart _ _ => []
  | .matrixOpComplete _ _ _ => []
  | .engineReply _ _ _ => []
  | .tableReply _ _ _ => []
  | .barRelease _ _ => []
  | .syscDeliver _ _ => []
  | .syscReply _ _ => []
  | .sleepExpiry _ _ => []
  | .launchRelease _ _ => []
  | .blockPlace _ _ _ => []
  | .launchRetire _ _ => []
  | .binAgeExpiry _ _ _ => []
  | .worldSync _ _ => []
  | .quantumExpiry _ _ _ => []
  | .contextRestore _ _ _ => []
  | .saveMapTimeout _ _ _ => []
  | .pagerRestart _ _ => []
  | .framesTimeout _ _ => []
  | .invalidate _ _ _ => []
  | .ready _ _ _ => []
  | .commit _ _ => []
  | .abort _ _ _ => []
  | .gangTimeout _ _ => []
  | .gangDecisionQuery _ _ _ _ => []
  | .rdmaWrite _ => []
  | .rdmaRead _ => []
  | .fetchAdd _ => []
  | .compareSwap _ => []
  | .peerUnsupportedOp _ => []
  | .peerAck _ _ _ => []
  | .peerfail _ _ _ => []
  | .migratePagePush _ => []
  | .migrateEnd _ => []
  | .checkpointFreeze _ => []
  | .checkpointComplete _ _ => []
  | .eccError _ _ => []
  | .selfTest _ _ => []
  | .linkCrcRetry _ _ => []
  | .hbmRetrain _ => []
  | .droopStretch _ _ _ => []
  | .thermalThrottle _ => []
  | .thermalShutdown _ => []
  | .bringUp _ _ => []
  | .powerLoss => []
  | .firmwareImageCheck _ => []
  | .load _ => []
  | .alloc _ => []
  | .free _ => []
  | .read _ => []
  | .write _ => []
  | .rpcLaunch _ => []
  | .wait _ => []
  | .waitTimeout _ _ => []
  | .sync _ => []
  | .registerWorld _ => []
  | .registerQuery _ => []
  | .registerBin _ => []
  | .registerTexture _ => []
  | .checkpointTake _ => []
  | .checkpointRestore _ => []
  | .checkpointList _ => []
  | .migrate _ => []
  | .attest _ => []
  | .status _ => []
  | .events _ => []
  | .log _ => []
  | .config _ => []
  | .windowCreate _ => []
  | .windowRemove _ => []
  | .peermap _ => []
  | .tenantCreate _ => []
  | .tenantRemove _ => []
  | .contextCreate _ => []
  | .contextDestroy _ => []
  | .pageArrival _ _ => []
  | .unassignedMethod _ => []
  | .precisionTimeProtocol _ => []
  | .gangDecisionExpiry _ _ => []

/-- The bytes of a word as memory holds them, lowest address first (00_scope.md: little-endian). -/
def wordBytes (w : Word) : List Byte :=
  [w.extractLsb' 0 8, w.extractLsb' 8 8, w.extractLsb' 16 8, w.extractLsb' 24 8]

/-- The words that a list of bytes holds; a tail of fewer than four bytes holds none. -/
def bytesWords : List Byte → List Word
  | b0 :: b1 :: b2 :: b3 :: rest => (b3 ++ b2 ++ b1 ++ b0) :: bytesWords rest
  | _ => []

/-- Decoding from bytes. -/
def decodeBytes (bs : List Byte) : Except Reject (Instr × List Word) := decode (bytesWords bs)

/-- The longest instruction is two words (R44). -/
def tableWords (nbits w : Nat) : List Word :=
  let w := w % 2 ^ nbits
  [BitVec.ofNat 32 w, BitVec.ofNat 32 (w / 2 ^ 32)]

/-- The instruction that an opcode-table row's bits hold: bit 0 is the least significant bit of the first word. -/
def decodeTableWord (nbits w : Nat) : Option Instr :=
  match decodeBytes ((tableWords nbits w).flatMap wordBytes) with
  | .ok (i, _) => some i
  | .error _ => none

end Sys2Proof
end

