-- ==== Sys2Proof/Config.lean ====
section
/-!
DEFINITION. What one machine fixes and what the spec leaves open. The sizes are those of 00 R4 and R5. The opaque
constants are the free values: nothing in Lean knows a value of theirs, so a claim holds whatever they are. Their first
argument is the counter `ctr` of State, their second tells apart the values that one step draws.
-/
namespace Sys2Proof.Config

/-- A free 32-bit value (00 R8: an undefined value is any bit pattern). -/
opaque freeWord : Nat → Nat → Word
/-- A free number: choices among finitely many things take it modulo their number. -/
opaque freeNat : Nat → Nat → Nat
/-- A free number for choices indexed twice. -/
opaque freeIx : Nat → Nat → Nat → Nat
/-- SHA-512, which 25 R387 and R397 name and do not define. -/
opaque sha512 : List Byte → BitVec 512
/-- The public half of the module's RSA-4096 identity key (25 R387). -/
opaque identityKey : List Byte
/-- The one signature of RSASSA-PKCS1-v1_5 with SHA-512 of the identity key over a message, as a number of 4,096 bits. -/
opaque sigOf : List Byte → BitVec 4096
/-- `n` bytes of a number, low byte first. -/
def bytesOf : Nat → Nat → List Byte
  | 0, _ => []
  | n + 1, x => BitVec.ofNat 8 x :: bytesOf n (x / 256)
/-- SIG (25 R387, R397): 512 bytes. -/
def sign (msg : List Byte) : List Byte := bytesOf 512 (sigOf msg).toNat
/-- The test of a signature under a key that is not the module's own. -/
opaque verifyOther : (key msg sig : List Byte) → Bool
/-- The test of a signature over a message under a public key (25 R387, R388, R397): the scheme gives one signature for each message. -/
def verify (key msg sig : List Byte) : Bool := if key == identityKey then sig == sign msg else verifyOther key msg sig
/-- KEYID: bytes 0 to 7 of SHA-512 of a public key (25 R387), the digest's first byte its lowest. -/
def keyId (key : List Byte) : DWord := (sha512 key).setWidth 64
def ownKeyId : DWord := keyId identityKey
/-- Public keys of other modules by KEYID; none where the module knows no such key. -/
opaque otherKey : DWord → Option (List Byte)
/-- The public key that a KEYID names (25 R388). -/
def keyOf (k : DWord) : Option (List Byte) :=
  if k == ownKeyId then some identityKey else (otherKey k).filter fun key => keyId key == k
/-- The vendor key digest fused into the I/O die (25 R397). -/
opaque vendorKeyDigest : BitVec 512
/-- The module's own IPv6 address. -/
opaque ownAddr : Ip
/-- The operator's address prefixes and the local store of vendor keys are firmware's; whether an address is an operator address (24 R367). -/
opaque isOperator : Ip → Bool
/-- Frames of 64 KiB in the CXL memory that is fitted; its ports take up to 8 TiB (00 R6). -/
opaque cxlFitted : Nat
def cxlFrames : Nat := min cxlFitted 134217728
/-- Frames that the save area of a new context takes (24 R368). -/
opaque saveFrames : Nat
/-- Where the table engine keeps the chunk map of a column (second argument) of a tick (first), in units of 16 bytes of the pool (17 R301). -/
opaque mapPlace : Nat → Nat → Nat
/-- What the target of a migration offers for a tenant number: of each pane the working quarters of its cores by logical number (0: no
core) and its channels (24 R382). -/
opaque targetPanes : Ip → Nat → List (List Nat × Nat)

/-- Exposed cores of a full pane (00 R4). -/
def coresPerPane : Nat := 12
/-- Physical cores of a bay (00 R4). -/
def physCores : Nat := 13
/-- Local store of a core in bytes (00 R5). -/
def localStoreBytes : Nat := 393216
/-- Scratchpad of one pane in bytes: 16 MiB (07 R154). -/
def scratchBytes : Nat := 16777216
/-- Span-registers of a quarter (02 R19). -/
def spanRegs : Nat := 1024
/-- Buffer-table entries of a core (02 R19). -/
def bufEntries : Nat := 128
/-- Line transfers that a copy engine holds in flight (07 R162). -/
def copyLines : Nat := 1024
/-- Default deadline and its maximum, in units of 64 words (24 R367). -/
def defaultNd : Nat := 4096
def defaultNm : Nat := 1048576
/-- The least page size, 64 KiB (21 R342). -/
def pageBytes : Nat := 65536

end Sys2Proof.Config
end

