-- ==== Sys2Proof/Machine/State.lean ====
section
/-!
DEFINITION. The state of the module as plain data: the module's own units, the tenants, and of one tenant at a time its
cores, blocks and teams. The tenant, core, block and team that are being worked on stand in the fields `ten`, `core`,
`blk` and `team` (the focus); the others stand in lists. Tables with many entries are sparse lists in one canonical form
(`Sparse`). The spec's rules for a field are cited at it.
-/
namespace Sys2Proof.Machine

/-- A table from numbers to values, keys strictly rising, no entry equal to the table's default. -/
abbrev Sparse (α : Type) := List (Nat × α)

/-- The domain of a release (08 R171): its team alone, the tenant's teams on a core or on a die, all of them, or these and host and peers. -/
inductive Domain where
  | team (k : Nat) | core (c : Nat) | die (d : Nat) | device | system
  deriving DecidableEq, Repr

/-- A line record (08 R170, R183): the team, 0 for the host or a peer, none after a write on the device's own account; and the domain. -/
structure LineRec where
  team : Option Nat
  dom : Domain
  deriving DecidableEq, Repr

/-- A byte space with histories (08 R170). `cells` holds the newest values (unlisted: 0, R154, R371). `hist` holds, for a
byte that was written, one pair per write, newest first: the value before that write and the batch that wrote. -/
structure Space where
  cells : List Host.Cell := []
  hist : Sparse (List (Byte × Nat)) := []
  lines : Sparse (Option LineRec) := []
  deriving DecidableEq, Repr

/-- The clause in issue (03 R36 to R38): header address, words that the header counts, latched words, position of the next word. -/
structure Clause where
  hdr : VA
  n : Nat
  words : List Word
  pos : Nat
  sw : Bool
  deriving DecidableEq, Repr

/-- The five counters (02 R24). -/
inductive CtrKind where
  | lc | ac | mc | xc | tc
  deriving DecidableEq, Repr

/-- One register write that a reply makes: a lane of a vector register, a scalar register, the bits `sel` of a mask, or bits that
it sets in STATUS (04 R67). -/
inductive RegWrite where
  | v (r lane : Nat) (x : Word)
  | s (r : Nat) (x : Word)
  | m (r : Nat) (sel val : Mask)
  | flag (bits : Word)
  deriving DecidableEq, Repr

/-- A request to the scratchpad, an engine or the table engine that is still to be served: the instruction and what it captured at issue. -/
structure EngReq where
  ins : Instr
  act : Mask
  help : Mask
  src : List (Nat × List Word)
  sc : List Word
  /-- (byte, queued batch, whether its newest write there is an atomic) of the request's waits (08 R172) -/
  after : List (Nat × Nat × Bool) := []
  /-- the instruction's address, which a report names -/
  va : VA := 0
  deriving DecidableEq, Repr

/-- An outstanding result (02 R24): its counter, the registers it will write, the writes once known, the request if they are not. -/
structure Pend where
  kind : CtrKind
  vdst : List (Nat × Mask) := []
  sdst : List Nat := []
  mdst : List Nat := []
  ws : List RegWrite := []
  req : Option EngReq := none
  /-- the sequencer's operation whose result it is -/
  mop : Nat := 0
  deriving DecidableEq, Repr

/-- A returning atomic between its boundaries (08 R182, 09 R197): its space (0 main memory, 1 + d the scratchpad of die d), lanes still
to be performed as (lane, address, a, c), old values, and the batches whose entries it read. -/
structure AtomReq where
  scope : Nat
  sp : Nat
  op : Nat
  ty : Nat
  dst : Nat
  todo : List (Nat × Nat × DWord × DWord)
  old : List (Nat × DWord)
  seen : List Nat
  mism : Bool
  va : VA := 0
  deriving DecidableEq, Repr

/-- A service call between its boundaries (09 R208). -/
structure SyscReq where
  fn : Nat
  a0 : Word
  a1 : Word
  vec : Option (Mask × List Word)
  dst : Nat
  reply : Option DWord
  deriving DecidableEq, Repr

/-- What a team waits for. `bar` (with the batch that it appended, 0 for none), `atom` and `sysc` have no open phase (09 R197, R207);
`pager` is parked by a fault (21 R347). -/
inductive Wait where
  | run
  | counters (set : Byte) (n : Nat)
  | full (h : Nat)
  | idle (h : Nat)
  | sleep (wake : Bool)
  | bar (b : Nat)
  | atom (r : AtomReq)
  | sysc (r : SyscReq)
  | pager (pages : List Nat)
  | ended
  deriving DecidableEq, Repr

/-- The operations of the structural queue (17 R305). -/
inductive QOp where
  | new | del | add | rem
  deriving DecidableEq, Repr

/-- A structural record (17 R305): operation, handle, type, value, and the order key (OKEY, submission, block, team, sequence, lane). -/
structure QRec where
  op : QOp
  handle : DWord
  ty : Nat
  val : List Word
  key : List Nat
  deriving DecidableEq, Repr

/-- One record of a pending or queued batch (08 R172, 09 R205). -/
inductive Rec where
  /-- scratchpad store data, per lane -/
  | store (die : Nat) (ws : List (Nat × List Byte))
  /-- no-return scratchpad atomic: (offset, a, c) per lane; `stamp` orders issues (08 R181) -/
  | atomSp (die op ty : Nat) (xs : List (Nat × DWord × DWord)) (stamp : Nat)
  /-- copy-out with its data -/
  | copy (ws : List (Nat × List Byte))
  /-- copy-out from a buffer-table entry, still to be drained: (VA, buffer offset, width); the transfers whose lines are in flight, and
  those that have finished (07 R162) -/
  | drain (core entry : Nat) (ws : List (Nat × Nat × Nat)) (fly got : List (Nat × List Byte))
  /-- no-return main-memory atomic (09 R193, 12 R253), with its instruction's address; `stamp` orders issues (08 R181): none for a gradient
  scatter, whose place among the adds of its batch is left open (04 R80) -/
  | atomMm (op ty : Nat) (xs : List (Nat × DWord × DWord)) (va : VA) (stamp : Option Nat)
  | queue (world : Nat) (rs : List QRec)
  | push (bin : Nat) (rs : List (List Word))
  | flush (bin : Nat)
  /-- a launch record and its status VA (18 R322) -/
  | launch (bytes : List Byte) (stva : Option Nat)
  deriving DecidableEq, Repr

/-- A buffer's state (07 R158); FREE entries are not listed. -/
inductive BufSt where
  | filling | full | draining
  deriving DecidableEq, Repr

/-- A buffer-table entry (07 R158). `cur`: opened in the current phase; `sealCur`: sealed in it; `freed`: HFREE has been
issued; `evt`: the tag of a record not yet posted; `asked`: a record was asked for; `stamp`: when it became FULL; `copied`: the
(offset, width) pairs that copies into it were issued for, and `stored`: the offsets that stores wrote while it was FILLING (R159);
`landed`: the sector batches of a scratchpad buffer (08 R180). -/
structure BufEntry where
  team : Nat
  blk : Nat
  slot : Nat
  spad : Bool
  base : Nat
  size : Nat
  st : BufSt
  sealed : Bool
  drain : Bool
  cur : Bool
  sealCur : Bool
  freed : Bool
  asked : Bool
  evt : Option Word
  stamp : Nat
  copied : List (Nat × Nat) := []
  stored : List Nat := []
  landed : List Nat := []
  deriving DecidableEq, Repr

/-- One 32-byte sector of a copy-in in flight (07 R162): (source VA, buffer offset) of its bytes, and the bytes once read. -/
structure Sector where
  team : Nat
  core : Nat
  entry : Nat
  src : List (Nat × Nat)
  got : Option (List Byte)
  /-- the waits of its loads, as in `EngReq.after` (08 R172) -/
  after : List (Nat × Nat × Bool) := []
  /-- its line is in flight; the lines of a `TCPYIN` wait for slots of the copy engine (09 R203) -/
  up : Bool := true
  /-- buffer offsets at which nothing lands, a store having written them too (07 R159) -/
  skip : List Nat := []
  /-- tells the instructions apart whose lines are in flight (07 R162) -/
  req : Nat := 0
  va : VA := 0
  /-- issued in its team's open phase -/
  cur : Bool := true
  deriving DecidableEq, Repr

/-- A matrix or relation operation in the sequencer (10 R216): the instruction, its address, Active() and scalars at issue, its
handle's buffer, the team's MFENCE point (08 R184), the scale bytes of an MLDB, the waits of its fetch (08 R172), the source registers
written meanwhile (08 R184), and the stream position of an SR MRD that a later write of SEED leaves it (05 R90). A discard takes it out
of the list. -/
structure MatOp where
  id : Nat
  team : Nat
  core : Nat
  ins : Instr
  va : VA
  act : Mask
  sc : List Word
  base : Nat
  spad : Bool
  fence : Nat
  started : Bool := false
  scales : List Byte := []
  after : List (Nat × Nat × Bool) := []
  taint : List Nat := []
  pos : Option Word := none
  deriving DecidableEq, Repr

/-- The state of one compute-in-memory unit (10 R214). `bfmt` is a code of 04 R63; `b` is keyed by 384 × column + byte,
`scales` by 24 × column + block (default 0x38), the checksum store `chk` by element index k (R224). -/
structure Mac where
  keyMode : Bool := false
  bfmt : Nat := 8
  b : Sparse Byte := []
  scales : Sparse Byte := []
  chk : Sparse Int := []
  keys : Sparse Word := []
  nb : Nat := 0
  ktype : Nat := 0
  nanp : Nat := 0
  tot : Bool := false
  deriving DecidableEq, Repr

/-- What a discard returns a team to (02 R30, 05 R95, 07 R160, 21 R338, R349). -/
structure Snap where
  pc : VA := 0
  hdr : Option VA := none
  status : Word := 0
  rm : Word := 0
  seed : Word := 0
  spos : Word := 0
  clkhi : Word := 0
  mstat : Sparse Word := []
  depth : Nat := 0
  crec : Option Nat := none
  ctop : Nat := 0
  dl : Nat := 0
  priv : Bool := false
  savex : Mask := 0
  epc : VA := 0
  eia : VA := 0
  cause : Word := 0
  elane : Word := 0
  einfo : Word := 0
  ehdr : Option (VA × Nat) := none
  slots : Sparse (Option Nat) := []
  ents : Sparse (Option BufEntry) := []
  seqno : Nat := 0
  deriving DecidableEq, Repr

/-- A returning atomic whose team has ended before all its lanes were performed: its result is cancelled, its performance is not
(08 R182, 09 R197). -/
structure Orphan where
  team : Nat
  launch : Nat
  core : Nat
  die : Nat
  req : AtomReq
  deriving DecidableEq, Repr

/-- A team (02 R13 to R30). Vector registers are keyed by 1024 × register + lane, relation rows by 64 × register + row,
accumulator values by 16384 × tile + 256 × row + column. -/
structure Team where
  /-- number within the tenant, in order of placement -/
  key : Nat := 0
  launch : Nat := 0
  blk : Nat := 0
  /-- SR.TEAM -/
  idx : Nat := 0
  core : Nat := 0
  quarter : Nat := 0
  /-- L, B, G_x, G_a and Z (R19, 05 R95) -/
  lanes : Nat := 1
  budget : Nat := 8
  gx : Nat := 0
  ga : Nat := 0
  z : Nat := 0
  /-- the address where execution goes on; a clause header unless `hdr` names the clause that holds it (21 R337) -/
  pc : VA := 0
  hdr : Option VA := none
  cl : Option Clause := none
  wait : Wait := .ended
  /-- the S bit of the last header holds the team until its counters are zero (03 R38) -/
  park : Bool := false
  exec : Mask := 0
  m : Sparse Mask := []
  s : Sparse Word := []
  v : Sparse Word := []
  x : Sparse DWord := []
  acc : Sparse (BitVec 36) := []
  accC : Sparse (BitVec 36) := []
  h : Sparse (Option Nat) := []
  reserved : List Nat := []
  lc : Nat := 0
  ac : Nat := 0
  mc : Nat := 0
  xc : Nat := 0
  tc : Nat := 0
  status : Word := 0
  rm : Word := 0
  seed : Word := 0
  /-- the stream position p of stochastic rounding (04 R69) -/
  spos : Word := 0
  clkhi : Word := 0
  mstat : Sparse Word := []
  cause : Word := 0
  epc : VA := 0
  eia : VA := 0
  elane : Word := 0
  einfo : Word := 0
  priv : Bool := false
  savex : Mask := 0
  /-- header and length of the clause that a trap interrupted (21 R337) -/
  ehdr : Option (VA × Nat) := none
  depth : Nat := 0
  crec : Option Nat := none
  ctop : Nat := 0
  ptop : Nat := 0
  spill : List Host.Cell := []
  /-- instruction words left before DEADLINE (09 R206) -/
  dl : Nat := 0
  pend : List Pend := []
  /-- the local-store stamp of the team's last MFENCE (08 R184) -/
  fence : Nat := 0
  /-- the sash: records of the open phase in issue order (08 R170) -/
  batch : List Rec := []
  /-- read set: (space, address) with 0 main memory and 1 + die a scratchpad, and the value (08 R170) -/
  readSet : List ((Nat × Nat) × Byte) := []
  readFrom : List Nat := []
  floor : List Nat := []
  seqno : Nat := 0
  /-- reservations of the phase: (world, index) (17 R306) -/
  resv : List (Nat × Nat) := []
  /-- event records that the phase popped (07 R168) -/
  popped : List DWord := []
  /-- pages that the pager retains for the team (21 R347) -/
  retained : List Nat := []
  snap : Snap := {}
  deriving DecidableEq, Repr

/-- A placed block (02 R13). `ls.hist` keeps the values that stores replaced, tagged by the store's stamp (08 R184). -/
structure Block where
  key : Nat := 0
  launch : Nat := 0
  idx : Nat := 0
  teams : Nat := 1
  ended : Nat := 0
  core : Nat := 0
  ctx : Nat := 0
  lsz : Nat := 0
  ls : Space := {}
  stamp : Nat := 0
  /-- the event queue (07 R166), head first, and the records that wait for room, by the time their handles became FULL (R167) -/
  evq : List DWord := []
  evw : List (Nat × DWord) := []
  tlbBase : Nat := 0
  tlbN : Nat := 32
  /-- the run of 4 KiB units of the core that it holds (07 R151) -/
  run : Nat := 0
  runN : Nat := 0
  deriving DecidableEq, Repr

/-- A core of a pane (02 R5, 09 R213, 10 R214). -/
structure Core where
  /-- false: no core in the focus -/
  there : Bool := false
  /-- logical number 12p + j -/
  num : Nat := 0
  pane : Nat := 0
  die : Nat := 0
  /-- physical bay and core, which no program sees -/
  bay : Nat := 0
  phys : Nat := 0
  quarters : Nat := 4
  macs : List Mac := [{}, {}, {}, {}]
  /-- the core and the save that these macros were last saved by or restored from (10 R217) -/
  macGrp : Nat × Nat := (0, 0)
  bt : Sparse (Option BufEntry) := []
  strCnt : Nat := 0
  strHi : Word := 0
  eccCor : Word := 0
  pmsel : Word := 0
  pmcnt : Word := 0
  /-- first-level TLB: per set, (context, page) from the most to the least recently used (07 R169) -/
  tlb : Sparse (List (Nat × Nat)) := []
  /-- argument windows by launch (05 R87) -/
  wins : List (Nat × List Host.Cell) := []
  /-- checksum mismatches that were logged as FAIL (10 R224) -/
  fails : Nat := 0
  deriving DecidableEq, Repr

/-- The states of a mapped page (21 R342, 24 R378). -/
inductive PageSt where
  | hbm | direct | tier | stored | remote
  deriving DecidableEq, Repr

/-- A page of stage 1 (21 R342): VA to guest PA, its permissions; the state of the mapping, the pin, the peer mapping of a REMOTE page. -/
structure Page where
  va : Nat
  size : Nat
  r : Bool
  w : Bool
  x : Bool
  st : PageSt
  pin : Bool
  peer : Nat
  gpa : Nat := 0
  deriving DecidableEq, Repr

/-- A page of stage 2 (21 R342): guest PA to device PA, which a page in HBM has (16 R295), and its permissions. -/
structure Stage2 where
  gpa : Nat
  size : Nat
  r : Bool
  w : Bool
  pa : Option Nat
  deriving DecidableEq, Repr

/-- A closed batch that has not completed (08 R170). `parts`: peer mappings whose part is sent and not yet acknowledged (24 R379). -/
structure Batch where
  id : Nat
  team : Nat
  launch : Nat
  core : Nat
  die : Nat
  ctx : Nat
  scope : Nat
  dom : Domain
  recs : List Rec
  parts : List Nat
  sent : Bool
  deriving DecidableEq, Repr

/-- A completed batch or performed atomic in the completion order (08 R170). -/
structure DoneBatch where
  id : Nat
  team : Nat
  dom : Domain
  deriving DecidableEq, Repr

/-- The fields of a launch record (16 R282). -/
structure LRec where
  kind : Nat := 0
  entry : Nat := 0
  blocks : Nat := 0
  lanes : Nat := 0
  teams : Nat := 0
  coop : Bool := false
  pri : Nat := 0
  vb : Nat := 0
  ga : Nat := 0
  gx : Nat := 0
  lsb : Nat := 0
  okey : Nat := 0
  spb : Nat := 0
  arg : Nat := 0
  done : Nat := 0
  waitva : Nat := 0
  waitv : Nat := 0
  deriving DecidableEq, Repr

/-- The states of a launch (16 R285); a retired launch leaves the list. -/
inductive LaunchSt where
  | queued | held | released | running
  deriving DecidableEq, Repr

/-- A member's view of a gang (24 R380, R381). -/
structure Gang where
  id : DWord
  nmem : Nat
  rank : Nat
  tmo : Nat
  addrs : List Ip
  got : List Nat
  decided : Option Bool
  sent : Bool
  /-- a LAUNCH request that is still open (R381) -/
  q : Option Datagram := none
  deriving DecidableEq, Repr

structure Launch where
  id : Nat
  sub : Nat
  ctx : Nat
  rc : LRec
  st : LaunchSt
  nblk : Nat
  placed : Nat
  retired : Nat
  handler : VA
  pins : List (Nat × Nat)
  gang : Option Gang
  /-- records of a bin consumer, its bin and die (12 R264) -/
  recs : List (List Word)
  bin : Option (Nat × Nat)
  /-- rows of each chunk of a query's driving column (17 R313) -/
  rows : List Nat
  /-- fault reports wait for room in the event queue (24 R375) -/
  held : Nat
  /-- the row data of the write views that its teams have taken, as (VA, bytes) (17 R297, R304) -/
  views : List (Nat × Nat) := []
  deriving DecidableEq, Repr

structure ChunkDesc where
  va : Nat
  rows : Nat
  first : Nat
  last : Nat
  deriving DecidableEq, Repr

/-- A directory entry (17 R299): STATE 0 FREE, 1 RESERVED, 2 LIVE, 3 RETIRED. -/
structure DirEnt where
  gen : Nat := 0
  st : Nat := 0
  stick : Nat := 0
  pres : BitVec 256 := 0
  deriving DecidableEq, Repr

/-- A tick (17 R302): chunk map per column, directory, and where each directory chunk that has moved is stored. -/
structure Tick where
  num : Nat := 0
  cols : Sparse (List ChunkDesc) := []
  dir : Sparse DirEnt := []
  dirAt : Sparse (Option Nat) := []
  deriving DecidableEq, Repr

structure World where
  num : Nat
  pool : Nat
  poolsz : Nat
  cap : Nat
  qcap : Nat
  /-- the 256 bytes of the type table: element size ÷ 4, 0 unused (17 R296) -/
  types : Sparse Nat
  report : Nat
  /-- the first directory slot in the pool -/
  dir0 : Nat
  w : Tick
  p : Tick
  d : Option Tick
  q : List QRec
  dropped : Nat
  deriving DecidableEq, Repr

structure Query where
  world : Nat
  id : Nat
  req : BitVec 256
  rd : BitVec 256
  wr : BitVec 256
  deriving DecidableEq, Repr

/-- A registered bin (12 R262). -/
structure BinDesc where
  num : Nat
  entry : Nat
  thr : Nat
  rsw : Nat
  pri : Nat
  age : Nat
  vb : Nat
  ga : Nat
  gx : Nat
  lsb : Nat
  spb : Nat
  arg : Nat
  done : Nat
  ring : Nat
  cap : Nat
  ctx : Nat
  deriving DecidableEq, Repr

/-- A loaded image (23 R361, R362): its sections as (VA, size), handler (0: none) and digest (25 R397). -/
structure Image where
  secs : List (Nat × Nat)
  trap : VA
  digest : BitVec 512
  deriving DecidableEq, Repr

/-- What the module keeps of one source address (24 R374). -/
structure Source where
  addr : Ip
  /-- the highest REQID executed -/
  high : Option Nat
  /-- kept replies: REQID, status, payload -/
  kept : List (Nat × Nat × List Byte)
  deriving DecidableEq, Repr

/-- A WAIT that has not been answered (24 R371). -/
structure OpenWait where
  q : Datagram
  va : Nat
  val : Nat
  deriving DecidableEq, Repr

structure Window where
  id : Nat
  va : Nat
  len : Nat
  r : Bool
  w : Bool
  a : Bool
  pfx : List (Ip × Nat)
  deriving DecidableEq, Repr

structure PeerMap where
  idx : Nat
  peer : Ip
  pten : Nat
  win : Nat
  lva : Nat
  len : Nat
  rva : Nat
  failed : Bool
  deriving DecidableEq, Repr

/-- A checkpoint being taken (25 R384 to R386); `recorded`: the freeze has passed. -/
structure Take where
  step : Nat
  waitva : Nat
  waitv : Nat
  /-- the shard table, while its pages have still to come -/
  tab : Option Nat := none
  buddy : Ip
  shards : List (Nat × Nat × Nat)
  q : Datagram
  recorded : Bool
  deriving DecidableEq, Repr

/-- A migration (24 R382); `moved`: the contexts have gone and the pages `left` are still here. -/
structure Mig where
  target : Ip
  tten : Nat
  q : Datagram
  moved : Bool
  left : List Nat
  deriving DecidableEq, Repr

structure Pane where
  num : Nat
  bay : Nat
  quantum : Nat := 1000
  nd : Nat := Config.defaultNd
  nm : Nat := Config.defaultNm
  ctx : Nat := 0
  /-- the bay's second-level TLB: per set, (context, page) from the most to the least recently used (00 R4, 21 R343) -/
  tlb2 : Sparse (List (Nat × Nat)) := []
  deriving DecidableEq, Repr

/-- A block in the save area (21 R349) with its teams and buffer-table entries, and the macro state of its core, told apart by the core and the
number of the save: that of the blocks which were saved from one core together is one state (10 R217). -/
structure Saved where
  blk : Block
  teams : List Team
  ents : List (Nat × BufEntry)
  pane : Nat
  macs : List Mac := []
  macGrp : Nat × Nat := (0, 0)
  deriving DecidableEq, Repr

/-- A context (21 R348, 24 R368): overflow table (04 R72), frames and contents of the save area, saved macro state by core, with its place and save (10 R217);
`saving`: panes whose save waits for drains and copy-ins (21 R349). -/
structure Ctx where
  num : Nat := 0
  frames : Nat := 0
  ovt : Byte := 0
  saved : List Saved := []
  macs : List (Nat × List Mac) := []
  macGrps : Sparse (Nat × Nat) := []
  /-- panes whose save is stalled on an unmapped save-area page (21 R350) -/
  stalled : List Nat := []
  saving : List Nat := []
  lost : Bool := false
  deriving DecidableEq, Repr

/-- A tenant (24 R367, R368). The lists of cores, blocks and teams leave out those in the focus. -/
structure Tenant where
  num : Nat := 0
  live : Bool := false
  pfx : List (Ip × Nat) := []
  panes : List Pane := []
  slots : Nat := 0
  ctxs : List Ctx := []
  /-- the number of the shutter's next save (21 R349) -/
  saves : Nat := 1
  cores : List Core := []
  blocks : List Block := []
  teams : List Team := []
  pages : List Page := []
  stage2 : List Stage2 := []
  main : Space := {}
  /-- scratchpad of each die that holds panes of the tenant -/
  scratch : Sparse (Option Space) := []
  queued : List Batch := []
  done : List DoneBatch := []
  nextBatch : Nat := 1
  nextTeam : Nat := 1
  nextBlk : Nat := 1
  sectors : List Sector := []
  orphans : List Orphan := []
  mops : List MatOp := []
  nextMop : Nat := 1
  launches : List Launch := []
  nextLaunch : Nat := 1
  nextSub : Nat := 1
  worlds : List World := []
  queries : List Query := []
  bins : List BinDesc := []
  /-- ring contents by 256 × die + bin: record and the launch that will take it (12 R263, R264) -/
  rings : Sparse (List (List Word × Option Nat)) := []
  /-- consumer submissions that wait for a launch to retire: die, bin, records (12 R264) -/
  binWait : List (Nat × Nat × Nat) := []
  textures : List (Nat × Nat × Nat) := []
  images : List Image := []
  /-- event records (24 R376) with their heads -/
  evq : List (List Byte) := []
  /-- reports that wait for room (24 R375): kind, payload, the launch whose increment they hold -/
  evWait : List (Nat × List Byte × Nat) := []
  evSeq : Nat := 0
  log : List (List Byte) := []
  sources : List Source := []
  /-- requests in arrival order behind one that waits for something, itself the first (24 R374) -/
  inbox : List Datagram := []
  waits : List OpenWait := []
  windows : List Window := []
  peers : List PeerMap := []
  pageReqs : List Nat := []
  dropReq : Nat := 0
  unmapped : Nat := 0
  /-- poisoned sectors of main memory, as VA ÷ 32, and the pages that have to move to healthy frames (25 R391) -/
  poison : List Nat := []
  unwell : List Nat := []
  timeLast : Nat := 0
  take : Option Take := none
  frozen : Bool := false
  mig : Option Mig := none
  moved : Option Ip := none
  /-- after a migration to this module: its source, the pages still there with the states that they had, those asked for (24 R382) -/
  origin : Option Ip := none
  away : List (Nat × PageSt) := []
  pulled : List Nat := []
  /-- decisions that rank 0 keeps, with the members' addresses (24 R380) -/
  gangDec : List (DWord × Bool × List Ip) := []
  /-- gang blocks of launches that have left before the decision, by launch; READYs that came before rank 0's own submission, as
  (gang, rank) (24 R380, R381) -/
  gangLeft : List (Nat × Gang) := []
  readies : List (Nat × Nat) := []
  /-- the number of the last checkpoint recorded (25 R388) -/
  takes : Nat := 0
  /-- the module where the tenant was created and the time of it, which a moved or restored one keeps (25 R386, R388) -/
  birth : Ip × Nat := (0, 0)
  deriving DecidableEq, Repr

/-- The remap tables of one bay (24 R363): marked cores, quarters (core, quarter) and channels. -/
structure Remap where
  cores : List Nat := []
  quarters : List (Nat × Nat) := []
  channels : List Nat := []
  deriving DecidableEq, Repr

/-- A checkpoint (25 R386, R387): its shards as (kind, VA, length), the tenant as it stood at the freeze, the manifest; `complete`
once both copies are durable; `seq` rises with every checkpoint of a tenant number. -/
structure Ckpt where
  tenant : Nat
  step : Nat
  shards : List (Nat × Nat × Nat)
  image : Tenant
  manifest : List Byte
  complete : Bool
  seq : Nat := 0
  deriving DecidableEq, Repr

/-- Supplies and bring-up (25 R394 to R396). -/
inductive Power where
  | off | up | outOfService
  deriving DecidableEq, Repr

/-- What the module sends: RPC replies (24 R369) and notices (R375), gang messages (R380), RoCEv2 responses and requests
(R377 to R379), migration (R382) and checkpoint traffic (25 R386). -/
inductive OutMsg where
  | reply (dst : Ip) (method tenant : Nat) (reqid : DWord) (status : Nat) (flags : Word) (payload : List Byte)
  | notice (dst : Ip) (tenant : Nat)
  | gangReady (dst : Ip) (gang : DWord) (rank : Nat)
  | gangDecision (dst : Ip) (gang : DWord) (commit : Bool)
  | gangAsk (dst : Ip) (gang : DWord) (rank : Nat)
  | peerAck (dst : Ip)
  | peerNak (dst : Ip)
  | peerMoved (dst : Ip) (target : Ip)
  | peerData (dst : Ip) (bytes : List Byte)
  | peerOld (dst : Ip) (old : DWord)
  | remotePart (dst : Ip) (ops : List PartOp)
  | remoteAtomic (dst : Ip) (rkey : Nat) (va : Nat) (op ty : Nat) (a c : DWord)
  | remoteRead (dst : Ip) (rkey : Nat) (va : Nat) (len : Nat)
  | migrate (dst : Ip) (tten : Nat) (t : Tenant)
  | page (dst : Ip) (tten va : Nat) (bytes : List Host.Cell)
  | pull (dst : Ip) (tenant va : Nat)
  /-- the shards and the manifest of a checkpoint, to the buddy; its answer that they are durable -/
  | shards (dst : Ip) (c : Ckpt)
  | durable (dst : Ip) (tenant step : Nat)
  /-- to the buddy: both manifests are durable; or the checkpoint has failed, or is not wanted any more -/
  | settled (dst : Ip) (tenant seq : Nat) (ok : Bool)
  /-- to the buddy of a tenant that has been restored: copies of a higher number are not wanted any more (25 R388) -/
  | newer (dst : Ip) (tenant : Nat) (birth : Ip × Nat) (seq : Nat)
  /-- a spare asks a buddy for a checkpoint, and the buddy's answer -/
  | fetch (dst : Ip) (tenant step : Nat)
  | copy (dst : Ip) (c : Ckpt)
  deriving DecidableEq, Repr

/-- What other modules send, apart from the steps of the opcode table: a migrating tenant (24 R382), a page that is pushed or has been
asked for, a target's request for one, the loss of a migration's source, the answer MOVED to an operation `op` of this module on a REMOTE
page (R383); checkpoint traffic (25 R386, R388). -/
inductive InMsg where
  | migrate (src : Ip) (tten : Nat) (t : Tenant)
  | page (src : Ip) (tten va : Nat) (bytes : List Host.Cell)
  | pull (src : Ip) (tenant va : Nat)
  | sourceLost (src : Ip)
  | moved (src target : Ip) (op : OutMsg)
  | shards (src : Ip) (c : Ckpt)
  | settled (src : Ip) (tenant seq : Nat) (ok : Bool)
  | newer (src : Ip) (tenant : Nat) (birth : Ip × Nat) (seq : Nat)
  | fetch (src : Ip) (tenant step : Nat)
  | copy (src : Ip) (c : Ckpt)
  deriving DecidableEq, Repr

/-- What the agenda names as the next move: a step that is no instruction of a team, or the next instruction (or clause
decode) of a team. -/
inductive Move where
  | event (i : Instr)
  | issue (t k : Nat)
  /-- the reads of lane or sector `n` of an outstanding load or request, which the arrival `i` will write (08 R172) -/
  | capture (i : Instr) (n : Nat)
  /-- a message of another module arrives -/
  | deliver (m : InMsg)
  /-- a request at the head of a tenant's inbox has its turn again (24 R374) -/
  | again (q : Datagram)
  deriving DecidableEq, Repr

structure State where
  power : Power := .off
  /-- fuse and firmware tables by bay (24 R363) -/
  fuse : Sparse Remap := []
  fwTab : Sparse Remap := []
  /-- arithmetic clock in MHz (00 R3, 25 R395) -/
  clockMHz : Nat := 850
  /-- arithmetic-clock count, moved on by a free amount at each reading (02 R28) -/
  clk : Nat := 0
  /-- module clock in nanoseconds and the correction that is being slewed in (09 R208) -/
  timeNs : Nat := 0
  slew : Int := 0
  /-- slot calendar of the shared ports: entries of 16 R292, V in bit 7 and OWNER below, by 128 × port + slot -/
  cal : Sparse Byte := []
  fwVersion : Nat := 0
  rollback : Nat := 0
  fwDigests : List (BitVec 512) := []
  ckpts : List Ckpt := []
  /-- the copies that buddy modules hold, by buddy; and those that this module holds as the buddy of others -/
  buddies : List (Ip × Ckpt) := []
  hosted : List (Ip × Ckpt) := []
  /-- units whose errors await the targeted self-test, units with a corrected error and its time, and the log of transient ones (25 R392) -/
  errors : List HwUnit := []
  once : List (HwUnit × Nat) := []
  hwLog : List HwUnit := []
  /-- the tenants outside the focus -/
  tens : List Tenant := []
  ten : Tenant := {}
  core : Core := {}
  blk : Block := {}
  team : Team := {}
  ctr : Nat := 0
  agenda : List Move := []
  out : List OutMsg := []
  deriving DecidableEq, Repr

/-- No step of the machine is a fault: the spec gives every instruction and step an effect, traps and reports among them, and
what it leaves undefined is a free value. -/
inductive Fault where
  deriving DecidableEq, Repr

/-- A refusal is no behaviour of the machine. -/
inductive Refusal where
  /-- an instruction whose meaning is still to be written; raised by its arm of `exec`. Safe. -/
  | notModelled (mnemonic : String)
  /-- raised by the meaning of an instruction word in a state whose focus holds no team that can issue: the step never asks
  for it. Safe. -/
  | noTeam
  deriving DecidableEq, Repr

/-- The module as its supplies find it (25 R394): nothing up, no tenant, all tables at their reset values. -/
def State.reset : State := {}

end Sys2Proof.Machine
end

