-- ==== Sys2Proof/Machine/Table.lean ====
section
/-!
DEFINITION. Tables in canonical form (`Sparse`), and numbers as little-endian bytes (00: multi-byte values are little-endian).
-/
namespace Sys2Proof.Machine

/-- The value at key `k`; `d` where the table lists none. -/
def look {α : Type} (d : α) (k : Nat) : List (Nat × α) → α
  | [] => d
  | p :: r => if p.1 == k then p.2 else look d k r

/-- The table without key `k`. -/
def wipe {α : Type} (k : Nat) : List (Nat × α) → List (Nat × α)
  | [] => []
  | p :: r => if p.1 == k then wipe k r else p :: wipe k r

/-- The table with the pair `(k, v)` put before the first larger key. -/
def place {α : Type} (k : Nat) (v : α) : List (Nat × α) → List (Nat × α)
  | [] => [(k, v)]
  | p :: r => if k < p.1 then (k, v) :: p :: r else p :: place k v r

/-- The table with `v` at key `k`; a value equal to the default `d` is not listed. -/
def put {α : Type} [DecidableEq α] (d : α) (k : Nat) (v : α) (t : List (Nat × α)) : List (Nat × α) :=
  if v = d then wipe k t else place k v (wipe k t)

/-- Keys strictly rising from `lo` on, no entry equal to the default. -/
def canonFrom {α : Type} [DecidableEq α] (d : α) (lo : Nat) : List (Nat × α) → Bool
  | [] => true
  | p :: r => decide (lo ≤ p.1) && decide (p.2 ≠ d) && canonFrom d (p.1 + 1) r

/-- The canonical form of a table. -/
def canon {α : Type} [DecidableEq α] (d : α) (t : List (Nat × α)) : Bool := canonFrom d 0 t

/-- `n` bytes of a number, low byte first. -/
def leBytes : Nat → Nat → List Byte
  | 0, _ => []
  | n + 1, x => BitVec.ofNat 8 x :: leBytes n (x / 256)

/-- The number that little-endian bytes hold. -/
def leNat : List Byte → Nat
  | [] => 0
  | b :: r => b.toNat + 256 * leNat r

/-- The `n` bytes from offset `o` of a byte list, as a number; bytes past the end count 0. -/
def field (bs : List Byte) (o n : Nat) : Nat := leNat ((bs.drop o).take n)

/-- A list cut into pieces of `n` elements (`fuel` at least its length). -/
def chunks {α : Type} : Nat → Nat → List α → List (List α)
  | 0, _, _ => []
  | f + 1, n, l => match l with
    | [] => []
    | _ :: _ => l.take n :: chunks f n (l.drop n)

/-- The addresses `a` to `a + n - 1`. -/
def span (a n : Nat) : List Nat := (List.range n).map (a + ·)

def addNew (x : Nat) (l : List Nat) : List Nat := if l.contains x then l else l ++ [x]
/-- The distinct elements of a list, in the order of their first occurrence. -/
def distinct (l : List Nat) : List Nat := l.foldl (fun acc x => addNew x acc) []
def union (a b : List Nat) : List Nat := b.foldl (fun acc x => addNew x acc) a

/-- The first answer of a list of checks. -/
def firstOf {α : Type} : List (Option α) → Option α
  | [] => none
  | some x :: _ => some x
  | none :: r => firstOf r

/-- Rounded up to a multiple of `m` (`m > 0`). -/
def roundUp (x m : Nat) : Nat := (x + m - 1) / m * m

/-- A 32-bit word of a number. -/
def word (n : Nat) : Word := BitVec.ofNat 32 n
/-- The bytes of a word, low byte first. -/
def leWord (w : Word) : List Byte := leBytes 4 w.toNat
/-- Little-endian bytes as words. -/
def toWords (bs : List Byte) : List Word := (chunks bs.length 4 bs).map fun c => word (leNat c)

end Sys2Proof.Machine
end

