-- ==== Sys2Proof/Machine/Space.lean ====
section
/-!
DEFINITION. Byte spaces and their histories (08 R170), what a record of a batch writes, and the LOAD transition (R172).
-/
namespace Sys2Proof.Machine

/-- The newest value of a location; a location never written holds 0 (R18, R151, R154, R371). -/
def Space.get (m : Space) (a : Nat) : Byte := look 0 a m.cells

/-- One write by batch `b` (or with stamp `b`): a new newest entry. -/
def Space.write (m : Space) (b a : Nat) (v : Byte) : Space :=
  { m with cells := put 0 a v m.cells, hist := put [] a ((m.get a, b) :: look [] a m.hist) m.hist }

/-- A write that starts the location afresh: the value is entry 0. -/
def Space.init (m : Space) (a : Nat) (v : Byte) : Space :=
  { m with cells := put 0 a v m.cells, hist := wipe a m.hist }

/-- Consecutive bytes, first at `a`. -/
def Space.writes (m : Space) (b : Nat) : Nat → List Byte → Space
  | _, [] => m
  | a, v :: r => (m.write b a v).writes b (a + 1) r

def Space.inits (m : Space) : Nat → List Byte → Space
  | _, [] => m
  | a, v :: r => (m.init a v).inits (a + 1) r

def Space.gets (m : Space) (a n : Nat) : List Byte := (span a n).map m.get

/-- The little-endian number in `n` bytes. -/
def Space.num (m : Space) (a n : Nat) : Nat := leNat (m.gets a n)

/-- The canonical form of a byte space (no entry with the value an unlisted location has, addresses rising). -/
def Memory.wf (m : List Host.Cell) : Bool := canon 0 m

/-- The tables of a space are in canonical form. -/
def Space.wf (m : Space) : Bool := Memory.wf m.cells && canon [] m.hist && canon none m.lines

/-- The record of the 128-byte lines that bytes `a` to `a + n - 1` touch (R170). -/
def Space.mark (m : Space) (r : LineRec) (as : List Nat) : Space :=
  { m with lines := (distinct (as.map (· / 128))).foldl (fun l x => put none x (some r) l) m.lines }

/-- Does the domain hold a team (R171)? -/
def Domain.has (d : Domain) (key core die : Nat) : Bool :=
  match d with
  | .team k => k == key
  | .core c => c == core
  | .die x => x == die
  | .device => true
  | .system => true

/-- The domain of a scope relative to a team (R171). -/
def domainOf (scope key core die : Nat) : Domain :=
  if scope == 0 then .team key
  else if scope == 1 then .core core
  else if scope == 2 then .die die
  else if scope == 3 then .device else .system

/-- The entries of a location that a reader with this floor may get, newest first, each with the batch that wrote it: from the
newest back to the newest one that the floor holds, or to entry 0 (R172). Entry 0 counts as batch 0. -/
def entriesFrom (floor : List Nat) (cur : Byte) : List (Byte × Nat) → List (Byte × Nat)
  | [] => [(cur, 0)]
  | (old, b) :: r => (cur, b) :: if floor.contains b then [] else entriesFrom floor old r

def Space.entries (m : Space) (floor : List Nat) (a : Nat) : List (Byte × Nat) :=
  entriesFrom floor (m.get a) (look [] a m.hist)

/-- The element of a list that the number `n` picks. -/
def pick {α : Type} (d : α) (n : Nat) (l : List α) : α := l.getD (n % l.length) d

/-- An entry chosen by the free number `n` when several are allowed. -/
def Space.choose (m : Space) (floor : List Nat) (n : Nat) (a : Nat) : Byte × Nat :=
  match m.entries floor a with
  | [e] => e
  | es => pick (m.get a, 0) n es

/-- What the newest write of a record leaves at a byte: a value, an atomic's, not known before the batch completes, or that of a drain
which has still to read its buffer. -/
inductive Wr where
  | val (v : Byte)
  | open_
  | later
  deriving DecidableEq, Repr

/-- The byte at `x` of a list of writes (address, bytes), the last one winning. -/
def wsByte (ws : List (Nat × List Byte)) (x : Nat) : Option Byte :=
  ws.foldl (fun acc w => if w.1 ≤ x && x < w.1 + w.2.length then some (w.2.getD (x - w.1) 0) else acc) none

def atomCovers (xs : List (Nat × DWord × DWord)) (n x : Nat) : Bool := xs.any fun p => decide (p.1 ≤ x) && decide (x < p.1 + n)
/-- Bytes of an atomic's type code (R192). -/
def atomBytes (ty : Nat) : Nat := if ty ≤ 3 then 4 else 8

/-- What a record writes at byte `x` of a space: 0 is main memory, 1 + d the scratchpad of die d. -/
def Rec.at (r : Rec) (sp x : Nat) : Option Wr :=
  match r with
  | .store die ws => if sp == die + 1 then (wsByte ws x).map Wr.val else none
  | .atomSp die _ ty xs _ => if sp == die + 1 && atomCovers xs (atomBytes ty) x then some .open_ else none
  | .copy ws => if sp == 0 then (wsByte ws x).map Wr.val else none
  | .drain _ _ ws fly got =>
    if sp != 0 then none
    else if ws.any (fun w => decide (w.1 ≤ x) && decide (x < w.1 + w.2.2)) then some .later
    else (wsByte (got ++ fly) x).map Wr.val
  | .atomMm _ ty xs _ _ => if sp == 0 && atomCovers xs (atomBytes ty) x then some .open_ else none
  | _ => none

/-- The newest write of a list of records (in issue order) to a byte. -/
def recsAt (rs : List Rec) (sp x : Nat) : Option Wr :=
  rs.foldl (fun acc r => match r.at sp x with | some w => some w | none => acc) none

/-- The byte space number `sp` of a tenant. -/
def Tenant.space (t : Tenant) (sp : Nat) : Space :=
  match sp with
  | 0 => t.main
  | d + 1 => (look none d t.scratch).getD {}

def Tenant.setSpace (t : Tenant) (sp : Nat) (m : Space) : Tenant :=
  match sp with
  | 0 => { t with main := m }
  | d + 1 => { t with scratch := put none d (some m) t.scratch }

/-- What a LOAD of one byte gives: a value, with the team's read set and read-from set after it, or a wait for a queued batch, whose
newest write there is an atomic or not. -/
inductive Got where
  | val (v : Byte) (t : Team)
  | wait (a b : Nat) (atom : Bool)

/-- A wait: the byte, the batch (0: the sector is poisoned), whether it is for an atomic. -/
abbrev Hold := Nat × Nat × Bool
def Hold.isPoison (h : Hold) : Bool := h.2.1 == 0

/-- The newest write of the team's queued batches to a byte, with its batch. -/
def Tenant.ownQueued (ten : Tenant) (key sp a : Nat) : Option (Nat × Wr) :=
  ten.queued.foldl (fun acc b => if b.team == key then
    (match recsAt b.recs sp a with | some w => some (b.id, w) | none => acc) else acc) none

/-- Completed batches up to and including the last of the given ones, in completion order (R172: entries at or above the newest one
when a batch that the load waited for completed). -/
def Tenant.doneUpTo (ten : Tenant) (after : List Nat) : List Nat :=
  let ids := ten.done.map (·.id)
  ids.take (ids.length - (ids.reverse.takeWhile fun b => !after.contains b).length)

def findRead (sp a : Nat) : List ((Nat × Nat) × Byte) → Option Byte
  | [] => none
  | p :: r => if p.1 == (sp, a) then some p.2 else findRead sp a r

/-- Does byte `a` of main memory lie in a poisoned sector (25 R391)? -/
def Tenant.poisoned (t : Tenant) (a : Nat) : Bool := t.poison.contains (a / 32)

/-- `Load(T, ℓ, kind)` of R172 for byte `a` of space `sp`; kind SP is a scratchpad. `after` holds the waits of this load: after one for
an atomic the entry is chosen afresh, from the batch's on; after one for a drain the read set comes first. `ctr` numbers the free
choice among the allowed entries. A wait for batch 0 says that the sector is poisoned. -/
def loadByte (ten : Tenant) (ctr : Nat) (after : List Hold) (sp a : Nat) (t : Team) : Got :=
  if sp == 0 && ten.poisoned a then .wait a 0 false
  else match (if sp == 0 then none else recsAt t.batch sp a) with
  | some (.val v) => .val v t
  | some _ => .val (BitVec.ofNat 8 (Config.freeIx ctr sp a)) t
  | none =>
    match ten.ownQueued t.key sp a with
    | some (_, .val v) => .val v t
    | some (b, w) => .wait a b (w == .open_)
    | none =>
      let mine := after.filter (·.1 == a)
      let waited := mine.map (·.2.1)
      match (if mine.any (·.2.2) then none else findRead sp a t.readSet) with
      | some v => .val v t
      | none =>
        let e := (ten.space sp).choose (union t.floor (ten.doneUpTo waited)) (Config.freeIx ctr sp a) a
        .val e.1 { t with readSet := ((sp, a), e.1) :: t.readSet, readFrom := addNew e.2 t.readFrom }

/-- Loads of bytes in turn. -/
def loadBytes (ten : Tenant) (ctr : Nat) (after : List Hold) (sp : Nat) : List Nat → Team → Except Hold (List Byte × Team)
  | [], t => .ok ([], t)
  | a :: r, t =>
    match loadByte ten ctr after sp a t with
    | .wait x b k => .error (x, b, k)
    | .val v t =>
      match loadBytes ten ctr after sp r t with
      | .error b => .error b
      | .ok (vs, t) => .ok (v :: vs, t)

/-- A byte that code fetch, the read of a function word or the staging of an argument window takes: any entry at or above the
floor, in no read set (R399); a free value from a poisoned sector (25 R391). -/
def Tenant.fetchByte (ten : Tenant) (ctr : Nat) (floor : List Nat) (a : Nat) : Byte :=
  if ten.poisoned a then BitVec.ofNat 8 (Config.freeIx ctr 1 a) else (ten.main.choose floor (Config.freeIx ctr 0 a) a).1

def Tenant.fetchWord (ten : Tenant) (ctr : Nat) (floor : List Nat) (a : Nat) : Word :=
  word (leNat ((span a 4).map (ten.fetchByte ctr floor)))

/-- Completed batches whose domain holds the team (R172). -/
def Tenant.seenBy (t : Tenant) (key core die : Nat) : List Nat :=
  (t.done.filter fun b => b.dom.has key core die).map (·.id)

end Sys2Proof.Machine
end

