-- ==== Sys2Proof/Machine/Operands.lean ====
section
/-!
DEFINITION. The registers of the team in the focus and every operand form: scalar sources (03 R50), scalar pairs, masks (02 R15,
R16), lanes (02 R17, R32), vector registers and pairs. A register that an outstanding result will write reads as a free
value (02 R35, 05 R83).
-/
namespace Sys2Proof.Machine

/-! ### Lanes -/

/-- ⌈L ÷ 32⌉ spans (R13). -/
def Team.spans (t : Team) : Nat := (t.lanes + 31) / 32
/-- Lanes 0 to 4⌈L ÷ 4⌉ − 1. -/
def Team.quadTop (t : Team) : Nat := (t.lanes + 3) / 4 * 4
/-- The mask of lanes below `n`. -/
def belowMask (n : Nat) : Mask := BitVec.ofNat 1024 (2 ^ n - 1)
/-- LIVE (R16). -/
def Team.live (t : Team) : Mask := belowMask t.lanes
/-- HELP (R16). -/
def Team.helpMask (t : Team) : Mask := belowMask t.quadTop ^^^ belowMask t.lanes
/-- Span word `j` of a mask (R15). -/
def spanWord (m : Mask) (j : Nat) : Word := m.extractLsb' (32 * j) 32
/-- The mask with span word `j` replaced. -/
def setSpanWord (m : Mask) (j : Nat) (w : Word) : Mask :=
  (m &&& ~~~(BitVec.ofNat 1024 0xFFFFFFFF <<< (32 * j))) ||| (w.setWidth 1024 <<< (32 * j))
/-- The set bits of a mask below `n`, ascending. -/
def lanesOf (m : Mask) (n : Nat) : List Nat := (List.range n).filter fun i => m.getLsbD i
/-- The mask that holds the given lanes. -/
def maskOf (ls : List Nat) : Mask := ls.foldl (fun m i => m ||| (BitVec.ofNat 1024 1 <<< i)) 0

/-! ### Reads -/

def Team.heldS (t : Team) (k : Nat) : Bool := t.pend.any fun p => p.sdst.contains k
def Team.heldV (t : Team) (r i : Nat) : Bool := t.pend.any fun p => p.vdst.any fun q => q.1 == r && q.2.getLsbD i
def Team.heldM (t : Team) (k : Nat) : Bool := t.pend.any fun p => p.mdst.contains k

/-- Scalar register `k`; a free value while a long-latency write of it is outstanding (R35, R83). -/
def State.sreg (s : State) (k : Nat) : Word :=
  if s.team.heldS k then Config.freeWord s.ctr k else look 0 k s.team.s

/-- The patterns of the FP32 constant codes 208 to 215 (R50). -/
def fpConst (c : Nat) : Word :=
  (if c % 2 == 1 then 0x80000000#32 else 0#32) |||
    (if c ≤ 209 then 0x3F000000#32 else if c ≤ 211 then 0x3F800000#32 else if c ≤ 213 then 0x40000000#32 else 0x40800000#32)

/-- The value of a scalar source code (R50). -/
def State.sval (s : State) (c : Byte) : Word :=
  let n := c.toNat
  if n < 128 then s.sreg n
  else if n < 192 then word (n - 128)
  else if n < 208 then 0#32 - word (208 - n)
  else fpConst n

/-- The 64-bit value of a scalar pair (R21). -/
def State.spair (s : State) (k : Nat) : DWord := s.sreg (k + 1) ++ s.sreg k
/-- Bits [55:0] of a scalar pair. -/
def State.pairVA (s : State) (k : Nat) : VA := (s.spair k).setWidth 56

/-- Mask register `k`, 0 to 15, or EXEC for 16, as stored: what an instruction that writes some of its bits leaves of the others. -/
def Team.mask (t : Team) (k : Nat) : Mask := if k == 16 then t.exec else look 0 k t.m
/-- The mask as a source; free inside LIVE while a write of it is outstanding (R35). -/
def State.mreg (s : State) (k : Nat) : Mask :=
  if s.team.heldM k then BitVec.ofNat 1024 (Config.freeNat s.ctr (200 + k)) &&& s.team.live else s.team.mask k

/-- The value of a mask source code (R50). -/
def State.mval (s : State) (c : Byte) : Mask :=
  let n := c.toNat
  if n == 17 then s.team.live else if n == 18 then s.team.helpMask else s.mreg n

/-- EXEC as an instruction reads it when it starts (R82). -/
def State.execv (s : State) : Mask := s.mreg 16
/-- Active(), ascending. -/
def State.active (s : State) : List Nat := lanesOf s.execv s.team.lanes
/-- Helpers() of swept spans (R17, R32). -/
def State.helpers (s : State) : List Nat :=
  (lanesOf s.team.helpMask s.team.quadTop).filter fun i => spanWord s.execv (i / 32) != 0
/-- Active() ∪ Helpers() of swept spans (R17). -/
def State.acting (s : State) : List Nat := s.active ++ s.helpers
/-- Number of passes (R32). -/
def State.passes (s : State) : Nat := ((List.range s.team.spans).filter fun j => spanWord s.execv j != 0).length

/-- Lane `i` of vector register `r`; a free value while a long-latency write of it is outstanding (R35). -/
def State.vreg (s : State) (r i : Nat) : Word :=
  if s.team.heldV r i then Config.freeWord s.ctr (4096 + 1024 * r + i) else look 0 (1024 * r + i) s.team.v
/-- The 64-bit value of a vector pair in one lane (R21, R49). -/
def State.vpair (s : State) (r i : Nat) : DWord := s.vreg (r + 1) i ++ s.vreg r i
/-- A main-memory address: bits [55:0] of a vector pair (R187). -/
def State.vaddr (s : State) (r i : Nat) : Nat := ((s.vpair r i).setWidth 56).toNat

/-- Relation register `k`, row `i` (R22). -/
def Team.xrow (t : Team) (k i : Nat) : DWord := look 0 (64 * k + i) t.x
/-- Accumulator tile `k`, working bank: row `i`, column `j` (R22). -/
def Team.accAt (t : Team) (k i j : Nat) : BitVec 36 := look 0 (16384 * k + 256 * i + j) t.acc

/-! ### Writes -/

def Team.setS (t : Team) (k : Nat) (x : Word) : Team := { t with s := put 0 k x t.s }
def Team.setV (t : Team) (r i : Nat) (x : Word) : Team := { t with v := put 0 (1024 * r + i) x t.v }
/-- A mask write, ANDed with LIVE (R16, R104). -/
def Team.setM (t : Team) (k : Nat) (x : Mask) : Team :=
  if k == 16 then { t with exec := x &&& t.live } else { t with m := put 0 k (x &&& t.live) t.m }
def Team.setX (t : Team) (k i : Nat) (x : DWord) : Team := { t with x := put 0 (64 * k + i) x t.x }
def Team.setAcc (t : Team) (k i j : Nat) (x : BitVec 36) : Team := { t with acc := put 0 (16384 * k + 256 * i + j) x t.acc }

/-- Lanes of one vector register written together. -/
def Team.setLanes (t : Team) (r : Nat) (xs : List (Nat × Word)) : Team := xs.foldl (fun t p => t.setV r p.1 p.2) t

/-- The register writes of a reply. -/
def Team.apply (t : Team) (ws : List RegWrite) : Team :=
  ws.foldl (fun t w => match w with
    | .v r i x => t.setV r i x
    | .s k x => t.setS k x
    | .flag bits => { t with status := t.status ||| bits }
    | .m k sel val =>
      let old := if k == 16 then t.exec else look 0 k t.m
      t.setM k ((old &&& ~~~sel) ||| (val &&& sel))) t

/-- The vector registers that a matrix or relation instruction reads (11 R230). -/
def matSources : Instr → List Nat
  | .xldb o => [o.a.toNat]
  | .xcmp o => [o.b.toNat]
  | .xmov o => if o.fn == 1 then [o.a.toNat, o.a.toNat + 1] else []
  | _ => []

/-- Note that vector registers are written while an operation of the team that reads them is outstanding (08 R184). -/
def MatOp.noteWrite (key : Nat) (rs : List Nat) (m : MatOp) : MatOp :=
  if m.team == key then { m with taint := m.taint ++ (matSources m.ins).filter rs.contains } else m

def State.taint (s : State) (rs : List Nat) : State :=
  { s with ten := { s.ten with mops := s.ten.mops.map (MatOp.noteWrite s.team.key rs) } }

def State.onTeam (s : State) (f : Team → Team) : State := { s with team := f s.team }
def State.setS (s : State) (k : Nat) (x : Word) : State := s.onTeam fun t => t.setS k x
def State.setM (s : State) (k : Nat) (x : Mask) : State := s.onTeam fun t => t.setM k x
def State.setPair (s : State) (k : Nat) (x : DWord) : State :=
  (s.setS k (x.setWidth 32)).setS (k + 1) (x.extractLsb' 32 32)

/-- A write of lanes of a vector register. -/
def State.setLanes (s : State) (r : Nat) (xs : List (Nat × Word)) : State := (s.onTeam fun t => t.setLanes r xs).taint [r]

/-- The vector registers that a reply writes. -/
def writtenV (ws : List RegWrite) : List Nat := ws.filterMap fun w => match w with | .v r _ _ => some r | _ => none

/-- A reply's writes. -/
def State.apply (s : State) (ws : List RegWrite) : State := (s.onTeam fun t => t.apply ws).taint (writtenV ws)

end Sys2Proof.Machine
end

