-- ==== Sys2Proof/Machine/Flags.lean ====
section
/-!
DEFINITION. The sticky bits of STATUS (02 R29) and of a tile's status word (10 R225), and how results set them (04 R67).
-/
namespace Sys2Proof.Machine

def stEmpty : Word := 1#32
def stApprox : Word := 2#32
def stScopex : Word := 4#32
def stInvalid : Word := 8#32
def stOverflow : Word := 16#32
def stRaybad : Word := 32#32

/-- Hardware only sets STATUS bits (R29). -/
def Team.flag (t : Team) (bits : Word) : Team := { t with status := t.status ||| bits }
def State.flag (s : State) (bits : Word) : State := s.onTeam fun t => t.flag bits

/-- The bits that results of lanes set; only lanes of Active() set a STATUS bit (R67). -/
def flagsOf (act : List Nat) (xs : List (Nat × Word × Word)) : Word :=
  xs.foldl (fun acc x => if act.contains x.1 then acc ||| x.2.2 else acc) 0

/-- A result without flags. -/
def plain (x : Word) : Word × Word := (x, 0)

/-! The status word of a tile. -/
def msRerun : Word := 1#32
def msFail : Word := 2#32
def msMismatch : Word := 4#32
def msOutr : Word := 8#32

/-- Sets bits of MSTATk and the MACRO field, which names the macro of the most recent event; a rerun is also counted, saturating (R225). -/
def Team.tileEvent (t : Team) (k m : Nat) (bits : Word) : Team :=
  let old := look 0 k t.mstat
  let runs := if bits &&& msRerun != 0 then min 65535 ((old >>> 16).toNat + 1) else (old >>> 16).toNat
  { t with mstat := put 0 k (word (runs * 65536 + m * 16) ||| ((old ||| bits) &&& 0xF#32)) t.mstat }

end Sys2Proof.Machine
end

