-- ==== Sys2Proof/Machine/Focus.lean ====
section
/-!
DEFINITION. Moving the focus: which tenant, core, block and team stand in the fields of their own. Lists of tenants, cores,
blocks and teams are kept in ascending order of their numbers.
-/
namespace Sys2Proof.Machine

/-- `x` put into a list that `f` numbers in ascending order. -/
def addBy {α : Type} (f : α → Nat) (x : α) : List α → List α
  | [] => [x]
  | y :: r => if f x < f y then x :: y :: r else y :: addBy f x r

/-- The members with number `k`, changed. -/
def changeBy {α : Type} (f : α → Nat) (k : Nat) (g : α → α) (l : List α) : List α := l.map fun x => if f x == k then g x else x
def removeBy {α : Type} (f : α → Nat) (k : Nat) (l : List α) : List α := l.filter fun x => f x != k
def findBy {α : Type} (f : α → Nat) (k : Nat) (l : List α) : Option α := l.find? fun x => f x == k

def Tenant.onTeam (t : Tenant) (k : Nat) (g : Team → Team) : Tenant := { t with teams := changeBy (·.key) k g t.teams }
def Tenant.onBlock (t : Tenant) (k : Nat) (g : Block → Block) : Tenant := { t with blocks := changeBy (·.key) k g t.blocks }
def Tenant.onCore (t : Tenant) (k : Nat) (g : Core → Core) : Tenant := { t with cores := changeBy (·.num) k g t.cores }
def Tenant.onLaunch (t : Tenant) (k : Nat) (g : Launch → Launch) : Tenant := { t with launches := changeBy (·.id) k g t.launches }
def Tenant.onCtx (t : Tenant) (k : Nat) (g : Ctx → Ctx) : Tenant := { t with ctxs := changeBy (·.num) k g t.ctxs }
def Tenant.team? (t : Tenant) (k : Nat) : Option Team := findBy (·.key) k t.teams
def Tenant.block? (t : Tenant) (k : Nat) : Option Block := findBy (·.key) k t.blocks
def Tenant.core? (t : Tenant) (k : Nat) : Option Core := findBy (·.num) k t.cores
def Tenant.launch? (t : Tenant) (k : Nat) : Option Launch := findBy (·.id) k t.launches
def Tenant.ctx? (t : Tenant) (k : Nat) : Option Ctx := findBy (·.num) k t.ctxs
def Tenant.pane? (t : Tenant) (k : Nat) : Option Pane := findBy (·.num) k t.panes

def State.onTen (s : State) (f : Tenant → Tenant) : State := { s with ten := f s.ten }

/-- Team, block and core of the focus put back into the tenant's lists. -/
def State.stow (s : State) : State :=
  { s with
    ten := { s.ten with
      teams := if s.team.key == 0 then s.ten.teams else addBy (·.key) s.team s.ten.teams
      blocks := if s.blk.key == 0 then s.ten.blocks else addBy (·.key) s.blk s.ten.blocks
      cores := if s.core.there then addBy (·.num) s.core s.ten.cores else s.ten.cores }
    team := {}, blk := {}, core := {} }

/-- The state with everything in lists. -/
def State.stowAll (s : State) : State :=
  let s := s.stow
  { s with tens := if s.ten.live then addBy (·.num) s.ten s.tens else s.tens, ten := {} }

/-- Tenant `n` in the focus; none where the module holds no such tenant. -/
def State.toTenant (n : Nat) (s : State) : Option State :=
  if s.ten.live && s.ten.num == n then some s
  else
    let s := s.stowAll
    match findBy (·.num) n s.tens with
    | none => none
    | some t => some { s with tens := removeBy (·.num) n s.tens, ten := t }

/-- Tenant `n` in the focus, its cores, blocks and teams all in its lists. -/
def State.openTenant (n : Nat) (s : State) : Option State := (s.toTenant n).map State.stow

/-- Team `k` of tenant `n` in the focus, with its block and core. -/
def State.toTeam (n k : Nat) (s : State) : Option State :=
  if s.ten.live && s.ten.num == n && s.team.key == k && k != 0 then some s
  else match s.openTenant n with
    | none => none
    | some s =>
      match s.ten.team? k with
      | none => none
      | some t =>
        match s.ten.block? t.blk, s.ten.core? t.core with
        | some b, some c =>
          some { s with
            ten := { s.ten with
              teams := removeBy (·.key) k s.ten.teams
              blocks := removeBy (·.key) t.blk s.ten.blocks
              cores := removeBy (·.num) t.core s.ten.cores }
            team := t, blk := b, core := c }
        | _, _ => none

/-- An event of tenant `n`; it has no effect where there is no such tenant. -/
def State.atTenant (n : Nat) (f : State → State) (s : State) : State :=
  match s.openTenant n with
  | none => s
  | some s => f s

/-- An event of team `k`; it has no effect where there is no such team. -/
def State.atTeam (n k : Nat) (f : State → State) (s : State) : State :=
  match s.toTeam n k with
  | none => s
  | some s => f s

/-- Every team of the tenant, the one in the focus included. -/
def State.allTeams (s : State) : List Team := if s.team.key == 0 then s.ten.teams else s.team :: s.ten.teams
def State.allCores (s : State) : List Core := if s.core.there then s.core :: s.ten.cores else s.ten.cores

/-- The launch of the team in the focus. -/
def State.launch? (s : State) : Option Launch := s.ten.launch? s.team.launch
def State.launchRec (s : State) : LRec := (s.launch?.map (·.rc)).getD {}
/-- The pane of the core in the focus. -/
def State.pane (s : State) : Pane := (s.ten.pane? s.core.pane).getD { num := s.core.pane, bay := s.core.bay }

/-! ### Undefined bytes -/

/-- A byte of a FILLING buffer that a copy also writes (07 R159). -/
def Core.unsettled (c : Core) (blk : Nat) (spad : Bool) (x : Nat) : Bool :=
  c.bt.any fun p => match p.2 with
    | some e => e.spad == spad && (spad || e.blk == blk) && e.st == .filling &&
        e.copied.any fun q => decide (e.base + q.1 ≤ x) && decide (x < e.base + q.1 + q.2)
    | none => false
/-- Does the bin's ring occupy scratchpad byte `x`? Its bytes read as undefined values (12 R262). -/
def BinDesc.ringHas (b : BinDesc) (x : Nat) : Bool := decide (b.ring ≤ x) && decide (x < b.ring + b.cap * 4 * b.rsw)
/-- Is byte `x` of the block's local store, or of the scratchpad of a die, undefined? -/
def State.lsOpen (s : State) (x : Nat) : Bool := s.core.unsettled s.blk.key false x
def State.spOpen (s : State) (die x : Nat) : Bool :=
  (s.allCores.any fun c => c.die == die && c.unsettled 0 true x) || s.ten.bins.any fun b => b.ringHas x

end Sys2Proof.Machine
end

