-- ==== Sys2Proof/Machine/Float.lean ====
section
/-!
DEFINITION. Floating-point numbers: the formats (04 R57 to R60), exact values, the one rounding to a format (R68, R69), overflow
(R68, R72, R73), conversions (R73, R74) and the arithmetic operations (R64 to R66, R71). A finite value is exact:
sign × mantissa × 2^exponent.
-/
namespace Sys2Proof.Machine

/-- What a format has besides its numbers (R57, R58). -/
inductive FKind where
  | ieee | e4m3 | e2m1 | fp36
  deriving DecidableEq, Repr

/-- A format: exponent bits, fraction bits, bias. -/
structure FFmt where
  eb : Nat
  mb : Nat
  bias : Nat
  kind : FKind
  deriving DecidableEq, Repr

def fF32 : FFmt := { eb := 8, mb := 23, bias := 127, kind := .ieee }
def fF16 : FFmt := { eb := 5, mb := 10, bias := 15, kind := .ieee }
def fBF16 : FFmt := { eb := 8, mb := 7, bias := 127, kind := .ieee }
def fE4M3 : FFmt := { eb := 4, mb := 3, bias := 7, kind := .e4m3 }
def fE5M2 : FFmt := { eb := 5, mb := 2, bias := 15, kind := .ieee }
def fE2M1 : FFmt := { eb := 2, mb := 1, bias := 1, kind := .e2m1 }
def fFP36 : FFmt := { eb := 8, mb := 27, bias := 127, kind := .fp36 }

/-- The floating format of a code of R63. -/
def fmtOfCode (c : Nat) : FFmt :=
  if c == 1 then fF16 else if c == 2 then fBF16 else if c == 3 then fE4M3 else if c == 4 then fE5M2 else if c == 5 then fE2M1 else fF32

/-- A value: NaN, an infinity, or a finite number ± m × 2^e. -/
inductive Fv where
  | nan
  | inf (neg : Bool)
  | fin (neg : Bool) (m : Nat) (e : Int)
  deriving DecidableEq, Repr

def Fv.isNan : Fv → Bool
  | .nan => true
  | _ => false
def Fv.isInf : Fv → Bool
  | .inf _ => true
  | _ => false
def Fv.isZero : Fv → Bool
  | .fin _ 0 _ => true
  | _ => false
def Fv.neg : Fv → Bool
  | .nan => false
  | .inf n => n
  | .fin n _ _ => n

/-- Position of the sign bit. -/
def FFmt.top (f : FFmt) : Nat := f.eb + f.mb
def FFmt.emax (f : FFmt) : Nat := 2 ^ f.eb - 1

/-- The value of a pattern (R57 to R59). -/
def FFmt.unpack (f : FFmt) (x : Nat) : Fv :=
  let s := x.testBit f.top
  let e := x / 2 ^ f.mb % 2 ^ f.eb
  let m := x % 2 ^ f.mb
  let special := e == f.emax
  match f.kind with
  | .e4m3 => if special && m == 2 ^ f.mb - 1 then .nan else num s e m
  | .ieee => if special then (if m == 0 then .inf s else .nan) else num s e m
  | .fp36 => if special then (if m == 0 then .inf s else .nan) else if e == 0 then .fin s 0 0 else num s e m
  | .e2m1 => num s e m
where
  num (s : Bool) (e m : Nat) : Fv :=
    if e == 0 then .fin s m (1 - (f.bias : Int) - f.mb) else .fin s (2 ^ f.mb + m) ((e : Int) - f.bias - f.mb)

/-- The canonical NaN (R57); E2M1 has none and takes +0 in its place (R74). -/
def FFmt.qnan (f : FFmt) : Nat :=
  match f.kind with
  | .e4m3 => 0x7F
  | .e2m1 => 0
  | _ => f.emax * 2 ^ f.mb + 2 ^ (f.mb - 1)
def FFmt.sign (f : FFmt) (neg : Bool) : Nat := if neg then 2 ^ f.top else 0
def FFmt.inf (f : FFmt) (neg : Bool) : Nat := f.sign neg + f.emax * 2 ^ f.mb
/-- The largest finite magnitude as (mantissa, exponent) (R57). -/
def FFmt.maxFin (f : FFmt) : Nat × Int :=
  match f.kind with
  | .e4m3 => (2 ^ f.mb + 6, (f.emax : Int) - f.bias - f.mb)
  | .e2m1 => (2 ^ (f.mb + 1) - 1, (f.emax : Int) - f.bias - f.mb)
  | _ => (2 ^ (f.mb + 1) - 1, (f.emax : Int) - 1 - f.bias - f.mb)
/-- The pattern of a representable magnitude n × 2^q, without its sign. -/
def FFmt.enc (f : FFmt) (n : Nat) (q : Int) : Nat :=
  if n < 2 ^ f.mb then n else (q + f.mb + f.bias).toNat * 2 ^ f.mb + (n - 2 ^ f.mb)
def FFmt.maxPat (f : FFmt) (neg : Bool) : Nat := f.sign neg + f.enc f.maxFin.1 f.maxFin.2

/-! ### Rounding -/

/-- A rounding mode with the stream that SR draws from (R68, R69). -/
structure RCtx where
  mode : Nat
  seed : Word := 0
  pos : Word := 0
  deriving DecidableEq, Repr

/-- `Mix` of R69. -/
def mix (key ctr : Word) : Word :=
  let x := key * 0x9E3779B1#32
  let x := x ^^^ (ctr * 0x85EBCA77#32)
  let x := x ^^^ (x >>> 15)
  let x := x * 0x2C1B3C6D#32
  x ^^^ (x >>> 12)

/-- The 24-bit draw of lane `i`, element `e` (R69). -/
def RCtx.draw (r : RCtx) (i e : Nat) : Nat := (mix (r.seed + word (1024 * e + i)) r.pos >>> 8).toNat

/-- A magnitude without its low `sh` bits, rounded (R68, R69). A shift far beyond the length of `m` rounds like one 27 bits beyond. -/
def roundMant (mode draw : Nat) (neg : Bool) (m sh : Nat) : Nat :=
  let sh := min sh (m.log2 + 28)
  let n := m / 2 ^ sh
  let rem := m % 2 ^ sh
  if rem == 0 then n
  else
    let up := match mode with
      | 0 => decide (2 ^ sh < 2 * rem) || (decide (2 ^ sh = 2 * rem) && n % 2 == 1)
      | 1 => false
      | 2 => neg
      | 3 => !neg
      | _ => decide (2 ^ 24 ≤ rem * 2 ^ 24 / 2 ^ sh + draw)
    if up then n + 1 else n

/-- What an overflow gives: R68's rule for arithmetic, or an entry of the overflow table (R72). -/
inductive OvRule where
  | arith
  | table (entry : Nat)
  deriving DecidableEq, Repr

/-- Does the mode give an infinity for a magnitude beyond the largest finite (R68)? SR gives one (R68); that it does so too where the overflow
table asks for INF, R72 leaves open (DESIGN CHOICE, log 88). -/
def toInf (mode : Nat) (neg : Bool) : Bool :=
  match mode with
  | 0 => true
  | 1 => false
  | 2 => neg
  | 3 => !neg
  | _ => true

/-- The result of an overflow, and its STATUS bits (R59, R68, R72 to R74). -/
def FFmt.overflow (f : FFmt) (mode : Nat) (neg : Bool) (ov : OvRule) : Nat × Word :=
  match f.kind with
  | .fp36 => (f.inf neg, 0)
  | .e2m1 => (f.maxPat neg, stOverflow)
  | k =>
    match ov with
    | .arith => (if toInf mode neg && k != .e4m3 then f.inf neg else f.maxPat neg, 0)
    | .table 0 => (f.maxPat neg, stOverflow)
    | .table 1 => (if k == .e4m3 then f.qnan else if toInf mode neg then f.inf neg else f.maxPat neg, stOverflow)
    | .table _ => (f.qnan, stOverflow)

/-- A finite magnitude m × 2^e rounded once to the format (R58, R59, R68, R69). -/
def FFmt.pack (f : FFmt) (mode draw : Nat) (ov : OvRule) (neg : Bool) (m : Nat) (e : Int) : Nat × Word :=
  if m == 0 then (f.sign neg, 0)
  else
    let q0 : Int := (m.log2 : Int) + e - f.mb
    let q := if f.kind == .fp36 then q0 else max q0 (1 - (f.bias : Int) - f.mb)
    let n := if q ≤ e then m * 2 ^ (e - q).toNat else roundMant mode draw neg m (q - e).toNat
    let carry := 2 ^ (f.mb + 1) ≤ n
    let q := if carry then q + 1 else q
    let n := if carry then n / 2 else n
    if n == 0 then (f.sign neg, 0)
    else if f.kind == .fp36 && q + f.mb < 1 - (f.bias : Int) then (f.sign neg, 0)
    else if f.maxFin.2 < q || (q == f.maxFin.2 && f.maxFin.1 < n) then f.overflow mode neg ov
    else (f.sign neg + f.enc n q, 0)

/-- `RoundFP` of an exact value (R59, R64, R68). -/
def FFmt.round (f : FFmt) (mode draw : Nat) (x : Fv) : Nat × Word :=
  match x with
  | .nan => (f.qnan, 0)
  | .inf n => (f.inf n, 0)
  | .fin n m e => f.pack mode draw .arith n m e

/-! ### Exact operations -/

def Fv.negate : Fv → Fv
  | .nan => .nan
  | .inf n => .inf (!n)
  | .fin n m e => .fin (!n) m e

/-- Exact product; 0 × ∞ is NaN (R65). -/
def Fv.mul (a b : Fv) : Fv :=
  match a, b with
  | .nan, _ => .nan
  | _, .nan => .nan
  | .inf n, .inf k => .inf (n != k)
  | .inf n, .fin k m _ => if m == 0 then .nan else .inf (n != k)
  | .fin n m _, .inf k => if m == 0 then .nan else .inf (n != k)
  | .fin n m e, .fin k l g => .fin (n != k) (m * l) (e + g)

/-- The signed integer that a finite value is in units of 2^`e0`. -/
def Fv.scaled (e0 : Int) : Fv → Int
  | .fin n m e => if m == 0 then 0 else (if n then -1 else 1) * (m : Int) * 2 ^ (e - e0).toNat
  | _ => 0
def Fv.minExp : Fv → Int → Int
  | .fin _ m e, e0 => if m == 0 then e0 else min e e0
  | _, e0 => e0
def Fv.someExp : Fv → Int
  | .fin _ _ e => e
  | _ => 0

/-- An exact sum of several values. ∞ − ∞ is NaN. A zero sum keeps the sign that all its terms share, and is otherwise +0, or −0
under RDN (R66). -/
def fsum (rdn : Bool) (xs : List Fv) : Fv :=
  if xs.any Fv.isNan then .nan
  else if xs.any (fun x => x.isInf && x.neg) && xs.any (fun x => x.isInf && !x.neg) then .nan
  else match xs.find? Fv.isInf with
    | some x => x
    | none =>
      let big : Int := (xs.map Fv.someExp).foldl max 0
      let e0 := xs.foldl (fun acc x => x.minExp acc) big
      let t : Int := (xs.map (Fv.scaled e0)).foldl (· + ·) 0
      if t == 0 then
        if xs.all Fv.isZero && xs.all Fv.neg then .fin true 0 0
        else if xs.all Fv.isZero && xs.all (fun x => !x.neg) then .fin false 0 0
        else .fin rdn 0 0
      else .fin (decide (t < 0)) t.natAbs e0

/-- A quotient with enough bits for any rounding, its lowest bit standing for all that follows (R70, 06 R136). -/
def Fv.div (a b : Fv) : Fv :=
  match a, b with
  | .nan, _ => .nan
  | _, .nan => .nan
  | .inf _, .inf _ => .nan
  | .inf n, .fin k _ _ => .inf (n != k)
  | .fin n _ _, .inf k => .fin (n != k) 0 0
  | .fin n m e, .fin k l g =>
    if l == 0 then (if m == 0 then .nan else .inf (n != k))
    else
      let s := 120 + l.log2
      let q := m * 2 ^ s / l
      let st := if m * 2 ^ s % l == 0 then 0 else 1
      .fin (n != k) (2 * q + st) (e - g - s - 1)

/-- INVALID when NaN comes from operands that are not NaN (R65). -/
def invalidOf (ops : List Fv) (r : Fv) : Word := if r.isNan && !ops.any Fv.isNan then stInvalid else 0

/-- Ordering of values that are not NaN: −1, 0, 1; −0 equals +0. -/
def Fv.cmp (a b : Fv) : Int :=
  match a, b with
  | .inf n, .inf k => (if n then -1 else 1) - (if k then -1 else 1)
  | .inf n, _ => if n then -1 else 1
  | _, .inf k => if k then 1 else -1
  | a, b =>
    let e0 := a.minExp (b.minExp (max a.someExp b.someExp))
    let d := a.scaled e0 - b.scaled e0
    if d < 0 then -1 else if d == 0 then 0 else 1

/-! ### FP32 patterns -/

def f32 (x : Word) : Fv := fF32.unpack x.toNat
def qnan32 : Word := 0x7FC00000#32
def max32 (neg : Bool) : Word := word (fF32.maxPat neg)

/-- `RoundFP(x, FP32, rm)` in lane `i`, element `e`. -/
def RCtx.r32 (r : RCtx) (i e : Nat) (x : Fv) : Word := word (fF32.round r.mode (r.draw i e) x).1

def rne : RCtx := { mode := 0 }
/-- `RoundFP(x, FP32, RNE)`. -/
def rne32 (x : Fv) : Word := rne.r32 0 0 x

/-- SAT on an FP32 result: an infinity becomes the largest finite value of its sign and sets OVERFLOW (06 R118). -/
def sat32 (sat : Bool) (x : Word) (flags : Word) : Word × Word :=
  if sat then (match f32 x with | .inf n => (max32 n, flags ||| stOverflow) | _ => (x, flags)) else (x, flags)

/-- minimumNumber of two patterns (R71); −0 lies below +0. -/
def minNum (a b : Word) : Word :=
  match (f32 a).isNan, (f32 b).isNan with
  | true, true => qnan32
  | true, false => b
  | false, true => a
  | false, false => let c := (f32 a).cmp (f32 b)
    if c < 0 then a else if c > 0 then b else if (f32 a).neg then a else b
/-- maximumNumber of two patterns (R71). -/
def maxNum (a b : Word) : Word :=
  match (f32 a).isNan, (f32 b).isNan with
  | true, true => qnan32
  | true, false => b
  | false, true => a
  | false, false => let c := (f32 a).cmp (f32 b)
    if c < 0 then b else if c > 0 then a else if (f32 a).neg then b else a

/-! ### Conversions -/

/-- An exact value rounded to an integer (R74): sign and magnitude. -/
def roundInt (mode draw : Nat) (neg : Bool) (m : Nat) (e : Int) : Int :=
  let n := if 0 ≤ e then m * 2 ^ e.toNat else roundMant mode draw neg m (-e).toNat
  if neg then -(n : Int) else n

/-- The range of an integer format code of R63, 6 to 13, and its width. -/
def intWidth (c : Nat) : Nat := if c ≤ 7 then 4 else if c ≤ 9 then 8 else if c ≤ 11 then 16 else 32
def intSigned (c : Nat) : Bool := c % 2 == 0
def intMin (c : Nat) : Int := if intSigned c then -(2 ^ (intWidth c - 1)) else 0
def intMax (c : Nat) : Int := if intSigned c then 2 ^ (intWidth c - 1) - 1 else 2 ^ intWidth c - 1
/-- An integer as the low bits of a pattern. -/
def intPat (w : Nat) (x : Int) : Nat := (x % 2 ^ w).toNat
/-- The clamp of R74 and whether it changed the value. -/
def clampInt (c : Nat) (x : Int) : Int × Word :=
  if x < intMin c then (intMin c, stOverflow) else if intMax c < x then (intMax c, stOverflow) else (x, 0)

/-- The overflow-table entry for a format code (R72). -/
def ovEntry (ovt : Byte) (c : Nat) : Nat :=
  let v := ovt.toNat
  if c == 1 then v % 4 else if c == 2 then v / 4 % 4 else if c == 3 then v / 16 % 4 else v / 64 % 4

/-- `Narrow(x, dst, rm)`: R73 for codes 0 to 4 (0: plain rounding), R74 for E2M1 and the integers. The pattern and its STATUS bits. -/
def narrow (ovt : Byte) (dst mode draw : Nat) (sat : Bool) (x : Fv) : Nat × Word :=
  let f := fmtOfCode dst
  if dst == 0 then f.round mode draw x
  else if dst ≤ 4 then
    let entry := if sat then 0 else ovEntry ovt dst
    match x with
    | .nan => (f.qnan, 0)
    | .inf n =>
      if sat then (f.maxPat n, stOverflow)
      else if dst == 3 then (if entry == 0 then (f.maxPat n, stOverflow) else (f.qnan, 0))
      else (f.inf n, 0)
    | .fin n m e => f.pack mode draw (.table entry) n m e
  else if dst == 5 then
    match x with
    | .nan => (0, stInvalid)
    | .inf n => (f.maxPat n, stOverflow)
    | .fin n m e => f.pack mode draw .arith n m e
  else
    match x with
    | .nan => (0, stInvalid)
    | .inf n => (intPat (intWidth dst) (if n then intMin dst else intMax dst), stOverflow)
    | .fin n m e =>
      let c := clampInt dst (roundInt mode draw n m e)
      (intPat (intWidth dst) c.1, c.2)

/-- Element `j` of width `w` of a packed word (R62). -/
def elemAt (w j : Nat) (x : Word) : Nat := x.toNat / 2 ^ (w * j) % 2 ^ w
/-- The word with element `j` of width `w` replaced. -/
def setElem (w j v : Nat) (x : Word) : Word :=
  let m : Nat := 2 ^ w - 1
  (x &&& ~~~(word (m * 2 ^ (w * j)))) ||| word (v * 2 ^ (w * j))
/-- The width of an element of a format code (R62, R63). -/
def elemWidth (c : Nat) : Nat :=
  if c == 5 || c == 6 || c == 7 then 4 else if c == 3 || c == 4 || c == 8 || c == 9 then 8
  else if c == 1 || c == 2 || c == 10 || c == 11 then 16 else 32

/-- The integer that a pattern of an integer format code holds. -/
def intVal (c x : Nat) : Int :=
  let w := intWidth c
  if intSigned c && 2 ^ (w - 1) ≤ x then (x : Int) - 2 ^ w else x
/-- The exact value of a pattern of any format code (06 R138). -/
def codeVal (c x : Nat) : Fv :=
  if c ≤ 5 then (fmtOfCode c).unpack x
  else let v := intVal c x
    .fin (decide (v < 0)) v.natAbs 0

/-- The value of a signed or unsigned integer. -/
def intFv (x : Int) : Fv := .fin (decide (x < 0)) x.natAbs 0

end Sys2Proof.Machine
end

