-- ==== Sys2Proof/Machine/MatrixUnit.lean ====
section
/-!
DEFINITION. What a matrix or relation operation reads and gives (04 R77 to R79, 10 R214 to R229, 11 R233 to R243), and what a discard
leaves of the operations of a team (10 R217, 11 R232).
-/
namespace Sys2Proof.Machine

/-! ### Operands -/

/-- K of a format of R63 (10 R214), and the number of 32-element blocks. -/
def kOf (fmt : Nat) : Nat := if fmt == 8 then 384 else if fmt == 10 then 192 else 768
def blocksOf (fmt : Nat) : Nat := kOf fmt / 32
/-- Width class of a format: 4, 8 or 16 bits. -/
def matWidth (fmt : Nat) : Nat := if fmt == 8 then 8 else if fmt == 10 then 16 else 4

/-- An E2M1 code as its half-unit integer (04 R60). -/
def halfUnits (x : Nat) : Int :=
  let m : Int := match x % 8 with
    | 0 => 0
    | 1 => 1
    | 2 => 2
    | 3 => 3
    | 4 => 4
    | 5 => 6
    | 6 => 8
    | _ => 12
  if x % 16 < 8 then m else -m

/-- The integers of packed elements (04 R62); E2M1 in half units. -/
def elems (fmt : Nat) (bs : List Byte) : List Int :=
  if fmt == 8 then bs.map fun b => b.toInt
  else if fmt == 10 then (chunks bs.length 2 bs).map fun c => (BitVec.ofNat 16 (leNat c)).toInt
  else bs.flatMap fun b =>
    let f (x : Nat) : Int := if fmt == 5 then halfUnits x else (BitVec.ofNat 4 x).toInt
    [f (b.toNat % 16), f (b.toNat / 16)]

/-- The 384 bytes of a column of the B array. -/
def Mac.column (m : Mac) (n : Nat) : List Byte :=
  let ps := m.b.filter fun p => p.1 / 384 == n
  (List.range 384).map fun k => look 0 (384 * n + k) ps
def Mac.scale (m : Mac) (n k : Nat) : Byte := look 0x38 (24 * n + k) m.scales

/-- The checksum column of the B array (10 R224): for each element index the sum over the 256 columns (its form is a DESIGN CHOICE, log 70). -/
def Mac.checksums (m : Mac) : Sparse Int :=
  let cols := (List.range 256).map fun n => elems m.bfmt (m.column n)
  (List.range (kOf m.bfmt)).filterMap fun k =>
    let v := (cols.map fun c => c.getD k 0).foldl (· + ·) 0
    if v == 0 then none else some (k, v)

/-- Values that the matrix unit may read at a local-store byte: before or after any store made since the team's last `MFENCE`, newest
first (08 R184). -/
def lsEntries (fence : Nat) (cur : Byte) : List (Byte × Nat) → List Byte
  | [] => [cur]
  | (old, b) :: r => cur :: if b ≤ fence then [] else lsEntries fence old r

/-- A byte of the operation's buffer. Bytes of a scratchpad buffer are all read at the operation's completion, the newest entry of each, a time
that 08 R180 and R184 allow between the issue and the fall of MC (DESIGN CHOICE, log 21). -/
def State.opByte (s : State) (m : MatOp) (off : Nat) : Byte :=
  let x := m.base + off
  if (if m.spad then s.spOpen s.core.die x else s.lsOpen x) then BitVec.ofNat 8 (Config.freeIx s.ctr 1006 x)
  else if m.spad then (s.ten.space (1 + s.core.die)).get x
  else
    match lsEntries m.fence (s.blk.ls.get x) (look [] x s.blk.ls.hist) with
    | [v] => v
    | vs => pick 0 (Config.freeIx s.ctr 1005 x) vs
def State.opBytes (s : State) (m : MatOp) (off n : Nat) : List Byte := (span off n).map (s.opByte m)

/-- Lane `i` of a source register; undefined in every lane once the register was written after the issue (08 R184). -/
def State.opLane (s : State) (m : MatOp) (r i : Nat) : Word :=
  if m.taint.contains r then Config.freeWord s.ctr (5000000 + 1024 * r + i) else if i < s.team.quadTop then s.vreg r i else 0

/-- Rows that the operation owns: lanes up to 63 of Active() at issue (10 R222). -/
def MatOp.rows (m : MatOp) : List Nat := lanesOf m.act 64

/-! ### What an operation gives -/

structure MatOut where
  /-- macro number and its new state -/
  mac : Option (Nat × Mac) := none
  /-- (tile, row, column, value) -/
  acc : List (Nat × Nat × Nat × BitVec 36) := []
  /-- (relation register, row, value) -/
  xs : List (Nat × Nat × DWord) := []
  /-- (vector register, lane, value) -/
  vs : List (Nat × Nat × Word) := []
  bits : Word := 0
  /-- events of a tile's status word: (tile, macro, bits) -/
  ms : List (Nat × Nat × Word) := []
  /-- reruns and logged failures -/
  reruns : Nat := 0
  fails : Nat := 0

def fp36 (x : BitVec 36) : Fv := fFP36.unpack x.toNat
def rnd36 (x : Fv) : BitVec 36 := BitVec.ofNat 36 (fFP36.round 0 0 x).1
def e4m3Of (b : Byte) : Fv := fE4M3.unpack b.toNat
/-- One half per E2M1 operand (04 R60). -/
def halves (n : Nat) : Fv := .fin false 1 (-(n : Int))

/-- One block of one accumulator value (04 R77). -/
def accBlock (h : Nat) (acc : BitVec 36) (sum : Int) (sa sb : Byte) : BitVec 36 :=
  if sum == 0 then acc
  else rnd36 (fsum false [fp36 acc, (((intFv sum).mul (e4m3Of sa)).mul (e4m3Of sb)).mul (halves h)])

def dot (xs ys : List Int) : Int := (List.zipWith (· * ·) xs ys).foldl (· + ·) 0

/-- Accumulation of one value over the blocks in ascending order. -/
def accCell (h : Nat) (acc : BitVec 36) (blocks : List (Int × Byte × Byte)) : BitVec 36 :=
  blocks.foldl (fun v b => accBlock h v b.1 b.2.1 b.2.2) acc

/-- The rows of an MMA's A operand that the operation owns, each as its blocks. -/
def State.aRows (s : State) (m : MatOp) (fmt rows : Nat) : List (Nat × List (List Int)) :=
  (m.rows.filter (· < rows)).map fun i => (i, chunks 24 32 (elems fmt (s.opBytes m (384 * i) 384)))

/-- The test of R224 on the block sums of one row: over the 256 columns they add up to what the checksum column gives. -/
def Mac.rowPasses (mac : Mac) (nb : Nat) (cols : List (List (List Int))) (a : List (List Int)) : Bool :=
  let chk := chunks 24 32 ((List.range (kOf mac.bfmt)).map fun k => look 0 k mac.chk)
  (List.range nb).all fun k => (cols.map fun b => dot (a.getD k []) (b.getD k [])).foldl (· + ·) 0 == dot (a.getD k []) (chk.getD k [])

/-- MMA (11 R234): MISMATCH, or the check and the accumulation; `mism` mismatches of the checksum were met in the computation of the sums
(10 R224), and a store that does not belong to the B array fails the test again. -/
def mmaOut (s : State) (m : MatOp) (o : XOps) (mism : Nat) : MatOut :=
  let at_ := o.d.toNat
  let mac := s.core.macs.getD o.a.toNat {}
  let fmt := o.fn.toNat
  if mac.keyMode || matWidth fmt != matWidth mac.bfmt then { ms := [(at_, o.a.toNat, msMismatch)] }
  else
    let rows := o.c.toNat + 1
    let own := m.rows.filter (· < rows)
    let nb := blocksOf fmt
    let cols := (List.range 256).map fun n => chunks 24 32 (elems mac.bfmt (mac.column n))
    let mism := if (s.aRows m fmt rows).all fun r => mac.rowPasses nb cols r.2 then mism else 2
    let ev := if mism == 0 then [] else [(at_, o.a.toNat, if mism == 1 then msRerun else msRerun ||| msFail)]
    if mism ≤ 1 then
      let h := (if fmt == 5 then 1 else 0) + (if mac.bfmt == 5 then 1 else 0)
      { acc := (s.aRows m fmt rows).flatMap fun r =>
          let i := r.1
          let a := r.2
          let sa := (List.range nb).map fun k => if o.mod.getLsbD 0 then s.opByte m (384 * rows + nb * i + k) else 0x38
          (List.range 256).map fun n =>
            let b := cols.getD n []
            (at_, i, n, accCell h (s.team.accAt at_ i n)
              ((List.range nb).map fun k => (dot (a.getD k []) (b.getD k []), sa.getD k 0x38, mac.scale n k)))
        ms := ev, reruns := mism }
    else
      { acc := own.flatMap fun i => (List.range 256).map fun n =>
          (at_, i, n, BitVec.ofNat 36 (Config.freeIx s.ctr (3000000 + i) n))
        ms := ev, reruns := 1, fails := 1 }

/-- One entry of an outlier list added to a row (04 R78). -/
def outAdd (acc : BitVec 36) (value b : Fv) : BitVec 36 :=
  let t := value.mul b
  if t.isZero && !value.isInf && !b.isInf then acc else rnd36 (fsum false [fp36 acc, t])

/-- MOUTL (11 R235): entries in list order; a malformed one sets OUTR (10 R223). -/
def moutlOut (s : State) (m : MatOp) (o : XOps) : MatOut :=
  let at_ := o.d.toNat
  let mac := s.core.macs.getD o.a.toNat {}
  if mac.keyMode then { ms := [(at_, o.a.toNat, msMismatch)] }
  else
    let fmt := mac.bfmt
    let n := (m.sc.headD 0).toNat
    let ents := (List.range n).map fun e => BitVec.ofNat 64 (leNat (s.opBytes m (8 * e) 8))
    let good (e : DWord) : Bool := e.extractLsb' 16 16 == 0 && decide ((e.extractLsb' 6 10).toNat < kOf fmt)
    let use := ents.filter fun e => good e && m.rows.contains (e.extractLsb' 0 6).toNat
    let h := if fmt == 5 then 1 else 0
    let cols := (List.range 256).map fun c => elems fmt (mac.column c)
    let rows := distinct (use.map fun e => (e.extractLsb' 0 6).toNat)
    { acc := rows.flatMap fun i => (List.range 256).map fun c =>
        (at_, i, c, (use.filter fun e => (e.extractLsb' 0 6).toNat == i).foldl (fun v e =>
          let k := (e.extractLsb' 6 10).toNat
          outAdd v (f32 (e.extractLsb' 32 32))
            (((intFv ((cols.getD c []).getD k 0)).mul (e4m3Of (mac.scale c (k / 32)))).mul (halves h))) (s.team.accAt at_ i c))
      ms := if ents.all good then [] else [(at_, o.a.toNat, msOutr)] }

/-- The scaled value of an accumulator, with INVALID (04 R79). -/
def scaleAcc (a g : Fv) : Fv × Word :=
  if a.isNan || g.isNan then (.nan, 0)
  else if a.isZero then (.fin (a.neg != g.neg) 0 0, 0)
  else if a.isInf && g.isZero then (.nan, stInvalid)
  else (a.mul g, 0)

/-- Does the operation round stochastically? Its stream position moves on once it has (04 R69, 11 R236). -/
def MatOp.draws (m : MatOp) : Bool :=
  match m.ins with
  | .mrd _ => m.sc.getD 2 0 == 4
  | _ => false

/-- A write of SEED at which the stream stands at `pos` applies to later instructions (05 R90): the outstanding ones of the team keep the
positions that they would have drawn at, in order of issue. -/
def pinOps (key : Nat) (pos : Word) : List MatOp → List MatOp
  | [] => []
  | m :: ms =>
    if m.team == key && m.draws && m.pos.isNone then { m with pos := some pos } :: pinOps key (pos + 1) ms else m :: pinOps key pos ms

/-- MRD (11 R236). Column, scale, rounding mode, overflow table and SEED are those of the issue; the stream position is that of the
roundings, unless SEED has been written since (log 20). -/
def mrdOut (s : State) (m : MatOp) (o : XOps) : MatOut :=
  let at_ := o.a.toNat
  let dst := o.hiNib.toNat
  let j := o.loNib.toNat
  let sc (k : Nat) : Word := m.sc.getD k 0
  let rc : RCtx := { mode := (sc 2).toNat, seed := sc 4, pos := m.pos.getD s.team.spos }
  let one (i k : Nat) : Nat × Nat × Word × Word :=
    let a := scaleAcc (fp36 (s.team.accAt at_ i ((sc 0).toNat + k))) (f32 (sc 1))
    let y := rc.r32 i (2 * (8 * k + j)) a.1
    let r := if dst == 0 then sat32 o.sat y 0
      else
        let r := narrow ((sc 3).setWidth 8) dst rc.mode (rc.draw i (2 * (8 * k + j) + 1)) o.sat (f32 y)
        let old := look 0 (1024 * (o.d.toNat + k) + i) s.team.v
        (if elemWidth dst == 32 then word r.1 else setElem (elemWidth dst) j r.1 old, r.2)
    (o.d.toNat + k, i, r.1, a.2 ||| r.2)
  let xs := m.rows.flatMap fun i => (List.range (o.fn.toNat + 1)).map (one i)
  { vs := xs.map fun x => (x.1, x.2.1, x.2.2.1), bits := xs.foldl (fun acc x => acc ||| x.2.2.2) 0 }

/-- MLDB (11 R233, 10 R215): the whole B tile, its scales, MATRIX mode. -/
def mldbOut (s : State) (m : MatOp) (o : XOps) : MatOut :=
  let old := s.core.macs.getD o.d.toNat {}
  let nb := blocksOf o.fn.toNat
  let b := (List.range 98304).foldr (fun k l => let v := s.opByte m k
    if v == 0 then l else (k, v) :: l) []
  let sc := (List.range 256).flatMap fun n => (List.range nb).filterMap fun k =>
    let v := m.scales.getD (nb * n + k) 0x38
    if v == 0x38 then none else some (24 * n + k, v)
  let mac : Mac := { old with keyMode := false, bfmt := o.fn.toNat, b := b, scales := sc, nb := 0 }
  { mac := some (o.d.toNat, { mac with chk := mac.checksums }) }

/-- XLDB (11 R239): keys, count, type and policies, KEYS mode. -/
def xldbOut (s : State) (m : MatOp) (o : XOps) : MatOut :=
  let old := s.core.macs.getD o.d.toNat {}
  let nb := min (m.sc.headD 0).toNat 64
  let keys := (List.range nb).foldl (fun t j => put 0 j (s.opLane m o.a.toNat j) t) []
  { mac := some (o.d.toNat, { old with
      keyMode := true, keys := keys, nb := nb, ktype := o.fn.toNat, nanp := o.lo8.toNat % 4, tot := o.lo8.getLsbD 2 }) }

/-- The order key of a value; none is UNORD (10 R227). -/
def Mac.ordKey (m : Mac) (x : Word) : Option Word :=
  if m.ktype == 0 then some x
  else if m.ktype == 1 then some (x ^^^ 0x80000000#32)
  else if (f32 x).isNan then (if m.nanp == 1 then some 0xFFFFFFFF#32 else if m.nanp == 2 then some 0 else none)
  else
    let x := if !m.tot && x == 0x80000000#32 then 0 else x
    some (if x.msb then ~~~x else x ^^^ 0x80000000#32)

/-- Bit (i, j) of a comparison (10 R228). -/
def ordRel (rel i j : Nat) (p q : Option Word) : Bool :=
  match p, q with
  | some p, some q =>
    match rel with
    | 0 => p.ult q
    | 1 => p.ule q
    | 2 => p == q
    | 3 => p != q
    | 4 => q.ult p
    | 5 => q.ule p
    | 6 => p.ult q || (p == q && decide (i < j))
    | _ => false
  | _, _ => rel == 3 || rel == 7

/-- A row of bits, bit `j` by `f`. -/
def rowOf (f : Nat → Bool) : DWord := BitVec.ofNat 64 ((List.range 64).foldl (fun n j => n + if f j then 2 ^ j else 0) 0)
/-- All rows of a relation register. -/
def xAll (k : Nat) (f : Nat → DWord) : List (Nat × Nat × DWord) := (List.range 64).map fun i => (k, i, f i)

/-- XCMP (10 R229): a macro in MATRIX mode has no keys. -/
def xcmpOut (s : State) (m : MatOp) (o : XOps) : MatOut :=
  let mac := s.core.macs.getD o.a.toNat {}
  let nb := if mac.keyMode then mac.nb else 0
  { xs := xAll o.d.toNat fun i =>
      if m.act.getLsbD i then
        let p := mac.ordKey (s.opLane m o.b.toNat i)
        rowOf fun j => decide (j < nb) && ordRel o.fn.toNat i j p (mac.ordKey (look 0 j mac.keys))
      else 0 }

/-- XROW and XCOL (11 R241). -/
def countBits (f : Nat → Bool) (n : Nat) : Nat := ((List.range n).filter f).length
def xrowOut (s : State) (m : MatOp) (o : XOps) : MatOut :=
  let n := o.lo8.toNat
  { vs := m.rows.map fun i =>
      let row := s.team.xrow o.a.toNat i
      let c := countBits row.getLsbD n
      (o.d.toNat, i, match o.fn.toNat with
        | 0 => word c
        | 1 => if c == 0 then 0 else 1
        | 2 => if c == n then 1 else 0
        | _ => match (List.range n).find? row.getLsbD with | some j => word j | none => 0xFFFFFFFF#32) }
def xcolOut (s : State) (m : MatOp) (o : XOps) : MatOut :=
  { vs := m.rows.map fun j =>
      let c := countBits (fun i => (s.team.xrow o.a.toNat i).getLsbD j) o.lo8.toNat
      (o.d.toNat, j, if o.fn == 0 then word c else if c == 0 then 0 else 1) }

/-- Row `i` of the composition of two tiles given by their rows (11 R242). -/
def composeRow (a b : Nat → DWord) (i : Nat) : DWord :=
  (List.range 64).foldl (fun acc k => if (a i).getLsbD k then acc ||| b k else acc) 0
/-- One round of the closure, on the list of rows. -/
def closeRound (t : List DWord) : List DWord :=
  (List.range 64).map fun i => t.getD i 0 ||| composeRow (t.getD · 0) (t.getD · 0) i
def identRow (i : Nat) : DWord := rowOf (· == i)

def xclosOut (s : State) (o : XOps) : MatOut :=
  let t := (List.range 6).foldl (fun t _ => closeRound t) ((List.range 64).map (s.team.xrow o.a.toNat))
  { xs := xAll o.d.toNat fun i => t.getD i 0 ||| if o.fn == 1 then identRow i else 0 }
def xcompOut (s : State) (o : ROps) : MatOut :=
  { xs := xAll o.d.toNat (composeRow (s.team.xrow o.a.toNat) (s.team.xrow o.b.toNat)) }
def xtrnOut (s : State) (o : ROps) : MatOut :=
  { xs := xAll o.d.toNat fun i => rowOf fun j => (s.team.xrow o.a.toNat j).getLsbD i }
def xlogOut (s : State) (o : XOps) : MatOut :=
  { xs := xAll o.d.toNat fun i =>
      let a := s.team.xrow o.a.toNat i
      let b := s.team.xrow o.b.toNat i
      match o.fn.toNat with
      | 0 => a &&& b
      | 1 => a ||| b
      | 2 => a ^^^ b
      | _ => a &&& ~~~b }
def xsetOut (o : XOps) : MatOut :=
  { xs := xAll o.d.toNat fun i => match o.fn.toNat with
      | 0 => 0
      | 1 => identRow i
      | _ => 0xFFFFFFFFFFFFFFFF#64 }
/-- XMOV (11 R243). -/
def xmovOut (s : State) (m : MatOp) (o : XOps) : MatOut :=
  if o.fn == 0 then
    { vs := m.rows.flatMap fun i =>
        let r := s.team.xrow o.a.toNat i
        [(o.d.toNat, i, r.setWidth 32), (o.d.toNat + 1, i, r.extractLsb' 32 32)] }
  else
    { xs := m.rows.map fun i => (o.d.toNat, i, s.opLane m (o.a.toNat + 1) i ++ s.opLane m o.a.toNat i) }
/-- MZERO (11 R237). -/
def mzeroOut (o : ROps) : MatOut :=
  { acc := (List.range 64).flatMap fun i => (List.range 256).map fun n => (o.d.toNat, i, n, 0) }

/-- The result of an operation of the team in the focus. -/
def State.matOut (s : State) (m : MatOp) (mism : Nat) : MatOut :=
  match m.ins with
  | .mldb o => mldbOut s m o
  | .mma o => mmaOut s m o mism
  | .moutl o => moutlOut s m o
  | .mrd o => mrdOut s m o
  | .mzero o => mzeroOut o
  | .xldb o => xldbOut s m o
  | .xcmp o => xcmpOut s m o
  | .xrow o => xrowOut s m o
  | .xcol o => xcolOut s m o
  | .xclos o => xclosOut s o
  | .xcomp o => xcompOut s o
  | .xtrn o => xtrnOut s o
  | .xlog o => xlogOut s o
  | .xset o => xsetOut o
  | .xmov o => xmovOut s m o
  | _ => {}

/-- Macro, relation and vector results written. -/
def State.putMac (s : State) (r : MatOut) : State :=
  match r.mac with
  | some (k, m) => { s with core := { s.core with macs := s.core.macs.set k m } }
  | none => s
def Team.putX (t : Team) (xs : List (Nat × Nat × DWord)) : Team := xs.foldl (fun t x => t.setX x.1 x.2.1 x.2.2) t
def Team.putV (t : Team) (vs : List (Nat × Nat × Word)) : Team := vs.foldl (fun t x => t.setV x.1 x.2.1 x.2.2) t
def Team.putAcc (t : Team) (xs : List (Nat × Nat × Nat × BitVec 36)) : Team :=
  xs.foldl (fun t x => t.setAcc x.1 x.2.1 x.2.2.1 x.2.2.2) t

/-- What a discard leaves of one started operation: a macro load takes effect in full (R217); each row and lane of a relation or vector
destination has its old or its new value (R232); a tile goes back to its committed bank. -/
def State.cutShort (s : State) (m : MatOp) : State :=
  let r := s.matOut m 0
  let keep (k i : Nat) : Bool := Config.freeIx s.ctr (6000000 + m.id) (1024 * k + i) % 2 == 0
  ((s.putMac r).onTeam fun t => (t.putX (r.xs.filter fun x => keep x.1 x.2.1)).putV (r.vs.filter fun x => keep (256 + x.1) x.2.1)).taint
    (distinct (r.vs.map (·.1)))

/-- The operations of the team in the focus are cancelled; one that has not started never takes effect. -/
def State.cancelOps (s : State) : State :=
  let mine := s.ten.mops.filter fun m => m.team == s.team.key
  let s := { s with ten := { s.ten with mops := s.ten.mops.filter fun m => m.team != s.team.key } }
  (mine.filter (·.started)).foldl State.cutShort s

end Sys2Proof.Machine
end

