-- ==== Sys2Proof/Machine/World.lean ====
section
/-!
DEFINITION. The world store's data (17 R296 to R310): pool allocation, directory entries with copy-on-write, reservations and their
cancellation, and writes on the device's own account (08 R183). The directory and the chunk maps stand in the state of the table
engine; the bytes of directory chunks and of column chunks stand in the pool as well (R299, R300).
-/
namespace Sys2Proof.Machine

/-! ### Writes on the device's own account -/

/-- A write that covers a whole poisoned sector clears the poison (25 R391). -/
def Tenant.heal (t : Tenant) (as : List Nat) : Tenant :=
  if t.poison.isEmpty then t else { t with poison := t.poison.filter fun p => !(span (32 * p) 32).all as.contains }

/-- One completed batch of domain SYSTEM whose line records are those of a write on the device's own account (08 R183). -/
def Tenant.deviceWrite (t : Tenant) (ws : List (Nat × List Byte)) : Tenant :=
  if ws.isEmpty then t
  else
    let id := t.nextBatch
    let m := ws.foldl (fun m w => m.writes id w.1 w.2) t.main
    let as := ws.flatMap fun w => span w.1 w.2.length
    Tenant.heal { t with
      nextBatch := id + 1
      done := t.done ++ [{ id := id, team := 0, dom := .system }]
      main := m.mark { team := none, dom := .system } as } as

/-- Copies that the table engine makes for write views: the bytes start afresh, so that they equal the shared chunk's until a write
reaches them (R304); their line records are those of a write on the device's own account. -/
def Tenant.copyIn (t : Tenant) (ws : List (Nat × List Byte)) : Tenant :=
  let as := ws.flatMap fun w => span w.1 w.2.length
  Tenant.heal { t with main := (ws.foldl (fun m w => m.inits w.1 w.2) t.main).mark { team := none, dom := .system } as } as

/-! ### Storage (R296, R299, R300, R310) -/

def dirChunk : Nat := 3072
def World.dirChunks (w : World) : Nat := (w.cap + 63) / 64
def World.ticks (w : World) : List Tick := [w.w, w.p] ++ w.d.toList
/-- Bytes of a chunk whose type has elements of `e` words (R300). -/
def chunkBytes (e : Nat) : Nat := 256 + 256 * e
/-- The place of directory chunk `k` in a tick. -/
def World.dirVA (w : World) (t : Tick) (k : Nat) : Nat := (look none k t.dirAt).getD (w.dir0 + dirChunk * k)

/-- The place of the first descriptor of a column's chunk map (R301), which the spec leaves open but for the pool (log 33). -/
def World.mapVA (w : World) (t : Tick) (k : Nat) : Nat := w.pool + 16 * (Config.mapPlace (16 * t.num + w.num) k % (w.poolsz / 16))
/-- Descriptor `i` of that map, as (VA, size). -/
def World.mapEntry (w : World) (t : Tick) (k i : Nat) : Nat × Nat :=
  (w.pool + (w.mapVA t k - w.pool + 16 * i) % w.poolsz, 16)

/-- Storage in use: column chunks and moved directory chunks of every tick, as (VA, size). -/
def World.used (w : World) : List (Nat × Nat) :=
  w.ticks.flatMap fun t =>
    (t.cols.flatMap fun p => p.2.map fun c => (c.va, chunkBytes (look 0 p.1 w.types))) ++
      t.dirAt.filterMap fun p => p.2.map fun a => (a, dirChunk)

/-- Is the first place of directory chunk `k` free, every tick having moved the chunk away? -/
def World.leftDir (w : World) (k : Nat) : Bool := w.ticks.all fun t => (look none k t.dirAt).isSome

/-- Can `size` bytes at `va` be taken, beside what is in use and beside `taken`? -/
def World.fits (w : World) (taken : List (Nat × Nat)) (va size : Nat) : Bool :=
  va % 64 == 0 && decide (w.pool ≤ va) && decide (va + size ≤ w.pool + w.poolsz) &&
    (w.used ++ taken).all (fun p => decide (p.1 + p.2 ≤ va) || decide (va + size ≤ p.1)) &&
    (decide (va + size ≤ w.dir0) || decide (w.dir0 + dirChunk * w.dirChunks ≤ va) ||
      (List.range (size / dirChunk + 2)).all fun i =>
        let k := (va - w.dir0) / dirChunk + i
        decide (va + size ≤ w.dir0 + dirChunk * k) || decide (w.dirChunks ≤ k) || w.leftDir k)

/-- A place for `size` bytes: a free choice, or the lowest that borders on something; none when the pool has no room. -/
def World.alloc (w : World) (taken : List (Nat × Nat)) (ctr n size : Nat) : Option Nat :=
  let wish := w.pool + 64 * (Config.freeIx ctr 4000 n % (w.poolsz / 64))
  if w.fits taken wish size then some wish
  else
    let ends := (w.used ++ taken).map fun p => roundUp (p.1 + p.2) 64
    let left := (w.w.dirAt.map (·.1)).map fun k => roundUp (w.dir0 + dirChunk * k) 64
    ([w.pool, roundUp (w.dir0 + dirChunk * w.dirChunks) 64] ++ ends ++ left).find? fun va => w.fits taken va size

/-! ### Directory entries (R299) -/

def DirEnt.bytes (e : DirEnt) : List Byte := leBytes 4 (e.gen * 256 + e.st) ++ leBytes 4 0 ++ leBytes 8 e.stick ++ leBytes 32 e.pres.toNat
def DirEnt.read (bs : List Byte) : DirEnt :=
  let f (o n : Nat) : Nat := leNat ((bs.drop o).take n)
  { gen := f 1 3, st := f 0 1, stick := f 8 8, pres := BitVec.ofNat 256 (f 16 32) }
def Tick.ent (t : Tick) (i : Nat) : DirEnt := look {} i t.dir
/-- The bytes of a directory chunk. -/
def Tick.chunkImage (t : Tick) (k : Nat) : List Byte := (List.range 64).flatMap fun j => (t.ent (64 * k + j)).bytes

/-- Directory chunk `k` of W made its own; none when the pool has no room. The flag says that it was copied now. -/
def World.ownDir (w : World) (ctr k : Nat) : Option (World × Bool) :=
  if w.dirVA w.w k != w.dirVA w.p k then some (w, false)
  else match w.alloc [] ctr k dirChunk with
    | none => none
    | some va => some ({ w with w := { w.w with dirAt := put none k (some va) w.w.dirAt } }, true)

def World.setEnt (w : World) (i : Nat) (e : DirEnt) : World := { w with w := { w.w with dir := put {} i e w.w.dir } }

/-- The pool bytes of some directory chunks of W. -/
def World.dirWrites (w : World) (ks : List Nat) : List (Nat × List Byte) :=
  (distinct ks).map fun k => (w.dirVA w.w k, w.w.chunkImage k)

/-! ### Reservations (R306) -/

/-- The lowest FREE index from `i` on; an index that holds no entry is FREE. -/
def Tick.freeIndex (t : Tick) (cap : Nat) : Nat → Nat → Option Nat
  | 0, _ => none
  | f + 1, i => if cap ≤ i then none else if (t.ent i).st == 0 then some i else t.freeIndex cap f (i + 1)

/-- What a reservation gives: the world after it, the index if there is one, the directory chunks that it wrote, the last index that
it looked at. -/
structure Reserved where
  world : World
  index : Option Nat
  wrote : List Nat
  seen : Nat

/-- Reserves the lowest FREE index; exhausted ones are retired on the way. `w0` is the world that a failed copy leaves unchanged. -/
def World.reserveFrom (w0 : World) (ctr : Nat) : Nat → Nat → World → List Nat → Reserved
  | 0, i, w, ks => { world := w, index := none, wrote := ks, seen := i }
  | f + 1, i, w, ks =>
    match w.w.freeIndex w.cap (w.w.dir.length + 1) i with
    | none => { world := w, index := none, wrote := ks, seen := w.cap - 1 }
    | some i =>
      match w.ownDir ctr (i / 64) with
      | none => { world := w0, index := none, wrote := [], seen := i }
      | some (w, _) =>
        let e := w.w.ent i
        if e.gen == 0xFFFFFF then
          w0.reserveFrom ctr f (i + 1) (w.setEnt i { e with st := 3, stick := w.w.num }) (ks ++ [i / 64])
        else
          { world := w.setEnt i { e with gen := e.gen + 1, st := 1, stick := w.w.num }, index := some i, wrote := ks ++ [i / 64], seen := i }

def World.reserve (w : World) (ctr : Nat) : Reserved := w.reserveFrom ctr (w.w.dir.length + 2) 0 w []

/-- Reservations in turn, `n` of them. -/
def World.reserveAll (ctr : Nat) : Nat → World → World × List (Option Nat) × List Nat × Nat
  | 0, w => (w, [], [], 0)
  | n + 1, w =>
    let r := w.reserve ctr
    let q := r.world.reserveAll ctr n
    (q.1, r.index :: q.2.1, r.wrote ++ q.2.2.1, max r.seen q.2.2.2)

/-- The entry of a reservation becomes FREE again and keeps its generation. Where W shares the chunk and the pool has no room for a
copy, the entry changes without one. -/
def World.unreserve (w : World) (ctr i : Nat) : World × List Nat :=
  let e := w.w.ent i
  if e.st != 1 then (w, [])
  else
    let r := w.ownDir ctr (i / 64)
    let w := (r.map (·.1)).getD w
    (w.setEnt i { e with st := 0, stick := w.w.num }, if r.isSome then [i / 64] else [])

/-! ### Forbidden writes (R297) -/

/-- Does byte `a` belong to the row data of a write view that launch `l` has taken (R304, 18 R319)? -/
def Tenant.viewed (t : Tenant) (l : Option Nat) (a : Nat) : Bool :=
  (((l.bind t.launch?).map (·.views)).getD []).any fun v => decide (v.1 ≤ a) && decide (a < v.1 + v.2)

/-- A tick whose chunk maps and directory are undefined. -/
def Tick.spoil (ctr n cap : Nat) (types : Sparse Nat) (t : Tick) : Tick :=
  let f (j i m : Nat) : Nat := Config.freeIx ctr (8100 + 16 * n + j) i % m
  let desc (i : Nat) : ChunkDesc := { va := f 0 i (2 ^ 56), rows := f 1 i 256, first := f 2 i (2 ^ 32), last := f 3 i (2 ^ 32) }
  let ent (i : Nat) : DirEnt :=
    { gen := f 4 i (2 ^ 24), st := f 5 i 4, stick := f 6 i (2 ^ 64), pres := BitVec.ofNat 256 (Config.freeIx ctr (8107 + 16 * n) i) }
  { t with
    cols := types.foldl (fun l p => put [] p.1 ((List.range (f 8 p.1 (2 ^ 24))).map fun i => desc (2 ^ 24 * p.1 + i)) l) []
    dir := (List.range (f 9 0 (cap + 1))).foldl (fun l i => put {} (f 10 i cap) (ent i) l) [] }
/-- A world to whose pool a program has written: what the engine holds of it is undefined, and so is every result. -/
def World.spoil (ctr : Nat) (w : World) : World :=
  { w with
    w := w.w.spoil ctr 0 w.cap w.types, p := w.p.spoil ctr 1 w.cap w.types, d := w.d.map fun d => d.spoil ctr 2 w.cap w.types }
/-- Writes at some bytes of main memory, of a team of launch `l`, or of the host, a peer or a launch record. -/
def Tenant.poolHit (t : Tenant) (ctr : Nat) (l : Option Nat) (as : List Nat) : Tenant :=
  if t.worlds.isEmpty then t
  else
    let hit (w : World) : World :=
      if as.any (fun a => decide (w.pool ≤ a) && decide (a < w.pool + w.poolsz) && !t.viewed l a) then w.spoil ctr else w
    { t with worlds := t.worlds.map hit }

def Tenant.world? (t : Tenant) (n : Nat) : Option World := findBy (·.num) n t.worlds
def Tenant.setWorld (t : Tenant) (w : World) : Tenant := { t with worlds := changeBy (·.num) w.num (fun _ => w) t.worlds }

/-- Reservations, as (world, index), cancelled. Their directory writes are entered as a completed batch of domain SYSTEM that names no team
(R306, 08 R183; DESIGN CHOICE, log 90). -/
def Tenant.cancel (t : Tenant) (rs : List (Nat × Nat)) (ctr : Nat) : Tenant :=
  rs.foldl (fun t r =>
    match t.world? r.1 with
    | none => t
    | some w =>
      let q := w.unreserve ctr r.2
      (t.setWorld q.1).deviceWrite (q.1.dirWrites q.2)) t

/-! ### Handles (R298, R307) -/

def handleWorld (h : DWord) : Nat := (h.extractLsb' 56 8).toNat
def handleGen (h : DWord) : Nat := (h.extractLsb' 32 24).toNat
def handleIndex (h : DWord) : Nat := (h.extractLsb' 0 32).toNat
def World.handle (w : World) (i : Nat) : DWord := BitVec.ofNat 64 (w.num * 2 ^ 56 + (w.w.ent i).gen * 2 ^ 32 + i)

/-- Does a handle name an entry of the world's directory? -/
def World.names (w : World) (h : DWord) : Bool := handleWorld h == w.num && decide (handleIndex h < w.cap) && handleGen h != 0
/-- `Resolve(h, V)` on the entries of V and of W that the handle names: 0 LIVE, 1 STALE, 2 PENDING, 3 INVALID. -/
def World.resolve (w : World) (e n : DirEnt) (h : DWord) : Nat :=
  if !w.names h then 3
  else
    let g := handleGen h
    if n.gen < g then 3
    else if g == e.gen && e.st == 2 then 0
    else if g == e.gen && e.st == 1 then 2
    else if decide (e.gen < g) && g == n.gen && (n.st == 1 || n.st == 2) then 2
    else 1

/-! ### Columns (R300, R301) -/

def Tick.col (t : Tick) (k : Nat) : List ChunkDesc := look [] k t.cols
/-- The indices that have a row in column `k`, ascending. -/
def Tick.rowsOf (t : Tick) (k : Nat) : List Nat := (t.dir.filter fun p => p.2.st == 2 && p.2.pres.getLsbD k).map (·.1)
/-- Chunk and row of an index in a column. -/
def Tick.locate (t : Tick) (k i : Nat) : Option (Nat × Nat) :=
  match (t.col k).findIdx? fun c => decide (c.first ≤ i) && decide (i ≤ c.last) with
  | none => none
  | some n =>
    let c := (t.col k).getD n { va := 0, rows := 0, first := 0, last := 0 }
    some (n, ((t.rowsOf k).filter fun x => decide (c.first ≤ x) && decide (x < i)).length)

end Sys2Proof.Machine
end

