-- ==== Sys2Proof/Machine/Phase.lean ====
section
/-!
DEFINITION. Phases (08 R172 to R177): the two halves of a boundary, the phase-start state, and the discard. All act on the team in
the focus.
-/
namespace Sys2Proof.Machine

/-- The buffer-table entries of a team, as (number, entry). -/
def Core.entriesOf (c : Core) (key : Nat) : List (Nat × BufEntry) :=
  c.bt.filterMap fun p => match p.2 with | some e => if e.team == key then some (p.1, e) else none | none => none

def Core.entry? (c : Core) (n : Nat) : Option BufEntry := look none n c.bt
def Core.setEntry (c : Core) (n : Nat) (e : Option BufEntry) : Core := { c with bt := put none n e c.bt }

/-- A FULL record is due (07 R167): asked for and not yet posted, the handle FULL, the phases that opened and sealed it closed. -/
def BufEntry.due (e : BufEntry) : Bool := e.evt.isSome && (e.st == .full || e.st == .draining) && !e.cur && !e.sealCur

/-- The record of an entry: tag, KIND FULL, team index, slot (07 R166). -/
def BufEntry.record (e : BufEntry) (idx : Nat) : DWord :=
  BitVec.ofNat 64 ((e.evt.getD 0).toNat * 2 ^ 32 + 2 ^ 24 + idx % 16 * 2 ^ 20 + e.slot % 16 * 2 ^ 16)

/-- Records that have become due, in the order in which their handles became FULL (07 R167). -/
def Block.noteDue (b : Block) (idx : Nat) (es : List BufEntry) : Block :=
  { b with evw := (es.filter BufEntry.due).foldl (fun l e => addBy (·.1) (e.stamp, e.record idx) l) b.evw }

/-- The entry with its phase closed. -/
def BufEntry.closed (e : BufEntry) : BufEntry := { e with cur := false, sealCur := false }

/-- What a boundary does to one entry of its team (07 R158, R167): a due record leaves it; a FULL buffer with a drain pending becomes
DRAINING; one that `HFREE` released and that has none becomes FREE. -/
def BufEntry.atBoundary (e : BufEntry) : Option BufEntry :=
  let e := e.closed
  let e := if e.due then { e with evt := none } else e
  if e.st == .full && e.drain then some { e with st := .draining }
  else if e.st == .full && e.freed then none
  else some e

def Core.boundary (c : Core) (key : Nat) : Core :=
  (c.entriesOf key).foldl (fun c p => c.setEntry p.1 p.2.atBoundary) c

/-- The completed batches that a boundary adds to the floor: the read-from set, and those whose domain holds the team (R172). -/
def State.floorNow (s : State) : List Nat :=
  union (union s.team.floor s.team.readFrom) (s.ten.seenBy s.team.key s.team.core s.core.die)

/-- The closing half of a boundary of release scope `scope` (R172): the pending batch joins the queues, the floor rises, the sets
empty, the handles and tiles take their boundary steps (07 R158, 02 R22), the pops become final (07 R168), the retained set
empties (21 R347), PTOP := CTOP (05 R95). -/
def State.closePhase (s : State) (scope : Nat) : State :=
  let t := s.team
  let b : Batch :=
    { id := s.ten.nextBatch, team := t.key, launch := t.launch, core := t.core, die := s.core.die, ctx := s.blk.ctx,
      scope := scope, dom := domainOf scope t.key t.core s.core.die, recs := t.batch, parts := [], sent := false }
  { s with
    ten := { s.ten with
      queued := if t.batch.isEmpty then s.ten.queued else s.ten.queued ++ [b]
      nextBatch := if t.batch.isEmpty then s.ten.nextBatch else s.ten.nextBatch + 1
      sectors := s.ten.sectors.map fun x => if x.team == t.key then { x with cur := false } else x }
    core := s.core.boundary t.key
    blk := s.blk.noteDue t.idx ((s.core.entriesOf t.key).map fun p => p.2.closed)
    team := { t with
      floor := s.floorNow, readSet := [], readFrom := [], batch := [], accC := t.acc, ptop := t.ctop, popped := [],
      retained := [], resv := [] } }

/-- The phase-start state (R177, 02 R30, 05 R95, 07 R160, 21 R338, R349). -/
def State.snapNow (s : State) : Snap :=
  let t := s.team
  { pc := t.pc, hdr := t.hdr, status := t.status, rm := t.rm, seed := t.seed, spos := t.spos, clkhi := t.clkhi,
    mstat := t.mstat, depth := t.depth, crec := t.crec, ctop := t.ctop, dl := t.dl, priv := t.priv, savex := t.savex,
    epc := t.epc, eia := t.eia, cause := t.cause, elane := t.elane, einfo := t.einfo, ehdr := t.ehdr,
    slots := t.h, ents := (s.core.entriesOf t.key).map (fun p => (p.1, some p.2)), seqno := t.seqno }

def State.mark (s : State) : State := { s with team := { s.team with snap := s.snapNow } }

/-- The deadline of a phase that asks for `n` units of 64 words: the pane default for 0, at most the pane maximum (09 R206). -/
def Pane.words (p : Pane) (n : Nat) : Nat := 64 * (if n == 0 then p.nd else min n p.nm)

/-- A phase begins with a floor and a deadline, and its start is noted. -/
def State.startPhase (s : State) (floor : List Nat) (n : Nat) : State :=
  State.mark { s with team := { s.team with floor := floor, dl := s.pane.words n, wait := .run } }

/-- The opening half of a boundary: the floor takes what has completed by now. -/
def State.openPhase (s : State) (n : Nat) : State := s.startPhase s.floorNow n

/-- A boundary of scope `scope` after which the next phase opens at once. -/
def State.boundary (s : State) (scope n : Nat) : State := (s.closePhase scope).openPhase n

/-- One more event of kind `ev` for the core's counter, if PMSEL selects it (09 R213). -/
def Core.count (c : Core) (ev n : Nat) : Core := if c.pmsel.toNat == ev then { c with pmcnt := c.pmcnt + word n } else c
def State.count (s : State) (ev n : Nat) : State := { s with core := s.core.count ev n }

/-- An entry that was bound at phase start, after a discard (07 R160): what the phase's own instructions changed is undone, what
closed phases set in motion stays. `old` is the entry at phase start. -/
def BufEntry.undo (old e : BufEntry) : BufEntry :=
  { e with
    st := if old.st == .filling && !old.sealed then .filling else e.st
    sealed := old.sealed, drain := old.drain && e.st == .full, cur := false, sealCur := false, freed := old.freed, slot := old.slot,
    copied := old.copied }

/-- The buffer table after a discard of a team's phase. -/
def Core.discardEntries (c : Core) (key : Nat) (snap : Snap) : Core :=
  (c.entriesOf key).foldl (fun c p => c.setEntry p.1 (if p.2.cur then none else
    match look none p.1 snap.ents with
    | some old => some (old.undo p.2)
    | none => some p.2)) c

/-- The slots after a discard: those of the phase start whose entries are still the team's. -/
def slotsAfter (c : Core) (key : Nat) (slots : List (Nat × Option Nat)) : List (Nat × Option Nat) :=
  slots.filter fun p => match p.2 with | some n => (c.entry? n).any (·.team == key) | none => false

/-- A discard of the open phase; its sectors in flight write nothing any more (R177, 07 R160, 02 R27, R30, 10 R217, R221, 11 R232). Its reservations are cancelled (17 R306).
Records that it popped return to the head of their queue, before those that an earlier discard of another team returned (07 R168; DESIGN
CHOICE, log 81). -/
def State.discard (s : State) : State :=
  let s := s.cancelOps
  let t := s.team
  let p := t.snap
  let core := (s.core.discardEntries t.key p).count 2 1
  { s with
    core := core
    blk := { s.blk with evq := t.popped ++ s.blk.evq }
    ten := { (s.ten.cancel t.resv s.ctr) with
      sectors := s.ten.sectors.filter fun x => !(x.team == t.key && x.cur) }
    team := { t with
      pc := p.pc, hdr := p.hdr, cl := none, wait := .run, park := false, status := p.status, rm := p.rm, seed := p.seed,
      spos := p.spos, clkhi := p.clkhi, mstat := p.mstat, depth := p.depth, crec := p.crec, ctop := p.ctop, ptop := p.ctop,
      dl := p.dl, priv := p.priv, savex := p.savex, epc := p.epc, eia := p.eia, cause := p.cause, elane := p.elane,
      einfo := p.einfo, ehdr := p.ehdr, h := slotsAfter core t.key p.slots, acc := t.accC, lc := 0, ac := 0, mc := 0, xc := 0,
      tc := 0, pend := [], batch := [], readSet := [], readFrom := [], resv := [], popped := [], seqno := p.seqno } }

/-- Does the team have an open phase? Not while it waits at a `BAR`, between the boundaries of a returning atomic or a `SYSC`, or
for the pager (09 R197, R207, 21 R347). -/
def Team.openPhase? (t : Team) : Bool :=
  match t.wait with
  | .bar _ | .atom _ | .sysc _ | .pager _ | .ended => false
  | _ => true

end Sys2Proof.Machine
end

