-- ==== Sys2Proof/Machine/Ops.lean ====
section
/-!
DEFINITION. The operations that every meaning shares: event records and reports (24 R375, R376), the end of a team (05 R102, 21
R340), taking a trap and returning from one (21 R336 to R339), the fault that discards a phase (21 R347), and the issue of one
instruction with its checks in their order (02 R34, 21 R341), its counts and its retirement (03 R37, R38, 09 R206).
-/
namespace Sys2Proof.Machine

abbrev Out := Host.Outcome State Fault Refusal

/-! ### Event records -/

/-- The records that a tenant's event queue may hold, in bytes, and how much of it a NOTIFY may fill (24 R375). -/
def evBytes : Nat := 262144
def evNotifyBytes : Nat := 245760
def Tenant.evFill (t : Tenant) : Nat := t.evq.foldl (fun n r => n + r.length) 0

/-- A record of 24 R376. -/
def evRecord (kind seq : Nat) (payload : List Byte) : List Byte :=
  leBytes 4 (kind * 16777216 + payload.length) ++ leBytes 4 0 ++ leBytes 8 seq ++ payload

/-- Queues a record if the queue then holds at most `limit` bytes; the first record of an empty queue is announced (24 R375). -/
def State.pushRecord (s : State) (kind : Nat) (payload : List Byte) (limit : Nat) : Option State :=
  if s.ten.evFill + 16 + payload.length ≤ limit then
    some { s with
      ten := { s.ten with evq := s.ten.evq ++ [evRecord kind s.ten.evSeq payload], evSeq := s.ten.evSeq + 1 }
      out := if s.ten.evq.isEmpty then
        s.out ++ (match s.ten.pfx with | p :: _ => [OutMsg.notice p.1 s.ten.num] | [] => []) else s.out }
  else none

/-- How full a record of a kind may make the queue: the reserve is for fault, LOST and gang reports. -/
def evLimit (kind : Nat) : Nat := if kind == 1 || kind == 2 then evBytes else evNotifyBytes

/-- A report; one that does not fit waits and holds the completion increment of its launch (24 R375). -/
def State.report (s : State) (kind : Nat) (payload : List Byte) (launch : Nat) : State :=
  match (if s.ten.evWait.isEmpty then s.pushRecord kind payload (evLimit kind) else none) with
  | some s => s
  | none => s.onTen fun t =>
    { t.onLaunch launch (fun l => { l with held := l.held + 1 }) with evWait := t.evWait ++ [(kind, payload, launch)] }

/-- The report of a team-ending fault (21 R340). -/
def faultBytes (code sub launch block team core : Nat) (iva info : Nat) : List Byte :=
  leBytes 4 (code * 256 + sub) ++ leBytes 4 launch ++ leBytes 4 block ++ leBytes 4 (team * 65536 + core) ++
    leBytes 8 iva ++ leBytes 8 info

/-! ### The end of a team -/

/-- Does a sector still fly towards entry `n` of core `c`? -/
def Tenant.flying (t : Tenant) (c n : Nat) : Bool := t.sectors.any fun x => x.core == c && x.entry == n
def Tenant.flyCount (t : Tenant) (c n : Nat) : Nat := (t.sectors.filter fun x => x.core == c && x.entry == n).length

/-- The entries of an ended team (05 R102): one that a sector or a drain still needs stays until these have finished. -/
def Core.release (c : Core) (ten : Tenant) (key : Nat) : Core :=
  (c.entriesOf key).foldl (fun c p => c.setEntry p.1
    (if p.2.st == .draining || ten.flying c.num p.1 then some { p.2 with freed := true } else none)) c

def Core.clearTlb (c : Core) (base n : Nat) : Core := { c with tlb := c.tlb.filter fun p => decide (p.1 < base) || decide (base + n ≤ p.1) }

/-- Grants return when an ended team's entries have gone (05 R102); a block's run goes with its last team's, and with the last block of
the launch on the core the argument window (05 R87). A block whose teams have ended stays, with its run, while a drain or a sector in
flight uses it (DESIGN CHOICE, log 74). -/
def Tenant.settle (t : Tenant) : Tenant :=
  let teams := t.teams.filter fun x => !(x.wait == .ended &&
    (match t.core? x.core with | some c => (c.entriesOf x.key).isEmpty | none => true))
  let gone (b : Block) : Bool := b.ended == b.teams && !teams.any (fun x => x.blk == b.key)
  let blocks := t.blocks.filter fun b => !gone b
  let cores := t.cores.map fun c =>
    { c with wins := c.wins.filter fun w => blocks.any fun b => b.core == c.num && b.launch == w.1 }
  { t with teams := teams, blocks := blocks, cores := cores }

/-- The lanes that a waiting team's returning atomic has still to perform stay to be performed (08 R182, 09 R197). -/
def Tenant.orphan (t : Tenant) (x : Team) (die : Nat) : Tenant :=
  match x.wait with
  | .atom r => if r.todo.isEmpty then t else { t with orphans := t.orphans ++ [{ team := x.key, launch := x.launch, core := x.core, die := die, req := r }] }
  | _ => t

/-- The team in the focus ends (05 R102): outstanding replies are dropped, its handles go by `Core.release`; a block whose teams
have all ended has retired, and its first-level TLB range is free (07 R169, 21 R343). The phase has been closed or discarded before. -/
def State.endTeam (s : State) : State :=
  let t := s.team
  let ended := s.blk.ended + 1
  let core := s.core.release s.ten t.key
  State.onTen (f := Tenant.settle) <| State.stow
    { s with
      core := if ended == s.blk.teams then core.clearTlb s.blk.tlbBase s.blk.tlbN else core
      blk := { s.blk with ended := ended }
      ten := { ((if ended == s.blk.teams then s.ten.onLaunch t.launch fun l => { l with retired := l.retired + 1 } else s.ten).orphan t
          s.core.die) with
        mops := s.ten.mops.filter fun m => m.team != t.key }
      team := { t with
        wait := .ended, cl := none, park := false, pend := [], lc := 0, ac := 0, mc := 0, xc := 0, tc := 0, h := [], batch := [],
        readSet := [], readFrom := [], resv := [], popped := [], retained := [] } }

/-- The open phase, if there is one, is discarded. -/
def State.drop (s : State) : State := if s.team.openPhase? then s.discard else s

/-- The team-ending fault (21 R340): the open phase is discarded, a report is queued, the team ends. -/
def State.endFault (s : State) (code sub : Nat) (iva : VA) (info : Nat) : State :=
  let s := s.drop
  (s.report 1 (faultBytes code sub s.team.launch s.blk.idx s.team.idx s.core.num iva.toNat info) s.team.launch).endTeam

/-! ### Traps -/

/-- Codes of 21 R334. -/
def cIllegal : Nat := 1
def cBudget : Nat := 2
def cPriv : Nat := 3
def cAlign : Nat := 4
def cLsbounds : Nat := 5
def cSpill : Nat := 6
def cTrap : Nat := 7
def cBrk : Nat := 8
def cDeadline : Nat := 16
def cWrbuf : Nat := 17
def cResidency : Nat := 18
def cFrames : Nat := 19
def cAccess : Nat := 20
def cFetch : Nat := 21
def cUnhandled : Nat := 22
def cHwerr : Nat := 23
def cLost : Nat := 24
/-- RESERVED, the subcode of ILLEGAL for reserved fields (03 R56). -/
def subReserved : Nat := 6
/-- ELANE of a check made once for the team (21 R335). -/
def noLane : Word := 0xFFFFFFFF#32

/-- The handler of the launch (21 R336); 0 when its image declares none. -/
def State.handler (s : State) : VA := (s.launch?.map (·.handler)).getD 0

/-- A trap is delivered (21 R336), or ends the team (R339). `epc` is the return point, `eia` the address that EIA takes, `back` the
clause that holds the return point when that is no header (R337). -/
def State.takeTrap (s : State) (code sub : Nat) (lane info : Word) (epc eia : VA) (back : Option (VA × Nat)) : State :=
  if s.team.priv || s.handler == 0 then s.endFault cUnhandled code eia sub
  else { s with team := { s.team with
    epc := epc, eia := eia, cause := word (code * 256 + sub), elane := lane, einfo := info,
    savex := s.team.exec, exec := s.team.live, priv := true, pc := s.handler, hdr := none, cl := none, ehdr := back } }

/-- The return from a trap (21 R338), after its boundary's first half: EXEC and PRIV come back and execution goes on at EPC; the
header of its clause is the interrupted clause's when EPC lies inside it (R337). -/
def Team.returnTrap (t : Team) : Team :=
  { t with
    exec := t.savex &&& t.live, priv := false, pc := t.epc
    hdr := match t.ehdr with
      | some (h, n) => if 1 ≤ (t.epc - h).toNat / 4 && (t.epc - h).toNat / 4 ≤ n then some h else none
      | none => none }

/-! ### Faults that discard the phase, and lookups of translations -/

/-- The page that a report names: the mapped page's VA, or the 64 KiB page that holds an unmapped address. -/
def pageVA (va : Nat) : Nat := va / 65536 * 65536
/-- The kinds of page that hold a frame (21 R342). -/
def PageSt.resident (p : PageSt) : Bool := p == .hbm || p == .direct
def Page.frames (p : Page) : Nat := p.size / 65536
def inside (va len a : Nat) : Bool := decide (va ≤ a) && decide (a < va + len)
/-- The combined translation of a VA: the smaller of its two pages, the permissions that both grant (21 R342). -/
def Page.through (p : Page) (g : Stage2) (va : Nat) : Page :=
  let n := min p.size g.size
  { p with va := va / n * n, size := n, gpa := p.gpa + (va / n * n - p.va), r := p.r && g.r, w := p.w && g.w }
def Tenant.stage2At (t : Tenant) (gpa : Nat) : Option Stage2 := t.stage2.find? fun g => inside g.gpa g.size gpa
def Tenant.pageAt (t : Tenant) (va : Nat) : Option Page :=
  (t.pages.find? fun p => inside p.va p.size va).bind fun p => (t.stage2At (p.gpa + (va - p.va))).map fun g => p.through g va
/-- Does a stage-1 page hold one of some VAs? -/
def Page.meets (p : Page) (vas : List Nat) : Bool := vas.any (inside p.va p.size)
/-- The mapped pages of some addresses. -/
def Tenant.pagesOf (t : Tenant) (as : List Nat) : List Page := as.filterMap t.pageAt
def Tenant.pageVAs (t : Tenant) (as : List Nat) : List Nat := distinct ((t.pagesOf as).map (·.va))
/-- A lookup in set `k` of a TLB of `ways` ways: the entry becomes the set's most recent, the least recent goes. -/
def lookup (ways k : Nat) (e : Nat × Nat) (tlb : Sparse (List (Nat × Nat))) : Sparse (List (Nat × Nat)) :=
  put [] k ((e :: (look [] k tlb).filter fun x => x != e).take ways) tlb

/-- One first-level lookup (07 R169); a miss is counted (09 R213). -/
def Core.touch (c : Core) (base n ctx : Nat) (p : Page) : Core :=
  let set := base + p.va / p.size % n
  let c := if (look [] set c.tlb).contains (ctx, p.va) then c else c.count 3 1
  { c with tlb := lookup 4 set (ctx, p.va) c.tlb }

/-- Set of a page in a second-level TLB, which the spec leaves open (DESIGN CHOICE, log 69). -/
def set2 (p : Page) : Nat := p.va / p.size % 512

/-- A page that is looked up: one that the first level misses is looked up in the bay's second level, where a walk enters it (21 R343). -/
def State.touchPage (s : State) (p : Page) : State :=
  let hit := (look [] (s.blk.tlbBase + p.va / p.size % s.blk.tlbN) s.core.tlb).contains (s.blk.ctx, p.va)
  { s with
    core := s.core.touch s.blk.tlbBase s.blk.tlbN s.blk.ctx p
    ten := if hit then s.ten else { s.ten with
      panes := changeBy (·.num) s.core.pane (fun x => { x with tlb2 := lookup 16 (set2 p) (s.blk.ctx, p.va) x.tlb2 }) s.ten.panes } }

/-- How many of the pages of some addresses a lookup cannot find cached: those that are mapped and not resident, and those that are not
mapped, in pages of 64 KiB (DESIGN CHOICE, log 69). -/
def Tenant.uncached (t : Tenant) (as : List Nat) : Nat :=
  ((t.pageVAs as).filter fun va => (t.pageAt va).any fun p => !p.st.resident).length +
    (distinct ((as.filter fun a => (t.pageAt a).isNone).map pageVA)).length
/-- Each distinct page is looked up once; only resident translations are cached, and the lookup of any other page misses (07 R162,
21 R343). -/
def State.touchPages (s : State) (as : List Nat) : State :=
  (((s.ten.pageVAs as).filterMap s.ten.pageAt).filter fun p => p.st.resident).foldl State.touchPage
    { s with core := s.core.count 3 (s.ten.uncached as) }

/-- Frames of the given pages. -/
def Tenant.framesOf (t : Tenant) (vas : List Nat) : Nat :=
  ((t.pages.filter fun p => p.meets vas).map Page.frames).foldl (· + ·) 0
/-- Frames that pinned HBM pages hold. -/
def Tenant.pinned (t : Tenant) : Nat := ((t.pages.filter fun p => p.pin && p.st == .hbm).map Page.frames).foldl (· + ·) 0

/-- Working channels of a bay (24 R363). -/
def State.channels (s : State) (bay : Nat) : Nat :=
  16 - (union (look {} bay s.fuse).channels (look {} bay s.fwTab).channels).length
/-- Channels of the tenant in the focus (16 R295); each holds 32,768 frames of 64 KiB (00 R4). -/
def State.tenChannels (s : State) : Nat := (s.ten.panes.map fun p => s.channels p.bay).foldl (· + ·) 0

/-- A fault whose pages the pager must bring (21 R347): the phase is discarded and the team parks; it ends with RESIDENCY when the
retained set and these pages exceed the unpinned frames. -/
def State.pageFault (s : State) (pages : List Nat) (iva : VA) : State :=
  if s.tenChannels * 32768 - s.ten.pinned < s.ten.framesOf (union s.team.retained pages) then
    s.endFault cResidency 0 iva (pages.headD 0)
  else
    let r := s.team.retained
    let s := s.discard
    { s with team := { s.team with retained := union r pages, wait := .pager pages } }

/-- Pages that are asked for (21 R345, 12 R248); requests for one page are merged. -/
def Tenant.request (t : Tenant) (pages : List Nat) : Tenant := { t with pageReqs := union t.pageReqs pages }

/-! ### Issue -/

/-- Why an instruction does not take effect. -/
inductive Stop where
  | trap (code sub : Nat) (lane info : Word)
  | ending (code sub info : Nat)
  /-- the same at an access, some addresses having been looked up -/
  | access (code sub info : Nat) (seen : List Nat)
  | fault (pages : List Nat)
  /-- the same where pages of a descriptor deny the read, which counts as not resident: their requests are dropped and counted
  (21 R344, 12 R248) -/
  | barred (pages : List Nat) (dropped : Nat)
  /-- a code page that is asked for; nothing is discarded (21 R345) -/
  | absent (pages : List Nat)
  | stall
  deriving DecidableEq, Repr

/-- The address of word 0 of the instruction that issues next. -/
def Clause.va (c : Clause) : VA := c.hdr + BitVec.ofNat 56 (4 * (c.pos + 1))
/-- The header after the clause (03 R37). -/
def Clause.after (c : Clause) : VA := c.hdr + BitVec.ofNat 56 (4 * (c.n + 1))

/-- The number of words of an instruction (03 R54). -/
def words (i : Instr) : Nat := (encode i).length

/-- The clause ends (03 R37, R38): execution goes on at the next header, unless the terminator then sends it elsewhere. -/
def Team.endClause (t : Team) (c : Clause) : Team := { t with pc := c.after, hdr := none, cl := none, park := c.sw }

/-- An instruction of `n` words has issued: its words count against the deadline (09 R206), and the clause ends after its last
word. -/
def Team.retire (t : Team) (c : Clause) (n : Nat) : Team :=
  let t := { t with dl := t.dl - n }
  if c.pos + n < c.n then { t with cl := some { c with pos := c.pos + n } } else t.endClause c

def State.stop (s : State) (c : Clause) (x : Stop) : State :=
  match x with
  | .trap code sub lane info => s.takeTrap code sub lane info c.va c.va (some (c.hdr, c.n))
  | .ending code sub info => s.endFault code sub c.va info
  | .access code sub info seen => (s.touchPages seen).endFault code sub c.va info
  | .fault pages => (s.touchPages pages).pageFault pages c.va
  | .barred pages n => ((s.touchPages pages).onTen fun t => { t with dropReq := t.dropReq + n }).pageFault pages c.va
  | .absent pages => s.onTen fun t => t.request pages
  | .stall => s

/-- The two issue slots of 02 R31; a vector instruction makes `passes` passes. -/
inductive Slot where
  | vector | scalar
  deriving DecidableEq, Repr

def State.countIssue (s : State) (slot : Slot) : State :=
  match slot with
  | .vector => s.count 0 s.passes
  | .scalar => s.count 1 1

/-- The issue of instruction `i` by the team in the focus. `chk` names the first check that fails, in the order of 02 R34 after
ILLEGAL and of 21 R344; `eff` is the effect. DEADLINE comes first (09 R206, 21 R341), then ILLEGAL (R34). -/
def issue (i : Instr) (slot : Slot) (chk : State → Option Stop) (eff : State → State) (s : State) : Out :=
  match s.team.cl with
  | none => .refused .noTeam
  | some c =>
    if s.team.dl < words i then .next (s.endFault cDeadline 0 c.va 0)
    else if i.wf then
      match chk s with
      | some x => .next (s.stop c x)
      | none => .next ((eff (s.countIssue slot)).onTeam fun t => t.retire c (words i))
    else .next (s.stop c (.trap cIllegal subReserved noLane 0))

/-- The issue of a terminator (03 R40): `fin` is its effect at clause end, the clause's own end before it. -/
def issueT (i : Instr) (chk : State → Option Stop) (fin : Clause → State → State) (s : State) : Out :=
  match s.team.cl with
  | none => .refused .noTeam
  | some c =>
    if s.team.dl < words i then .next (s.endFault cDeadline 0 c.va 0)
    else if i.wf then
      match chk s with
      | some x => .next (s.stop c x)
      | none => .next (fin c ((s.count 1 1).onTeam fun t => { t with dl := t.dl - words i }.endClause c))
    else .next (s.stop c (.trap cIllegal subReserved noLane 0))

/-! ### Checks -/

def trapTeam (code sub : Nat) : Option Stop := some (.trap code sub noLane 0)
/-- No check fails. -/
def noCheck (_ : State) : Option Stop := none
/-- BUDGET unless every register named is granted (02 R20): vector, relation, tile. -/
def budget (s : State) (vs xs ts : List Nat) : Option Stop :=
  if vs.all (fun k => decide (k < s.team.budget)) && xs.all (fun k => decide (k < s.team.gx)) && ts.all (fun k => decide (k < s.team.ga))
  then none else trapTeam cBudget 0
/-- The check of an instruction whose only check after ILLEGAL is the budget of its vector registers. -/
def vecs (vs : List Byte) (s : State) : Option Stop := budget s (vs.map (·.toNat)) [] []
/-- PRIV outside privileged mode. -/
def needPriv (s : State) : Option Stop := if s.team.priv then none else trapTeam cPriv 0
/-- A counter that stands at 63 lets no further instruction of its kind issue (02 R25). -/
def counterFree (n : Nat) : Option Stop := if n < 63 then none else some .stall
/-- A boundary holds the team until MC is zero (10 R221); a member of a gang that has no COMMIT yet is held before a boundary of
SYSTEM scope (24 R381). -/
def boundaryOk (s : State) (scope : Nat) : Option Stop :=
  if s.team.mc != 0 then some .stall
  else if scope == 4 && ((s.launch?.bind (·.gang)).any fun g => g.decided != some true) then some .stall
  else none

end Sys2Proof.Machine
end

