-- ==== Sys2Proof/Machine/Fetch.lean ====
section
/-!
DEFINITION. Code fetch and clause decode (03 R36 to R43, 21 R337, R344, R345), and which instruction a team issues next.
-/
namespace Sys2Proof.Machine

/-- The five counters by bit number of a counter set (03 R49). -/
def Team.counter (t : Team) (k : Nat) : Nat :=
  if k == 0 then t.lc else if k == 1 then t.ac else if k == 2 then t.mc else if k == 3 then t.xc else t.tc
/-- Does every counter of the set stand at or below `n` (05 R103)? -/
def Team.atMost (t : Team) (set : Byte) (n : Nat) : Bool := (List.range 5).all fun k => !set.getLsbD k || decide (t.counter k ≤ n)

/-- The entry that a slot of the team is bound to. -/
def State.slotEntry (s : State) (h : Nat) : Option (Nat × BufEntry) :=
  match look none h s.team.h with
  | none => none
  | some n => (s.core.entry? n).map fun e => (n, e)

/-- FULL, which a DRAINING buffer also is for `LDH`, the matrix unit and `HWAIT` (07 R158, 09 R200). -/
def BufEntry.isFull (e : BufEntry) : Bool := e.st == .full || e.st == .draining

/-- No wait, hold or park keeps the team from issuing (02 R26, 05 R103, 09 R200, R211). -/
def State.ready (s : State) : Bool :=
  (!s.team.park || s.team.atMost 0x1F#8 0) &&
  match s.team.wait with
  | .run => true
  | .counters set n => s.team.atMost set n
  | .full h => match s.slotEntry h with | some e => e.2.isFull | none => true
  | .idle h => (s.slotEntry h).isNone
  | .sleep wake => wake && !s.blk.evq.isEmpty
  | _ => false

/-- Is a save of the context from a pane under way: it waits, or has stalled (R349, R350)? -/
def Ctx.leaving (c : Ctx) (p : Nat) : Bool := c.saving.contains p || c.stalled.contains p

/-- The module runs and nothing stops the team's pane: no freeze of the tenant (24 R382, 25 R386), its context has the pane (21
R348) and no save of it is under way there (R349, R350). -/
def State.issues (s : State) : Bool :=
  s.power == .up && !s.ten.frozen && s.ten.mig.isNone && s.pane.ctx == s.blk.ctx &&
    !((s.ten.ctx? s.blk.ctx).any fun c => c.leaving s.core.pane)


/-- What a fetch of code bytes meets (21 R344, R345). -/
inductive Fetch where
  | ok
  | bad (sub va : Nat)
  | absent (pages : List Nat)
  deriving DecidableEq, Repr


/-- The first address that no fetch may use: unmapped (a REMOTE page counts so, 24 R378), or without X. -/
def Tenant.badFetch (t : Tenant) (as : List Nat) : Option (Nat × Nat) :=
  firstOf (as.map fun a => match t.pageAt a with
    | none => some (0, pageVA a)
    | some p => if p.st == .remote then some (0, p.va) else if p.x then none else some (1, p.va))

def Tenant.fetchCheck (t : Tenant) (as : List Nat) : Fetch :=
  match t.badFetch as with
  | some (sub, va) => .bad sub va
  | none =>
    let ps := distinct (as.filterMap fun a => match t.pageAt a with
      | some p => if p.st.resident then none else some p.va
      | none => none)
    if ps.isEmpty then .ok else .absent ps

/-- Addresses of `n` words from `a` on, modulo 2^56. -/
def codeBytes (a : VA) (n : Nat) : List Nat := (List.range (4 * n)).map fun i => (a + BitVec.ofNat 56 i).toNat

/-- The header checks of R36. -/
def headerOk (w : Word) : Bool :=
  (w.extractLsb' 28 4) != 0 && decide ((w.extractLsb' 25 3).toNat ≤ 4) && (w.extractLsb' 21 3) == 0 && (w.extractLsb' 0 16) == 0

/-- The structural checks of R42 over the words of a clause of class `e`; the first failure as (position, subcode). -/
def structural (e : Nat) : Nat → List Word → Option (Nat × Nat)
  | _, [] => none
  | pos, w :: rest =>
    let opc := opcOf w
    if wordsOf opc == 0 then some (pos, 1)
    else if classOf opc != 0 && classOf opc != e then some (pos, 3)
    else if wordsOf opc == 1 then
      if isTermWords opc 0 && !rest.isEmpty then some (pos, 4) else structural e (pos + 1) rest
    else match rest with
      | [] => some (pos, 5)
      | w1 :: rest => if isTermWords opc w1 && !rest.isEmpty then some (pos, 4) else structural e (pos + 2) rest

/-- The header of the clause that the team goes on in (21 R337). -/
def Team.header (t : Team) : VA := t.hdr.getD t.pc

/-- Decodes the clause and latches its words; W is evaluated once, as a hold (R38). The fetch of all the clause's words is checked before the
structure of any of them: whether FETCH or an absent page of a later word comes before a failure of an earlier word is open in 03 R42, 21 R344
and R345 (DESIGN CHOICE, log 78). A header at a VA that is no multiple of 4 is fetched at that VA (03 R48, 05 R101; DESIGN CHOICE, log 79). The
fetch of code looks up no first-level TLB (DESIGN CHOICE, log 89). -/
def State.decodeClause (s : State) : State :=
  let t := s.team
  let h := t.header
  let hb := codeBytes h 1
  match s.ten.fetchCheck hb with
  | .bad sub va => s.endFault cFetch sub h va
  | .absent ps => s.onTen fun t => t.request ps
  | .ok =>
    let w := word (leNat (hb.map (s.ten.fetchByte s.ctr t.floor)))
    if !headerOk w then s.takeTrap cIllegal 2 noLane 0 h h none
    else
      let n := (w.extractLsb' 28 4).toNat
      let bs := codeBytes (h + 4#56) n
      match s.ten.fetchCheck bs with
      | .bad sub va => s.endFault cFetch sub h va
      | .absent ps => s.onTen fun t => t.request ps
      | .ok =>
        let ws := bytesWords (bs.map (s.ten.fetchByte s.ctr t.floor))
        match structural (w.extractLsb' 25 3).toNat 0 ws with
        | some (pos, sub) => s.takeTrap cIllegal sub noLane 0 h (h + BitVec.ofNat 56 (4 * (pos + 1))) none
        | none =>
          let pos := if t.hdr.isSome then (t.pc - h).toNat / 4 - 1 else 0
          let set : Byte := w.extractLsb' 16 8
          { s with team := { t with
            cl := some { hdr := h, n := n, words := ws, pos := pos, sw := w.getLsbD 24 }
            park := false
            wait := if set == 0 then .run else .counters set 0 } }

/-- CLAUSE_DECODE of team `k` (03 R42): the team's next step when it has no clause in issue and nothing holds it. -/
def execClauseDecode (t k : Nat) (s : State) : Out :=
  .next (s.atTeam t k fun s => if s.team.cl.isNone && s.ready && s.issues then s.decodeClause else s)

/-- The hold has ended. -/
def State.wake (s : State) : State := s.onTeam fun t => { t with wait := .run, park := false }

/-- What a team's turn brings: an instruction to run, or a state in which no instruction ran. -/
inductive Turn where
  | run (i : Instr) (s : State)
  | done (s : State)

/-- The next instruction of the team in the focus. Words that name no well-formed instruction raise ILLEGAL with subcode RESERVED
at issue (03 R56), after DEADLINE (09 R206). So does a word that a handler's return to word 1 of an instruction makes a first word (21
R337) and that no decode check has seen; it meets no CLASS or TERMPOS check (DESIGN CHOICE, log 73). -/
def State.turn (s : State) : Turn :=
  if !(s.ready && s.issues) then .done s
  else match s.team.cl with
    | none => .run (.clauseDecode s.ten.num s.team.key) s
    | some c =>
      match decode (c.words.drop c.pos) with
      | .ok (i, _) => .run i s.wake
      | .error _ =>
        if s.team.dl < wordsOf (opcOf ((c.words.drop c.pos).headD 0)) then .done (s.wake.endFault cDeadline 0 c.va 0)
        else .done (s.wake.stop c (.trap cIllegal subReserved noLane 0))

end Sys2Proof.Machine
end

