-- ==== Sys2Proof/Machine/Scalar.lean ====
section
/-!
DEFINITION. The scalar instructions (05 R84 to R90).
-/
namespace Sys2Proof.Machine

/-! ### Scalar functions -/

/-- Shifts by the full unsigned count (R84). -/
def shlW (a b : Word) : Word := if b.toNat < 32 then a <<< b.toNat else 0
def shrW (a b : Word) : Word := if b.toNat < 32 then a >>> b.toNat else 0
def sraW (a b : Word) : Word := if b.toNat < 32 then a.sshiftRight b.toNat else if a.msb then 0xFFFFFFFF#32 else 0
/-- Bits [63:32] of the signed and of the unsigned product. -/
def mulHigh (a b : Word) : Word := (a.signExtend 64 * b.signExtend 64).extractLsb' 32 32
def mulHighU (a b : Word) : Word := (a.setWidth 64 * b.setWidth 64).extractLsb' 32 32
/-- The relation numbered `fn`: EQ, NE, LTS, LES, GTS, GES, LTU, LEU, GTU, GEU (R86). -/
def relW (fn : Nat) (a b : Word) : Bool :=
  match fn with
  | 0 => a == b
  | 1 => a != b
  | 2 => a.slt b
  | 3 => a.sle b
  | 4 => b.slt a
  | 5 => b.sle a
  | 6 => a.ult b
  | 7 => a.ule b
  | 8 => b.ult a
  | _ => b.ule a
def boolW (b : Bool) : Word := if b then 1 else 0
def popcW (a : Word) : Word := word ((List.range 32).filter fun i => a.getLsbD i).length
/-- Leading and trailing zeros; 32 for 0. -/
def clzW (a : Word) : Word := word ((List.range 32).takeWhile fun i => !a.getLsbD (31 - i)).length
def ctzW (a : Word) : Word := word ((List.range 32).takeWhile fun i => !a.getLsbD i).length
def brevW (a : Word) : Word := a.reverse
/-- POPC, CLZ, CTZ, BREV (R86). -/
def bitW (fn : Nat) (a : Word) : Word :=
  match fn with
  | 0 => popcW a
  | 1 => clzW a
  | 2 => ctzW a
  | _ => brevW a
def sminW (a b : Word) : Word := if a.sle b then a else b
def smaxW (a b : Word) : Word := if a.sle b then b else a
def uminW (a b : Word) : Word := if a.ule b then a else b
def umaxW (a b : Word) : Word := if a.ule b then b else a

/-- A scalar instruction whose only effect is to write `d` and that has no check after ILLEGAL. -/
def scalarOp (i : Instr) (d : Byte) (f : State → Word) (s : State) : Out :=
  issue i .scalar noCheck (fun s => s.setS d.toNat (f s)) s

/-! ### One-word operations (R84) and I forms (R85) -/

/-- NOP has no effect. -/
def execNop (o : ROps) (s : State) : Out := issue (.nop o) .scalar noCheck id s
def execSmov (o : ROps) (s : State) : Out := scalarOp (.smov o) o.d (fun s => s.sval o.a) s
def execSmovi (o : IOps) (s : State) : Out := scalarOp (.smovi o) o.d (fun _ => o.imm) s
def execSaddi (o : IOps) (s : State) : Out := scalarOp (.saddi o) o.d (fun s => s.sval o.a + o.imm) s
def execSadd (o : ROps) (s : State) : Out := scalarOp (.sadd o) o.d (fun s => s.sval o.a + s.sval o.b) s
def execSsub (o : ROps) (s : State) : Out := scalarOp (.ssub o) o.d (fun s => s.sval o.a - s.sval o.b) s
def execSmul (o : ROps) (s : State) : Out := scalarOp (.smul o) o.d (fun s => s.sval o.a * s.sval o.b) s
def execSmulh (o : ROps) (s : State) : Out := scalarOp (.smulh o) o.d (fun s => mulHigh (s.sval o.a) (s.sval o.b)) s
def execSmulhu (o : ROps) (s : State) : Out := scalarOp (.smulhu o) o.d (fun s => mulHighU (s.sval o.a) (s.sval o.b)) s
def execSand (o : ROps) (s : State) : Out := scalarOp (.sand o) o.d (fun s => s.sval o.a &&& s.sval o.b) s
def execSor (o : ROps) (s : State) : Out := scalarOp (.sor o) o.d (fun s => s.sval o.a ||| s.sval o.b) s
def execSxor (o : ROps) (s : State) : Out := scalarOp (.sxor o) o.d (fun s => s.sval o.a ^^^ s.sval o.b) s
def execSshl (o : ROps) (s : State) : Out := scalarOp (.sshl o) o.d (fun s => shlW (s.sval o.a) (s.sval o.b)) s
def execSshr (o : ROps) (s : State) : Out := scalarOp (.sshr o) o.d (fun s => shrW (s.sval o.a) (s.sval o.b)) s
def execSsra (o : ROps) (s : State) : Out := scalarOp (.ssra o) o.d (fun s => sraW (s.sval o.a) (s.sval o.b)) s

/-! ### X-form operations (R86) -/

def execScmp (o : XOps) (s : State) : Out :=
  scalarOp (.scmp o) o.d (fun s => boolW (relW o.fn.toNat (s.sval o.a) (s.sval o.b))) s
def execSsel (o : XOps) (s : State) : Out :=
  scalarOp (.ssel o) o.d (fun s => if s.sval o.c != 0 then s.sval o.a else s.sval o.b) s
def execSminS (o : XOps) (s : State) : Out := scalarOp (.sminS o) o.d (fun s => sminW (s.sval o.a) (s.sval o.b)) s
def execSminU (o : XOps) (s : State) : Out := scalarOp (.sminU o) o.d (fun s => uminW (s.sval o.a) (s.sval o.b)) s
def execSmaxS (o : XOps) (s : State) : Out := scalarOp (.smaxS o) o.d (fun s => smaxW (s.sval o.a) (s.sval o.b)) s
def execSmaxU (o : XOps) (s : State) : Out := scalarOp (.smaxU o) o.d (fun s => umaxW (s.sval o.a) (s.sval o.b)) s
def execSbit (o : XOps) (s : State) : Out := scalarOp (.sbit o) o.d (fun s => bitW o.fn.toNat (s.sval o.a)) s

/-! ### The argument window (R88) -/

/-- The argument window of the team's launch on its core (R87). -/
def State.window (s : State) : List Host.Cell :=
  match s.core.wins.find? fun w => w.1 == s.team.launch with
  | some w => w.2
  | none => []

def State.sldkOff (s : State) (o : ROps) : Word := s.sval o.a + s.sval o.b
def execSldk (o : ROps) (s : State) : Out :=
  issue (.sldk o) .scalar
    (fun s =>
      let off := s.sldkOff o
      if off.toNat % 4 != 0 then some (.trap cAlign 0 noLane off)
      else if 4096 ≤ off.toNat then some (.trap cLsbounds 0 noLane off) else none)
    (fun s => s.setS o.d.toNat (word (leNat ((span (s.sldkOff o).toNat 4).map fun a => look 0 a s.window)))) s

/-! ### Special registers (02 R28, R29, 21 R335) -/

/-- The low word of an address register. -/
def vaLo (a : VA) : Word := a.setWidth 32
def vaHi (a : VA) : Word := (a.extractLsb' 32 24).setWidth 32

/-- The world of a query launch, 0 for another (R28). -/
def LRec.world (r : LRec) : Nat := if r.kind == 1 then r.blocks % 256 else 0
/-- The tick that the launch pinned for its world; 0 when the world was not registered at its release (R28). -/
def Launch.tick (l : Launch) : Nat := ((l.pins.find? fun p => p.1 == l.rc.world).map (·.2)).getD 0

/-- The value of special register `k` (R28, 21 R335), but for the reading of CLKLO. DEADLINE counts the word of the SRDSR that reads it as
used (DESIGN CHOICE, log 72). -/
def State.special (s : State) (k : Nat) : Word :=
  let t := s.team
  let rc := s.launchRec
  let query := rc.kind == 1
  match k with
  | 0 => word t.lanes
  | 1 => word t.spans
  | 2 => word t.idx
  | 3 => word s.blk.teams
  | 4 => word s.blk.idx
  | 5 => word ((s.launch?.map (·.nblk)).getD 0)
  | 6 => word t.launch
  | 7 => word s.core.pane
  | 8 => word s.core.num
  | 9 => word t.quarter
  | 11 => t.clkhi
  | 12 => t.status
  | 13 => t.rm
  | 14 => word ((t.dl - 1 + 63) / 64)
  | 15 => vaLo (BitVec.ofNat 56 rc.arg)
  | 16 => vaHi (BitVec.ofNat 56 rc.arg)
  | 17 => word rc.world
  | 18 => if query then word s.blk.idx else 0
  | 19 => if query then word ((s.launch?.map fun l => l.rows.getD s.blk.idx 0).getD 0) else 0
  | 20 => word ((s.launch?.map Launch.tick).getD 0)
  | 21 => if rc.kind == 2 then word ((s.launch?.map fun l => l.recs.length).getD 0) else 0
  | 30 => t.seed
  | 31 => t.cause
  | 32 => vaLo t.epc
  | 33 => vaHi t.epc
  | 34 => vaLo t.eia
  | 35 => vaHi t.eia
  | 36 => t.elane
  | 37 => t.einfo
  | n => if 22 ≤ n && n ≤ 29 then look 0 (n - 22) t.mstat else 0

/-- The arithmetic-clock count moves on by a free amount. -/
def State.clkNow (s : State) : Nat := s.clk + Config.freeNat s.ctr 1

/-- `SRDSR` (05 R89): CLKLO latches CLKHI; reading MSTATk clears it. -/
def State.readSpecial (s : State) (d k : Nat) : State :=
  if k == 10 then
    let n := s.clkNow
    { (s.onTeam fun t => { t with clkhi := word (n / 2 ^ 32) }) with clk := n }.setS d (word n)
  else if 22 ≤ k && k ≤ 29 then (s.onTeam fun t => { t with mstat := put 0 (k - 22) 0 t.mstat }).setS d (s.special k)
  else s.setS d (s.special k)

/-- Codes 32 and above are privileged; unassigned ones are ILLEGAL in privileged mode (03 R51). -/
def specialOk (s : State) (k : Nat) : Option Stop :=
  if 32 ≤ k then
    if !s.team.priv then trapTeam cPriv 0
    else if 38 ≤ k then trapTeam cIllegal subReserved else none
  else none

def execSrdsr (o : ROps) (s : State) : Out :=
  issue (.srdsr o) .scalar
    (fun s =>
      let k := o.a.toNat
      firstOf [specialOk s k, if 22 ≤ k && k ≤ 29 then budget s [] [] [k - 22] else none])
    (fun s => s.readSpecial o.d.toNat o.a.toNat) s

/-- The registers that `SWRSR` may write, and their value rules (R28, R29, 21 R335). -/
def writable (k : Nat) (x : Word) : Bool :=
  match k with
  | 12 => x.toNat < 64
  | 13 => x.toNat ≤ 4
  | 30 => true
  | 32 => x.toNat % 4 == 0
  | 33 => x.toNat < 16777216
  | _ => false

def Team.writeSpecial (t : Team) (k : Nat) (x : Word) : Team :=
  match k with
  | 12 => { t with status := x }
  | 13 => { t with rm := x }
  | 30 => { t with seed := x, spos := 0 }
  | 32 => { t with epc := t.epc.extractLsb' 32 24 ++ x }
  | 33 => { t with epc := x.extractLsb' 0 24 ++ t.epc.extractLsb' 0 32 }
  | _ => t

/-- A write of SEED (register 30) leaves earlier `MRD`s the values that they were issued under (R90). -/
def State.pinSeed (s : State) (k : Nat) : State :=
  if k == 30 then { s with ten := { s.ten with mops := pinOps s.team.key s.team.spos s.ten.mops } } else s

def execSwrsr (o : ROps) (s : State) : Out :=
  issue (.swrsr o) .scalar
    (fun s =>
      let k := o.d.toNat
      if 32 ≤ k && !s.team.priv then trapTeam cPriv 0
      else if writable k (s.sval o.a) then none else trapTeam cIllegal subReserved)
    (fun s => (s.pinSeed o.d.toNat).onTeam fun t => t.writeSpecial o.d.toNat (s.sval o.a)) s

end Sys2Proof.Machine
end

