-- ==== Sys2Proof/Machine/Control.lean ====
section
/-!
DEFINITION. Branches, calls, returns, jumps, the end of a team and `WAITC` (05 R91 to R103), with the call stack in the spill area
(R95 to R97) and the check of a call target (03 R52).
-/
namespace Sys2Proof.Machine

/-! ### Branches -/

/-- COND of R91 over the mask `m` as stored. -/
def condHolds (cond : Nat) (m exec : Mask) : Bool :=
  match cond with
  | 0 => true
  | 1 => m == 0
  | 2 => m != 0
  | 3 => exec &&& ~~~m == 0
  | _ => exec &&& ~~~m != 0

def State.condOf (s : State) (o : IOps) : Bool := condHolds o.a.toNat (s.mval o.d) s.execv
/-- The target of a branch or call: its clause's header plus 4 × offset, modulo 2^56 (03 R47). -/
def branchTarget (c : Clause) (imm : Word) : VA := c.hdr + (imm.signExtend 56 <<< 2)
/-- Control passes to `va` (R93). -/
def State.goto (s : State) (va : VA) : State := s.onTeam fun t => { t with pc := va, hdr := none }

def execBrCond (o : IOps) (s : State) : Out :=
  issueT (.brCond o) noCheck (fun c s => if s.condOf o then s.goto (branchTarget c o.imm) else s) s
def execBrz (o : IOps) (s : State) : Out :=
  issueT (.brz o) noCheck (fun c s => if s.sval o.d == 0 then s.goto (branchTarget c o.imm) else s) s
def execBrnz (o : IOps) (s : State) : Out :=
  issueT (.brnz o) noCheck (fun c s => if s.sval o.d != 0 then s.goto (branchTarget c o.imm) else s) s
/-- JMPS (R101). Of a target that is no multiple of 4 the spec says nothing: it is fetched where it stands (DESIGN CHOICE, log 79). -/
def execJmps (o : ROps) (s : State) : Out :=
  issueT (.jmps o) noCheck (fun _ s => s.goto (s.pairVA o.a.toNat)) s

/-! ### Call targets -/

/-- The function word before a target (03 R52), as a fetch reads it (R399). -/
def State.fnWord (s : State) (target : VA) : Word :=
  word (leNat ((codeBytes (target - 4#56) 1).map (s.ten.fetchByte s.ctr s.team.floor)))
/-- SP × 64: spill bytes of the callee's frame. -/
def fnSpill (w : Word) : Nat := 64 * (w.extractLsb' 0 8).toNat

/-- Checks 1 to 3 of a call target (03 R52), after the read of its function word. -/
def State.targetCheck (s : State) (target : VA) : Option Stop :=
  match s.ten.fetchCheck (codeBytes (target - 4#56) 1) with
  | .bad sub va => some (.ending cFetch sub va)
  | .absent ps => some (.absent ps)
  | .ok =>
    let w := s.fnWord target
    if w.extractLsb' 24 8 != 0xA5#8 then trapTeam cIllegal 7
    else if 128 < (w.extractLsb' 8 8).toNat then trapTeam cIllegal 7
    else if s.team.budget < 8 * (w.extractLsb' 16 8).toNat then trapTeam cBudget 0
    else none

/-! ### The call stack -/

/-- No record: LINK of the outermost one (R96). -/
def noRec : Nat := 0xFFFFFFFF
/-- Where the next record goes: never below PTOP (R97). -/
def Team.pushBase (t : Team) : Nat := max t.ctop t.ptop
/-- The depth and space checks of a push of `size` bytes at `base` for a frame of `sp` bytes (R97). EINFO of the trap SPILL is the end of the
frame for lack of space, 0 for depth (DESIGN CHOICE, log 73). -/
def Team.pushCheck (t : Team) (level : Bool) (base size sp : Nat) : Option Stop :=
  if level && t.depth == 64 then some (.trap cSpill 0 noLane 0)
  else if t.z < base + size + sp then some (.trap cSpill 1 noLane (word (base + size + sp))) else none

def putBytes (a : Nat) (bs : List Byte) (m : List Host.Cell) : List Host.Cell :=
  match bs with
  | [] => m
  | b :: r => putBytes (a + 1) r (put 0 a b m)
def getNum (m : List Host.Cell) (a n : Nat) : Nat := leNat ((span a n).map fun x => look 0 x m)

/-- The 16-byte head of a record (R96). -/
def recHead (kind va link top : Nat) : List Byte := leBytes 8 (kind * 2 ^ 56 + va) ++ leBytes 4 link ++ leBytes 4 top

/-- Writes a record and makes it the current one (R97). -/
def Team.push (t : Team) (base : Nat) (rec : List Byte) (sp : Nat) : Team :=
  { t with spill := putBytes base rec t.spill, crec := some base, ctop := base + rec.length + sp }

def Team.link (t : Team) : Nat := t.crec.getD noRec
def linkOf (n : Nat) : Option Nat := if n == noRec then none else some n

/-- The checks of `CALL` and `CALLS` (R98, 03 R52). -/
def State.callCheck (s : State) (target : VA) : Option Stop :=
  match s.targetCheck target with
  | some x => some x
  | none => s.team.pushCheck true s.team.pushBase 16 (fnSpill (s.fnWord target))

/-- The call itself: a record of kind `kind`, one level more, control to the target. The clause has ended, so the pc is the return VA. -/
def State.doCall (s : State) (kind : Nat) (target : VA) : State :=
  let sp := fnSpill (s.fnWord target)
  (s.onTeam fun t =>
    { t.push t.pushBase (recHead kind t.pc.toNat t.link t.ctop) sp with depth := t.depth + 1 }).goto target

def execCall (o : IOps) (s : State) : Out :=
  issueT (.call o)
    (fun s => match s.team.cl with
      | some c => if s.condOf o then s.callCheck (branchTarget c o.imm) else none
      | none => none)
    (fun c s => if s.condOf o then s.doCall 0 (branchTarget c o.imm) else s) s

/-- CALLS. A target that is no multiple of 4 is fetched where it stands (DESIGN CHOICE, log 79). -/
def execCalls (o : ROps) (s : State) : Out :=
  issueT (.calls o) (fun s => s.callCheck (s.pairVA o.a.toNat)) (fun _ s => s.doCall 1 (s.pairVA o.a.toNat)) s

/-! ### `CALLV` and `RET` -/

/-- The size of a group record for S spans (R96). -/
def groupSize (spans : Nat) : Nat := roundUp (32 + 132 * spans) 16
/-- T(i) of R99. -/
def targetOf (base : VA) (off : Nat) : VA := base + BitVec.ofNat 56 off

/-- The first lane of the Active() set whose offset is no multiple of 4 (R99). -/
def State.callvAlign (s : State) (o : ROps) : Option Stop :=
  firstOf (s.active.map fun i => let x := s.vreg o.a.toNat i
    if x.toNat % 4 != 0 then some (.trap cAlign 0 (word i) x) else none)

/-- CALLV (R99). Offsets of lanes that the team does not have, and the padding of the group record, are zeros (DESIGN CHOICE, log 73). A
base that is no multiple of 4 gives targets that are none, fetched where they stand (DESIGN CHOICE, log 79). -/
def execCallv (o : ROps) (s : State) : Out :=
  issueT (.callv o)
    (fun s => firstOf [vecs [o.a] s, s.callvAlign o, match s.active with
      | [] => none
      | f :: _ =>
        let target := targetOf (s.pairVA o.b.toNat) (s.vreg o.a.toNat f).toNat
        match s.targetCheck target with
        | some x => some x
        | none => s.team.pushCheck true s.team.pushBase (groupSize s.team.spans + 16) (fnSpill (s.fnWord target))])
    (fun _ s => match s.active with
      | [] => s
      | f :: _ =>
        let va := s.pairVA o.b.toNat
        let off i := (s.vreg o.a.toNat i).toNat
        let target := targetOf va (off f)
        let exec := s.execv
        let n := s.team.spans
        let group := recHead 2 s.team.pc.toNat s.team.link s.team.ctop ++ leBytes 8 va.toNat ++ leBytes 8 0 ++
          (List.range n).flatMap (fun j => leWord (spanWord exec j)) ++ (List.range (32 * n)).flatMap (fun i => leBytes 4 (off i))
        let group := group ++ leBytes (groupSize n - group.length) 0
        let gb := s.team.pushBase
        (s.onTeam fun t =>
          let t := { t.push gb group 0 with depth := t.depth + 1 }
          let t := t.push (gb + groupSize n) (recHead 3 target.toNat gb f) (fnSpill (s.fnWord target))
          t.setM 16 (maskOf ((lanesOf exec t.lanes).filter fun j => targetOf va (off j) == target))).goto target) s

/-- The fields of a group record (R96). -/
structure Group where
  ret : VA
  link : Nat
  top : Nat
  base : VA
  exec : Mask
  at_ : Nat
  size : Nat

def Team.group (t : Team) (g : Nat) : Group :=
  { ret := BitVec.ofNat 56 (getNum t.spill g 7), link := getNum t.spill (g + 8) 4, top := getNum t.spill (g + 12) 4
    base := BitVec.ofNat 56 (getNum t.spill (g + 16) 7)
    exec := (List.range t.spans).foldl (fun m j => setSpanWord m j (word (getNum t.spill (g + 32 + 4 * j) 4))) 0
    at_ := g, size := groupSize t.spans }
/-- T(i) from a group's saved offsets. -/
def Team.groupTarget (t : Team) (g : Group) (i : Nat) : VA := targetOf g.base (getNum t.spill (g.at_ + 32 + 4 * t.spans + 4 * i) 4)

/-- The next lane that `RET` serves after the target of lane `first` (R100). -/
def Team.nextServed (t : Team) (g : Group) (first : Nat) : Option Nat :=
  let ls := lanesOf g.exec t.lanes
  ls.find? fun j => decide (first < j) && ls.all fun k => !decide (k < j) || t.groupTarget g k != t.groupTarget g j

/-- What `RET` finds at CREC (R100). -/
inductive RetCase where
  | underflow
  | bad
  | simple (va : VA) (link top : Nat)
  | serve (g : Group) (lane : Nat)
  | last (g : Group)

def Team.retCase (t : Team) : RetCase :=
  if t.depth == 0 then .underflow
  else match t.crec with
    | none => .bad
    | some r =>
      let kind := getNum t.spill (r + 7) 1
      if kind ≤ 1 then .simple (BitVec.ofNat 56 (getNum t.spill r 7)) (getNum t.spill (r + 8) 4) (getNum t.spill (r + 12) 4)
      else if kind == 3 then
        let g := t.group (getNum t.spill (r + 8) 4)
        match t.nextServed g (getNum t.spill (r + 12) 4) with
        | some j => .serve g j
        | none => .last g
      else .bad

/-- Where the entry record of a further target goes: above the group, never below PTOP (R97, R100). -/
def Team.serveBase (t : Team) (g : Group) : Nat := max (g.at_ + g.size) t.ptop

/-- A record that no push has written leaves the results of `RET` undefined (R97): where it goes and what it restores are free. -/
def State.retAnywhere (s : State) : State :=
  (s.onTeam fun t =>
    { t.setM 16 ((List.range t.spans).foldl (fun m j => setSpanWord m j (Config.freeWord s.ctr (8 + j))) 0 &&& t.live) with
      ctop := Config.freeNat s.ctr 1, crec := pick none (Config.freeNat s.ctr 2) (none :: (List.range t.z).map some)
      depth := Config.freeNat s.ctr 3 % (t.depth + 1) }).goto
    (BitVec.ofNat 56 (Config.freeNat s.ctr 0 * 4))

/-- RET (R100). EINFO of an empty call stack's trap is 0 (DESIGN CHOICE, log 73). -/
def execRet (o : ROps) (s : State) : Out :=
  issueT (.ret o)
    (fun s => match s.team.retCase with
      | .underflow => some (.trap cSpill 2 noLane 0)
      | .serve g j =>
        let target := s.team.groupTarget g j
        match s.targetCheck target with
        | some x => some x
        | none => s.team.pushCheck false (s.team.serveBase g) 16 (fnSpill (s.fnWord target))
      | _ => none)
    (fun _ s => match s.team.retCase with
      | .simple va link top =>
        (s.onTeam fun t => { t with ctop := top, crec := linkOf link, depth := t.depth - 1 }).goto va
      | .serve g j =>
        let target := s.team.groupTarget g j
        let sp := fnSpill (s.fnWord target)
        (s.onTeam fun t =>
          (t.push (t.serveBase g) (recHead 3 target.toNat g.at_ j) sp).setM 16
            (maskOf ((lanesOf g.exec t.lanes).filter fun k => t.groupTarget g k == target))).goto target
      | .last g =>
        (s.onTeam fun t => { t.setM 16 g.exec with ctop := g.top, crec := linkOf g.link, depth := t.depth - 1 }).goto g.ret
      | .underflow => s
      | .bad => s.retAnywhere) s

/-! ### Ending and waiting -/

/-- `ENDT` (R102): a boundary of scope SYSTEM, then the team ends. -/
def execEndt (o : ROps) (s : State) : Out :=
  issueT (.endt o) (fun s => boundaryOk s 4) (fun _ s => (s.closePhase 4).endTeam) s

/-- `WAITC` (R103) holds the team's later words until every counter of the set is at or below the value of A at issue. -/
def execWaitc (o : ROps) (s : State) : Out :=
  issue (.waitc o) .scalar noCheck (fun s => let n := (s.sval o.a).toNat
    s.onTeam fun t => { t with wait := .counters o.d n }) s

end Sys2Proof.Machine
end

