-- ==== Sys2Proof/Machine/Replies.lean ====
section
/-!
DEFINITION. Replies of Ouvmon RPC: statuses (24 R373), and what the module keeps of each source address (R374).
-/
namespace Sys2Proof.Machine

/-! ### Statuses (R373) -/

def rOk : Nat := 0
def rShape : Nat := 1
def rNofit : Nat := 2
def rQfull : Nat := 3
def rUnmapped : Nat := 4
def rBadimage : Nat := 5
def rNospace : Nat := 6
def rUndef : Nat := 7
def rRelocRange : Nat := 8
def rBadreq : Nat := 9
def rDenied : Nat := 10
def rBusy : Nat := 11
def rMoved : Nat := 12
def rGangFail : Nat := 13
def rTimeout : Nat := 14

/-! ### Replies and their history (R374) -/

/-- FLAGS of the reply: REPLY, and CTX as in the request. -/
def replyFlags (q : Datagram) : Word := (q.flags &&& 0xE#32) ||| 1#32
/-- A reply leaves the module. -/
def State.send (s : State) (q : Datagram) (st : Nat) (payload : List Byte) : State :=
  { s with out := s.out ++ [.reply q.src q.method.toNat q.tenant.toNat q.reqid st (replyFlags q) payload] }

/-- The 4,096 replies of the highest REQIDs are kept, and the highest REQID executed. -/
def Source.keep (x : Source) (id st : Nat) (payload : List Byte) : Source :=
  let ks := addBy (·.1) (id, st, payload) x.kept
  { x with high := some (max id (x.high.getD 0)), kept := ks.drop (ks.length - 4096) }
/-- A request is being executed whose reply comes later. -/
def Source.start (x : Source) (id : Nat) : Source := { x with high := some (max id (x.high.getD 0)) }
def Tenant.onSource (t : Tenant) (a : Ip) (f : Source → Source) : Tenant :=
  { t with sources := t.sources.map fun x => if x.addr == a then f x else x }
def Tenant.source? (t : Tenant) (a : Ip) : Option Source := t.sources.find? fun x => x.addr == a
/-- The address is tracked from its first request on. -/
def Tenant.track (t : Tenant) (a : Ip) : Tenant :=
  if (t.source? a).isSome then t else { t with sources := t.sources ++ [{ addr := a, high := none, kept := [] }] }

/-- The reply of an executed request of the tenant in the focus. -/
def State.answer (s : State) (q : Datagram) (st : Nat) (payload : List Byte) : State :=
  (s.onTen fun t => t.onSource q.src fun x => x.keep q.reqid.toNat st payload).send q st payload

end Sys2Proof.Machine
end

