-- ==== Sys2Proof/Machine/Launches.lean ====
section
/-!
DEFINITION. Launch records and their submission (16 R282 to R284), consumer launches of bins (12 R264), shapes that can be placed (02
R19, 07 R151), what fits on a core (16 R289), wait and completion objects (16 R286).
-/
namespace Sys2Proof.Machine

/-! ### Records (R282) -/

/-- The fields of a record (R282); of a VA the low 56 bits. -/
def readLRec (bs : List Byte) : LRec :=
  let f (o n : Nat) : Nat := field bs o n
  { kind := f 7 1, entry := f 0 7, blocks := f 8 4, lanes := f 0x0C 2, teams := f 0x0E 1, coop := f 0x0F 1 / 128 == 1
    pri := f 0x0F 1 % 4, vb := f 0x10 2, ga := f 0x12 1, gx := f 0x13 1, lsb := f 0x14 4, okey := f 0x18 4, spb := f 0x1C 4
    arg := f 0x20 7, done := f 0x28 7, waitva := f 0x30 7, waitv := f 0x38 8 }

/-- The limits of R282 on the fields of a record. R282 asks bits [63:56] of DONE and WAITVA to be zero for kinds 0 to 2; in a record of kind 3
they lie outside every VA and are refused as reserved values are (00 R8; DEDUCED, log 75). -/
def recordOk (bs : List Byte) : Bool :=
  let r := readLRec bs
  let objects := r.done % 8 == 0 && r.waitva % 8 == 0 && field bs 0x2F 1 == 0 && field bs 0x37 1 == 0
  let world := r.blocks / 2 ^ 24 == 0 && decide (r.blocks % 256 < 16)
  if r.kind == 3 then
    r.entry == 0 && world && r.blocks / 256 == 0 && field bs 0x0C 12 == 0 && r.spb == 0 && field bs 0x20 8 == 0 && objects
  else
    decide (r.kind < 3) && r.entry % 4 == 0 && (r.kind != 1 || world) && decide (1 ≤ r.lanes) && decide (r.lanes ≤ 1024) &&
      decide (1 ≤ r.teams) && decide (r.teams ≤ 16) && field bs 0x0F 1 / 4 % 32 == 0 &&
      field bs 0x27 1 == 0 && objects

def LRec.queryId (r : LRec) : Nat := r.blocks / 256 % 65536
/-- The world of a query launch or a world sync. -/
def LRec.named (r : LRec) : Nat := r.blocks % 256

/-! ### Shapes (02 R19, 07 R151) -/

def LRec.spans (r : LRec) : Nat := (r.lanes + 31) / 32
/-- 4 KiB units of the local-store run. -/
def LRec.units (r : LRec) : Nat := (r.lsb + 4095) / 4096 + (r.teams * r.spb + 4095) / 4096
def LRec.budgets (r : LRec) : Bool :=
  decide (8 ≤ r.vb) && decide (r.vb ≤ 256) && r.vb % 8 == 0 && decide (r.spans * r.vb ≤ 1024) &&
    [0, 2, 4, 8].contains r.gx && decide (r.ga ≤ 8) && r.spb % 64 == 0

/-- The quarters of a block's teams on a core whose quarters have `used` = (span-registers, teams) taken: each team in turn goes to
the quarter with the most free span-registers that can hold it, the lowest on a tie (16 R289). -/
def assign (size : Nat) : Nat → List (Nat × Nat) → Option (List Nat)
  | 0, _ => some []
  | n + 1, used =>
    let ok := (List.range used.length).filter fun q =>
      let u := used.getD q (0, 0)
      decide (u.1 + size ≤ 1024) && decide (u.2 < 8)
    match ok.foldl (fun (best : Option Nat) q => match best with
        | none => some q
        | some b => if (used.getD q (0, 0)).1 < (used.getD b (0, 0)).1 then some q else some b) none with
    | none => none
    | some q =>
      (assign size n (used.set q ((used.getD q (0, 0)).1 + size, (used.getD q (0, 0)).2 + 1))).map fun r => q :: r

/-- Would one block fit on an empty core with `q` working quarters? -/
def LRec.fitsEmpty (r : LRec) (q : Nat) : Bool :=
  r.budgets && (assign (r.spans * r.vb) r.teams (List.replicate q (0, 0))).isSome && decide (r.teams * r.ga ≤ 8) &&
    decide (r.teams * r.gx ≤ 32) && decide (r.units ≤ 96)

def Tenant.shapeOk (t : Tenant) (r : LRec) : Bool := t.cores.any fun c => r.fitsEmpty c.quarters

/-- Blocks of a record that an empty core with `q` quarters holds, at most 16 (07 R169). -/
def LRec.copies (r : LRec) (q : Nat) : Nat :=
  ((List.range 17).filter fun n =>
    r.fitsEmpty q && (assign (r.spans * r.vb) (n * r.teams) (List.replicate q (0, 0))).isSome && decide (n * r.teams * r.ga ≤ 8) &&
      decide (n * r.teams * r.gx ≤ 32) && decide (n * r.units ≤ 96) && decide (n * r.teams * 4 ≤ 128)).foldl max 0
/-- Can all `n` blocks stand on the empty tenant at once (R283)? -/
def Tenant.coopFits (t : Tenant) (r : LRec) (n : Nat) : Bool := decide (n ≤ (t.cores.map fun c => r.copies c.quarters).foldl (· + ·) 0)

/-! ### Submission (R283, R284) -/

/-- The handler of the image that holds an entry (21 R336). -/
def Tenant.handlerOf (t : Tenant) (entry : Nat) : VA :=
  match t.images.find? fun im => im.secs.any fun p => decide (p.1 ≤ entry) && decide (entry < p.1 + p.2) with
  | some im => im.trap
  | none => 0

def Tenant.full (t : Tenant) : Bool := decide (4096 ≤ t.launches.length)

/-- The status of a record that is no bin unit's (R283), QFULL last. -/
def Tenant.recordStatus (t : Tenant) (bs : List Byte) : Nat :=
  let r := readLRec bs
  if !recordOk bs || r.kind == 2 then 1
  else if (r.kind == 1 || r.kind == 3) && (t.world? r.named).isNone then 1
  else if r.kind == 1 && !(t.queries.any fun q => q.world == r.named && q.id == r.queryId) then 1
  else if r.kind != 3 && !t.shapeOk r then 1
  else if r.kind == 0 && r.coop && !t.coopFits r r.blocks then 2
  else if t.full then 3 else 0

/-- A launch joins the queue of its context. -/
def Tenant.enqueue (t : Tenant) (r : LRec) (ctx : Nat) (gang : Option Gang) (recs : List (List Word)) (bin : Option (Nat × Nat)) :
    Tenant :=
  { t with
    launches := t.launches ++
      [{ id := t.nextLaunch, sub := t.nextSub, ctx := ctx, rc := r, st := .queued, nblk := 0, placed := 0, retired := 0
         handler := t.handlerOf r.entry, pins := [], gang := gang, recs := recs, bin := bin, rows := [], held := 0 }]
    nextLaunch := t.nextLaunch + 1, nextSub := t.nextSub + 1 }

/-- A submission: tenant, status, launch identifier (0 when refused). -/
def Tenant.submit (t : Tenant) (bs : List Byte) (ctx : Nat) (gang : Option Gang) : Tenant × Nat × Nat :=
  let st := t.recordStatus bs
  if st == 0 then (t.enqueue (readLRec bs) ctx gang [] none, 0, t.nextLaunch) else ({ t with nextSub := t.nextSub + 1 }, st, 0)

/-! ### Consumer launches (12 R264) -/

def ringKey (die bin : Nat) : Nat := 256 * die + bin
def Tenant.ring (t : Tenant) (die bin : Nat) : List (List Word × Option Nat) := look [] (ringKey die bin) t.rings
def Tenant.setRing (t : Tenant) (die bin : Nat) (r : List (List Word × Option Nat)) : Tenant :=
  { t with rings := put [] (ringKey die bin) r t.rings }
/-- Records that no submission, made or waiting, takes. -/
def Tenant.loose (t : Tenant) (die bin : Nat) : Nat :=
  ((t.ring die bin).filter fun x => x.2.isNone).length -
    ((t.binWait.filter fun w => w.1 == die && w.2.1 == bin).map fun w => w.2.2).foldl (· + ·) 0

/-- The record of a consumer launch of `n` records. -/
def BinDesc.record (b : BinDesc) (n : Nat) : LRec :=
  { kind := 2, entry := b.entry, blocks := 1, lanes := n, teams := 1, coop := false, pri := b.pri, vb := b.vb, ga := b.ga, gx := b.gx
    lsb := b.lsb, okey := 0xFFFFFFFF, spb := b.spb, arg := b.arg, done := b.done, waitva := 0, waitv := 0 }

/-- The oldest `n` free records are marked as taken by launch `id`. -/
def takeOldest (id : Nat) : Nat → List (List Word × Option Nat) → List (List Word × Option Nat)
  | _, [] => []
  | 0, r => r
  | n + 1, x :: r => if x.2.isNone then (x.1, some id) :: takeOldest id n r else x :: takeOldest id (n + 1) r

def Tenant.consume (t : Tenant) (die bin n : Nat) : Tenant :=
  match findBy (·.num) bin t.bins with
  | none => t
  | some b =>
    let ring := takeOldest t.nextLaunch n (t.ring die bin)
    let recs := (ring.filter fun x => x.2 == some t.nextLaunch).map (·.1)
    (t.setRing die bin ring).enqueue (b.record n) b.ctx none recs (some (bin, die))

/-- A submission of `n` records; when the tenant holds 4,096 launches, or earlier submissions wait, it waits too. -/
def Tenant.consumeOrWait (t : Tenant) (die bin n : Nat) : Tenant :=
  if n == 0 then t
  else if t.full || !t.binWait.isEmpty then { t with binWait := t.binWait ++ [(die, bin, n)] } else t.consume die bin n

/-- Threshold launches of the oldest THR records (13 R276); `fuel` at least the number of records. -/
def Tenant.thresholds (die bin thr : Nat) : Nat → Tenant → Tenant
  | 0, t => t
  | f + 1, t => if thr ≤ t.loose die bin then Tenant.thresholds die bin thr f (t.consumeOrWait die bin thr) else t

/-- Waiting submissions, as far as there is room. -/
def Tenant.serveWaiting : Nat → Tenant → Tenant
  | 0, t => t
  | f + 1, t =>
    match t.binWait with
    | [] => t
    | w :: r => if t.full then t else Tenant.serveWaiting f (Tenant.consume { t with binWait := r } w.1 w.2.1 w.2.2)

/-- A push record joins its ring (12 R263), then threshold launches are submitted. -/
def Tenant.push (t : Tenant) (die bin : Nat) (rs : List (List Word)) : Tenant :=
  match findBy (·.num) bin t.bins with
  | none => t
  | some b =>
    let t := t.setRing die bin (t.ring die bin ++ rs.map fun r => (r, none))
    t.thresholds die bin b.thr (t.loose die bin)
/-- A flush submits everything that remains. -/
def Tenant.flush (t : Tenant) (die bin : Nat) : Tenant := t.consumeOrWait die bin (t.loose die bin)

/-! ### Objects (R286) -/

/-- Position of a batch in the completion order, from 1; 0 for entry 0. -/
def Tenant.order (t : Tenant) (b : Nat) : Nat := if b == 0 then 0 else ((t.done.map (·.id)).findIdx fun x => x == b) + 1

/-- A byte as it stood at position `p` of the completion order. -/
def Tenant.byteAt (t : Tenant) (p a : Nat) : Byte :=
  (((t.main.entries [] a).find? fun e => decide (t.order e.2 ≤ p)).map (·.1)).getD 0

/-- The values that an 8-byte object has held (R285). -/
def Tenant.heldValues (t : Tenant) (a : Nat) : List Nat :=
  (distinct ((span a 8).flatMap fun x => (t.main.entries [] x).map fun e => t.order e.2)).map fun p =>
    leNat ((span a 8).map fun x => t.byteAt p x)

/-- What an object's page allows: unmapped (a REMOTE page counts so), to be brought, or usable. -/
inductive ObjPage where
  | unmapped
  | away (va : Nat)
  | here
  deriving DecidableEq, Repr

def Tenant.objPage (t : Tenant) (a : Nat) : ObjPage :=
  match t.pageAt a with
  | none => .unmapped
  | some p => if p.st == .remote then .unmapped else if p.st.resident then .here else .away p.va

/-! ### Release (R285, R287, 17 R303, R313) -/

/-- The gang block of a launch that leaves before the decision: the member still answers for the gang (24 R380, R381). -/
def Launch.undecided (l : Launch) : List (Nat × Gang) :=
  match l.gang with
  | some g => if g.decided.isNone then [(l.id, g)] else []
  | none => []
/-- A launch that is dropped before its release. -/
def Tenant.dropQueued (t : Tenant) (l : Launch) : Tenant :=
  { t with launches := removeBy (·.id) l.id t.launches, gangLeft := t.gangLeft ++ l.undecided }

def Tenant.query? (t : Tenant) (r : LRec) : Option Query := t.queries.find? fun q => q.world == r.named && q.id == r.queryId
/-- Read and write sets in the conflict check. -/
def Tenant.sets (t : Tenant) (r : LRec) : BitVec 256 × BitVec 256 :=
  if r.kind == 3 then (~~~0, ~~~0) else match t.query? r with | some q => (q.rd, q.wr) | none => (0, 0)
def Tenant.conflict (t : Tenant) (a b : LRec) : Bool :=
  let x := t.sets a
  let y := t.sets b
  x.2 &&& (y.1 ||| y.2) != 0 || y.2 &&& (x.1 ||| x.2) != 0
def worldly (r : LRec) : Bool := r.kind == 1 || r.kind == 3
/-- Earlier in the order of (OKEY, submission number). -/
def Launch.before (a b : Launch) : Bool := decide (a.rc.okey < b.rc.okey) || (a.rc.okey == b.rc.okey && decide (a.sub < b.sub))
/-- Does a launch of the same world hold `l`: an earlier one that conflicts, or a conflicting one that is released already? -/
def Tenant.holds (t : Tenant) (l : Launch) : Bool :=
  worldly l.rc && t.launches.any fun x =>
    x.id != l.id && worldly x.rc && x.rc.named == l.rc.named && t.conflict x.rc l.rc &&
      (x.before l || x.st == .released || x.st == .running)

/-- The driving column of a query launch: the required type with the fewest rows, the lowest on a tie. -/
def drivingColumn (q : Query) (p : Tick) : Nat :=
  let rows (k : Nat) : Nat := ((p.col k).map (·.rows)).foldl (· + ·) 0
  let ks := (List.range 256).filter fun k => q.req.getLsbD k
  ks.foldl (fun b k => if rows k < rows b then k else b) (ks.headD 0)

/-- The launch at its release: pinned ticks, block count, rows of its chunks. -/
def Tenant.releaseOf (t : Tenant) (l : Launch) : Launch :=
  let pins := t.worlds.map fun w => (w.num, w.p.num)
  let rows := if l.rc.kind == 1 then
    match t.query? l.rc, t.world? l.rc.named with
    | some q, some w => (w.p.col (drivingColumn q w.p)).map (·.rows)
    | _, _ => []
    else []
  { l with
    st := .released, pins := pins, rows := rows
    nblk := if l.rc.kind == 0 then l.rc.blocks else if l.rc.kind == 1 then rows.length else if l.rc.kind == 2 then 1 else 0 }

/-- The step from QUEUED, through HELD, to RELEASED. -/
def Tenant.tryRelease (t : Tenant) (l : Launch) : Tenant :=
  if t.holds l then t.onLaunch l.id fun l => { l with st := .held }
  else
    let r := t.releaseOf l
    if r.rc.kind == 1 && r.rc.coop && !t.coopFits r.rc r.nblk then t.dropQueued l
    else t.onLaunch l.id fun _ => r

/-- LAUNCH_RELEASE: the wait object is tested while the launch is QUEUED. -/
def execLaunchRelease (t l : Nat) (s : State) : Out :=
  .next (s.atTenant t fun s => s.onTen fun ten =>
    match ten.launch? l with
    | none => ten
    | some x =>
      match x.st with
      | .queued =>
        if x.rc.waitva == 0 then ten.tryRelease x
        else match ten.objPage x.rc.waitva with
          | .unmapped => { ten.dropQueued x with unmapped := ten.unmapped + 1 }
          | .away va => ten.request [va]
          | .here => if (ten.heldValues x.rc.waitva).any fun v => decide (x.rc.waitv ≤ v) then ten.tryRelease x else ten
      | .held => if ten.holds x then ten else ten.tryRelease x
      | _ => ten)

/-! ### What fits on a core (R289) -/

/-- Resident teams of a core; an ended team keeps its grants until its entries have gone. -/
def Tenant.teamsOn (t : Tenant) (c : Nat) : List Team := t.teams.filter fun x => x.core == c
def Tenant.blocksOn (t : Tenant) (c : Nat) : List Block := t.blocks.filter fun x => x.core == c
/-- Blocks that have not retired (05 R102); a retired one keeps only the run that its last entries use. -/
def Tenant.residents (t : Tenant) (c : Nat) : List Block := (t.blocksOn c).filter fun b => b.ended != b.teams
/-- Span-registers and teams in use, by quarter. -/
def Tenant.quarterUse (t : Tenant) (c : Core) : List (Nat × Nat) :=
  (List.range c.quarters).map fun q =>
    let ts := (t.teamsOn c.num).filter fun x => x.quarter == q
    ((ts.map fun x => x.spans * x.budget).foldl (· + ·) 0, ts.length)
/-- Places for a run of `n` units. -/
def Tenant.runs (t : Tenant) (c n : Nat) : List Nat :=
  (List.range (97 - n)).filter fun a => (t.blocksOn c).all fun b => decide (a + n ≤ b.run) || decide (b.run + b.runN ≤ a)
/-- Buffer-table entries that are neither bound nor reserved. -/
def Tenant.freeEntries (t : Tenant) (c : Core) : List Nat :=
  let held := (t.teamsOn c.num).flatMap (·.reserved)
  (List.range Config.bufEntries).filter fun n => (c.entry? n).isNone && !held.contains n

/-- Where a block with a run of `units` goes on a core: the quarters of its teams and the run's first unit; none when it does not fit. -/
def Tenant.fitWith (t : Tenant) (ctr : Nat) (r : LRec) (units : Nat) (c : Core) : Option (List Nat × Nat) :=
  let ts := t.teamsOn c.num
  let runs := t.runs c.num units
  if decide ((ts.map (·.ga)).foldl (· + ·) 0 + r.teams * r.ga ≤ 8) && decide ((ts.map (·.gx)).foldl (· + ·) 0 + r.teams * r.gx ≤ 32) &&
      decide (4 * r.teams ≤ (t.freeEntries c).length) && decide ((t.residents c.num).length < 16) && !runs.isEmpty then
    (assign (r.spans * r.vb) r.teams (t.quarterUse c)).map fun qs => (qs, pick 0 (Config.freeIx ctr 5000 c.num) runs)
  else none
def Tenant.fitOn (t : Tenant) (ctr : Nat) (r : LRec) (c : Core) : Option (List Nat × Nat) := t.fitWith ctr r r.units c

/-- The cores that may take a block of the launch: those whose pane its context has (21 R348), on the bin's die for a consumer. -/
def Tenant.mayRun (t : Tenant) (l : Launch) (c : Core) : Bool :=
  (match t.pane? c.pane with | some p => p.ctx == l.ctx | none => false) &&
    !((t.ctx? l.ctx).any fun x => x.leaving c.pane) &&
    (match l.bin with | some b => c.die == b.2 | none => true)
def Tenant.fitsSomewhere (t : Tenant) (l : Launch) : Bool := t.cores.any fun c => t.mayRun l c && (t.fitOn 0 l.rc c).isSome

/-! ### TLB sets of a new block (07 R169) -/

/-- Free sets of a core: those in no resident block's range. -/
def setFree (bs : List Block) (x : Nat) : Bool := bs.all fun b => decide (x < b.tlbBase) || decide (b.tlbBase + b.tlbN ≤ x)
/-- The largest free aligned range of at most `n` sets, the lowest on a tie, as (base, size). -/
def freeRange (bs : List Block) : Nat → Nat → Option (Nat × Nat)
  | 0, _ => none
  | f + 1, n =>
    match (List.range (32 / n)).find? fun k => (span (n * k) n).all (setFree bs) with
    | some k => some (n * k, n)
    | none => if n ≤ 2 then none else freeRange bs f (n / 2)
/-- 32 ÷ 2^⌈log2(b + 1)⌉. -/
def rangeLimit (b : Nat) : Nat := 32 / (if b == 0 then 1 else 2 ^ (b.log2 + 1))

/-- The range of a new block on core `c`, after the halving of a resident one where no free range of 2 is left. -/
def Tenant.tlbRange (t : Tenant) (c : Nat) : Tenant × Nat × Nat :=
  let bs := t.residents c
  if bs.isEmpty then (t, 0, 32)
  else
    let t := if (freeRange bs 5 2).isSome then t
      else match bs.foldl (fun (m : Option Block) b => match m with
          | none => some b
          | some x => if x.tlbN < b.tlbN || (x.tlbN == b.tlbN && decide (b.tlbBase < x.tlbBase)) then some b else some x) none with
        | none => t
        | some b =>
          let h := b.tlbN / 2
          (t.onBlock b.key fun x => { x with tlbN := h }).onCore c fun k => k.clearTlb (b.tlbBase + h) h
    match freeRange (t.residents c) 5 (rangeLimit bs.length) with
    | some r => (t, r)
    | none => (t, 0, 2)

/-! ### Placement (R288 to R290) -/

/-- The distributor's order: priority, bin consumers first, submission number. -/
def Launch.ahead (a b : Launch) : Bool :=
  if a.rc.pri != b.rc.pri then decide (b.rc.pri < a.rc.pri)
  else if (a.rc.kind == 2) != (b.rc.kind == 2) then a.rc.kind == 2 else decide (a.sub < b.sub)
/-- A launch with blocks still to be placed. -/
def Launch.waiting (l : Launch) : Bool := (l.st == .released || l.st == .running) && decide (l.placed < l.nblk)

/-- Bytes of the argument block as staging reads them: zero from unmapped pages (05 R87). -/
def Tenant.stage (t : Tenant) (ctr : Nat) (floor : List Nat) (arg : Nat) : List Host.Cell :=
  if arg == 0 then []
  else (List.range 4096).foldl (fun m i =>
    let a := (arg + i) % 2 ^ 56
    match t.objPage a with
    | .here => put 0 i (t.fetchByte ctr floor a) m
    | _ => m) []
/-- Pages that the staging of an argument block and the read of the entry's function word wait for (the latter by DESIGN CHOICE, log 89). -/
def Tenant.stagePages (t : Tenant) (r : LRec) : List Nat :=
  let as := (if r.arg == 0 then [] else [r.arg, r.arg + 4095].map (· % 2 ^ 56)) ++ codeBytes (BitVec.ofNat 56 r.entry - 4#56) 1
  distinct (as.filterMap fun a => match t.objPage a with | .away va => some va | _ => none)

/-- CTOP at launch: the frame of the entry's function word (05 R95), which is read in a page without X too (DESIGN CHOICE, log 89). -/
def Tenant.entryTop (t : Tenant) (ctr : Nat) (floor : List Nat) (entry : Nat) : Nat :=
  let as := codeBytes (BitVec.ofNat 56 entry - 4#56) 1
  if as.all fun a => t.objPage a == .here then
    let w := word (leNat (as.map (t.fetchByte ctr floor)))
    if w.extractLsb' 24 8 == 0xA5#8 then fnSpill w else 0
  else 0

/-- The buffer of a consumer block's records: the bytes from offset 0 on. -/
def recordBytes (rs : List (List Word)) : List Byte := rs.flatMap fun r => r.flatMap leWord

/-- One block of launch `l` placed on core `c` in the fit `f`: new teams, block, entries and window (R289, 02 R18, 05 R87, R95). -/
def State.placeBlock (s : State) (l : Launch) (c : Core) (f : List Nat × Nat) : State :=
  let ten := s.ten
  let r := l.rc
  let tlb := ten.tlbRange c.num
  let free := ten.freeEntries c
  let key := ten.nextBlk
  let bytes := recordBytes l.recs
  let blk : Block :=
    { key := key, launch := l.id, idx := l.placed, teams := r.teams, core := c.num, ctx := l.ctx, lsz := (r.lsb + 4095) / 4096 * 4096
      ls := Space.inits {} 0 bytes, tlbBase := tlb.2.1, tlbN := tlb.2.2, run := f.2, runN := r.units }
  let floorOf (k : Nat) : List Nat := ten.seenBy k c.num c.die
  let pane := (ten.pane? c.pane).getD { num := c.pane, bay := c.bay }
  let h0 := free.headD 0
  let teams : List Team := (List.range r.teams).map fun i =>
    let k := ten.nextTeam + i
    let top := ten.entryTop s.ctr (floorOf k) r.entry
    { key := k, launch := l.id, blk := key, idx := i, core := c.num, quarter := f.1.getD i 0, lanes := r.lanes, budget := r.vb
      gx := r.gx, ga := r.ga, z := r.spb, pc := BitVec.ofNat 56 r.entry, wait := .run, exec := belowMask r.lanes
      reserved := (free.drop (4 * i)).take 4, h := if bytes.isEmpty then [] else [(0, some h0)]
      ctop := top, ptop := top, dl := pane.words 0, floor := floorOf k }
  let ent : BufEntry :=
    { team := ten.nextTeam, blk := key, slot := 0, spad := false, base := 0, size := bytes.length, st := .full, sealed := true
      drain := false, cur := false, sealCur := false, freed := false, asked := false, evt := none, stamp := 0 }
  let c' := if bytes.isEmpty then c else c.setEntry h0 (some ent)
  let first := !(ten.blocksOn c.num).any fun b => b.launch == l.id
  let c' := if first then { c' with wins := c'.wins ++ [(l.id, ten.stage s.ctr (floorOf ten.nextTeam) r.arg)] } else c'
  -- the phase starts of the new teams
  let mark (t : Team) : Team := (State.mark { s with team := t, core := c', blk := blk }).team
  let ten := tlb.1
  let ten := match l.bin with
    | some b => ten.setRing b.2 b.1 ((ten.ring b.2 b.1).filter fun x => x.2 != some l.id)
    | none => ten
  let c'' := { c' with tlb := ((ten.core? c.num).map (·.tlb)).getD c'.tlb }
  { s with
    ten := { (ten.onCore c.num fun _ => c'').onLaunch l.id (fun x => { x with st := .running, placed := x.placed + 1 }) with
      blocks := ten.blocks ++ [blk], teams := ten.teams ++ teams.map mark
      nextBlk := key + 1, nextTeam := ten.nextTeam + r.teams } }

/-- A cooperative launch's blocks in one step, each on some core that can take it. -/
def State.placeAll (s : State) (l : Nat) : Nat → Option State
  | 0 => some s
  | n + 1 =>
    match s.ten.launch? l with
    | none => none
    | some x =>
      let fits := s.ten.cores.filterMap fun c => if s.ten.mayRun x c then (s.ten.fitOn (s.ctr + n) x.rc c).map fun f => (c, f) else none
      match fits with
      | [] => none
      | p :: ps =>
        let q := pick p (Config.freeIx s.ctr 5001 n) (p :: ps)
        (s.placeBlock x q.1 q.2).placeAll l n

/-- Do saved blocks of the launch's context come before its own (21 R351)? -/
def Tenant.backlog (t : Tenant) (l : Launch) : Bool := (t.ctx? l.ctx).any fun y => !y.saved.isEmpty

/-- May the distributor serve launch `l` now: no launch of the tenant ahead of it has a block that can be placed, and none ahead of equal
or higher priority is a cooperative launch that cannot be placed (R288, R290)? A block that fits but waits for pages holds back later launches
(DESIGN CHOICE, log 37). -/
def State.served (s : State) (l : Launch) : Bool :=
  s.ten.launches.all fun x =>
    !(x.waiting && x.ahead l && x.id != l.id) ||
      (if x.rc.coop then (s.ten.backlog x || (s.placeAll x.id (x.nblk - x.placed)).isNone) && decide (x.rc.pri < l.rc.pri)
       else s.ten.backlog x || !s.ten.fitsSomewhere x)

/-- A LAUNCH request of a gang member that is still open is answered (24 R381). -/
def State.closeLaunch (s : State) (l : Nat) (g : Gang) (commit : Bool) : State :=
  match g.q with
  | none => s
  | some q => if commit then s.answer q rOk (leBytes 4 l ++ leBytes 4 0) else s.answer q rGangFail []

/-- The gang block of launch `l`, which may have left; with the decision a launch that has left is forgotten. -/
def Tenant.setGang (t : Tenant) (l : Nat) (g : Gang) : Tenant :=
  { (t.onLaunch l fun x => { x with gang := some g }) with
    gangLeft := (changeBy (·.1) l (fun _ => (l, g)) t.gangLeft).filter fun x => x.2.decided.isNone }

/-- A member learns the decision. -/
def State.setDecision (s : State) (l : Nat) (g : Gang) (commit : Bool) : State :=
  (s.closeLaunch l g commit).onTen fun t => t.setGang l { g with decided := some commit, q := none }

/-- Rank 0 decides: the other members are told, the decision is kept (24 R380). -/
def State.decideGang (s : State) (l : Nat) (g : Gang) (commit : Bool) : State :=
  let s := s.setDecision l g commit
  { s with
    out := s.out ++ (g.addrs.drop 1).map fun a => .gangDecision a g.id commit
    ten := { s.ten with gangDec := s.ten.gangDec ++ [(g.id, commit, g.addrs)] } }

/-- Rank 0 holds the READY of one more member; with the last one it decides COMMIT. -/
def State.gotReady (s : State) (l : Nat) (g : Gang) (rank : Nat) : State :=
  let g := { g with got := addNew rank g.got }
  if (List.range g.nmem).all g.got.contains then s.decideGang l g true
  else s.onTen fun t => t.setGang l g

/-- The READY of a gang member whose first block has just been placed (24 R380); rank 0 notes its own. -/
def State.sendReady (s : State) (l : Launch) : State :=
  match l.gang with
  | some g =>
    if l.placed == 0 && !g.sent then
      let g := { g with sent := true }
      if g.rank == 0 then (if g.decided.isNone then s.gotReady l.id g 0 else s)
      else { s with
        out := s.out ++ [.gangReady (g.addrs.headD 0) g.id g.rank]
        ten := s.ten.onLaunch l.id fun x => { x with gang := some g } }
    else s
  | none => s

/-- BLOCK_PLACE: the next block of launch `l` on core `c`, or every block of a cooperative launch. Saved blocks of the context come
first (21 R351); the block is placed once the pages of its argument block and entry are there (DESIGN CHOICE, log 37). -/
def execBlockPlace (t l c : Nat) (s : State) : Out :=
  .next (s.atTenant t fun s =>
    match s.ten.launch? l, s.ten.core? c with
    | some x, some k =>
      if !x.waiting || !s.served x || s.ten.frozen || s.ten.mig.isSome || s.ten.backlog x then s
      else if !(s.ten.stagePages x.rc).isEmpty then s.onTen fun ten => ten.request (ten.stagePages x.rc)
      else if x.rc.coop then
        match s.placeAll l (x.nblk - x.placed) with
        | some s => s.sendReady x
        | none => s
      else if s.ten.mayRun x k then
        match s.ten.fitOn s.ctr x.rc k with
        | some f => (s.placeBlock x k f).sendReady x
        | none => s
      else s
    | _, _ => s)

/-! ### Retirement (R286) -/

/-- The draining tick ends when no launch is pinned to it (17 R310). -/
def Tenant.endDrains (t : Tenant) : Tenant :=
  { t with worlds := t.worlds.map fun w => match w.d with
    | some d => if t.launches.any (fun l => l.pins.any fun p => p.1 == w.num && p.2 == d.num) then w else { w with d := none }
    | none => w }

/-- The completion increment: an atomic add of 1 on the device's own account; in a world pool it breaks 17 R297. -/
def Tenant.increment (t : Tenant) (ctr a : Nat) : Tenant :=
  match t.objPage a with
  | .here => (t.deviceWrite [(a, leBytes 8 (leNat (t.main.gets a 8) + 1))]).poolHit ctr none (span a 8)
  | _ => { t with unmapped := t.unmapped + 1 }

/-- A launch leaves: its completion object is incremented, its pins go, waiting consumer submissions follow. -/
def Tenant.retire (t : Tenant) (ctr : Nat) (l : Launch) : Tenant :=
  let t := if l.rc.done == 0 then t else t.increment ctr l.rc.done
  let t := Tenant.endDrains { t with launches := removeBy (·.id) l.id t.launches }
  t.serveWaiting t.binWait.length

/-- Every block has retired, every batch of the launch has completed, no report of it waits (R286, 24 R375); a gang member's launch has
its COMMIT, an ABORT being no completion (24 R381). -/
def Tenant.retired (t : Tenant) (l : Launch) : Bool :=
  l.rc.kind != 3 && (l.st == .released || l.st == .running) && l.placed == l.nblk && l.retired == l.nblk && l.held == 0 &&
    !(t.queued.any fun b => b.launch == l.id) && l.gang.all fun g => g.decided == some true

def execLaunchRetire (t l : Nat) (s : State) : Out :=
  .next (s.atTenant t fun s => s.onTen fun ten =>
    match ten.launch? l with
    | none => ten
    | some x =>
      if !ten.retired x then ten
      else match (if x.rc.done == 0 then .here else ten.objPage x.rc.done) with
        | .away va => ten.request [va]
        | _ => ten.retire s.ctr x)

/-- BIN_AGE_EXPIRY: all free records of a bin below its threshold are submitted (12 R264). -/
def execBinAgeExpiry (t die bin : Nat) (s : State) : Out := .next (s.atTenant t fun s => s.onTen fun ten => ten.flush die bin)

end Sys2Proof.Machine
end

