-- ==== Sys2Proof/Machine/MemOps.lean ====
section
/-!
DEFINITION. What memory instructions share: widths (09 R186), the per-lane checks (02 R34, 07 R152, R154), page checks (21 R342, R344), local-store accesses (08 R179), sash limits (09 R205) and outstanding results (02 R24).
-/
namespace Sys2Proof.Machine

/-- The address of the instruction in issue. -/
def State.here (s : State) : VA := (s.team.cl.map Clause.va).getD 0

/-! ### Widths (R186) -/

def wBytes (code : Nat) : Nat :=
  match code with
  | 0 => 4
  | 1 => 8
  | 2 => 16
  | 3 => 1
  | 4 => 2
  | 5 => 1
  | _ => 2
def wRegs (code : Nat) : Nat :=
  match code with
  | 1 => 2
  | 2 => 4
  | _ => 1
/-- The registers `d` to `d + n − 1`. -/
def group (d : Byte) (n : Nat) : List Nat := span d.toNat n
/-- Loaded bytes as register words. -/
def extend (code : Nat) (bs : List Byte) : List Word :=
  if code == 5 then [(bs.headD 0).signExtend 32]
  else if code == 6 then [(BitVec.ofNat 16 (leNat bs)).signExtend 32]
  else if code == 3 || code == 4 then [word (leNat bs)]
  else toWords bs
/-- The bytes that a store of this width takes from lane `k`. -/
def State.laneBytes (s : State) (d : Byte) (code k : Nat) : List Byte :=
  ((group d (wRegs code)).flatMap fun r => leWord (s.vreg r k)).take (wBytes code)
/-- Register words written to one lane of consecutive registers. -/
def laneWrites (d : Byte) (k : Nat) (xs : List Word) : List RegWrite :=
  (List.range xs.length).map fun r => .v (d.toNat + r) k (xs.getD r 0)

/-! ### Checks -/

/-- Alignment before bounds; ELANE and EINFO name the lane and the offset (R34, R152, 21 R335). -/
def checkAt (w lim : Nat) (lane : Word) (o : Nat) : Option Stop :=
  if o % w != 0 then some (.trap cAlign 0 lane (word o))
  else if lim < o + w then some (.trap cLsbounds 0 lane (word o)) else none
/-- The lowest failing lane of (lane, offset) pairs decides. -/
def checkLanes (w lim : Nat) (xs : List (Nat × Nat)) : Option Stop := xs.findSome? fun p => checkAt w lim (word p.1) p.2
/-- Alignment of main-memory addresses. -/
def alignLanes (w : Nat) (xs : List (Nat × Nat)) : Option Stop :=
  xs.findSome? fun p => if p.2 % w != 0 then some (.trap cAlign 0 (word p.1) (word p.2)) else none

/-- The tenant's scratchpad on the team's die: 16 MiB for each of its panes there (R154). -/
def State.spLimit (s : State) : Nat :=
  (s.ten.panes.filter fun p => p.bay / 8 == s.core.die).length * Config.scratchBytes

/-- How an access uses pages: the permissions that it needs, whether it may use REMOTE pages (21 R344, 24 R378). -/
structure Use where
  r : Bool
  w : Bool
  remote : Bool

/-- Why an access to `a` ends the team: unmapped (0) or denied (1), with the page (R344, 24 R378, R379). -/
def Tenant.deny (t : Tenant) (u : Use) (a : Nat) : Option (Nat × Nat) :=
  match t.pageAt a with
  | none => some (0, pageVA a)
  | some p =>
    if p.st == .remote && (!u.remote || (findBy (·.idx) p.peer t.peers).any (·.failed)) then some (0, p.va)
    else if (u.r && !p.r) || (u.w && !p.w) then some (1, p.va) else none

def Page.absent (p : Page) : Bool := p.st == .tier || p.st == .stored

/-- The translation of an instruction's addresses at issue: ACCESS for any of them comes before the fault that asks for all of its
pages (R344, R347). -/
def State.pageStop (s : State) (u : Use) (as : List Nat) : Option Stop :=
  match as.findSome? (s.ten.deny u) with
  | some (sub, va) => some (.access cAccess sub va as)
  | none => if (s.ten.pagesOf as).any Page.absent then some (.fault (s.ten.pageVAs as)) else none

/-- Records and scratchpad bytes of the open phase (R205). -/
def Rec.counted : Rec → Bool
  | .store _ _ => false
  | .atomSp _ _ _ _ _ => false
  | _ => true
def Rec.spBytes : Rec → Nat
  | .store _ ws => (ws.map fun w => w.2.length).foldl (· + ·) 0
  | .atomSp _ _ ty xs _ => atomBytes ty * xs.length
  | _ => 0
def Team.recCount (t : Team) : Nat := (t.batch.filter Rec.counted).length
def Team.spBytes (t : Team) : Nat := (t.batch.map Rec.spBytes).foldl (· + ·) 0
/-- WRBUF for the 257th record; nothing is counted when nothing is recorded. -/
def roomRec (s : State) (some_ : Bool) : Option Stop :=
  if some_ && decide (256 ≤ s.team.recCount) then some (.ending cWrbuf 0 0) else none
/-- WRBUF for scratchpad data above 8 KiB. -/
def roomSp (s : State) (n : Nat) : Option Stop := if 8192 < s.team.spBytes + n then some (.ending cWrbuf 1 0) else none

def State.addRec (s : State) (r : Rec) : State := s.onTeam fun t => { t with batch := t.batch ++ [r] }

/-! ### Outstanding results (02 R24) -/

def Team.bump (t : Team) (k : CtrKind) (f : Nat → Nat) : Team :=
  match k with
  | .lc => { t with lc := f t.lc }
  | .ac => { t with ac := f t.ac }
  | .mc => { t with mc := f t.mc }
  | .xc => { t with xc := f t.xc }
  | .tc => { t with tc := f t.tc }

/-- A result becomes outstanding: its counter rises. -/
def State.await (s : State) (p : Pend) : State := s.onTeam fun t => { t.bump p.kind (· + 1) with pend := t.pend ++ [p] }

/-- The outstanding result at position `i` is written and its counter falls. -/
def State.settlePend (s : State) (i : Nat) (p : Pend) (ws : List RegWrite) : State :=
  (s.onTeam fun t => { t.bump p.kind (· - 1) with pend := t.pend.eraseIdx i }).apply ws

/-! ### Local store (08 R178, R179) -/

def State.lsByte (s : State) (x : Nat) : Byte :=
  if s.lsOpen x then BitVec.ofNat 8 (Config.freeIx s.ctr 1000 x) else s.blk.ls.get x
def State.lsBytes (s : State) (a n : Nat) : List Byte := (span a n).map s.lsByte

/-- A sector's byte at buffer offset `off` does not land: what a store and a copy both write stays undefined (07 R159). -/
def Sector.without (core entry off : Nat) (x : Sector) : Sector :=
  if x.core == core && x.entry == entry then { x with skip := addNew off x.skip } else x

/-- A store into byte `x` of a FILLING buffer, of the block's local store or of a scratchpad, is noted there (07 R159). -/
def BufEntry.noteStore (blk : Nat) (spad : Bool) (x : Nat) (e : BufEntry) : BufEntry :=
  if e.st == .filling && e.spad == spad && (spad || e.blk == blk) && decide (e.base ≤ x) && decide (x < e.base + e.size) then
    { e with stored := addNew (x - e.base) e.stored }
  else e
def Core.noteStore (c : Core) (blk : Nat) (spad : Bool) (x : Nat) : Core :=
  if c.bt.isEmpty then c else { c with bt := c.bt.map fun p => (p.1, p.2.map (BufEntry.noteStore blk spad x)) }
/-- The sectors in flight whose buffers a store into byte `x` has hit. -/
def Core.missed (c : Core) (blk : Nat) (spad : Bool) (x : Nat) (l : List Sector) : List Sector :=
  c.bt.foldl (fun l p => match p.2 with
    | some e => if e.st == .filling && e.spad == spad && (spad || e.blk == blk) && decide (e.base ≤ x) then
        l.map (Sector.without c.num p.1 (x - e.base)) else l
    | none => l) l

/-- One byte stored in the block's local store; in a FILLING buffer that a copy also writes it leaves a free value (07 R159). -/
def State.lsPut (s : State) (x : Nat) (v : Byte) : State :=
  { s with
    blk := { s.blk with ls := s.blk.ls.write s.blk.stamp x (if s.lsOpen x then BitVec.ofNat 8 (Config.freeIx s.ctr 1001 x) else v) }
    core := s.core.noteStore s.blk.key false x
    ten := { s.ten with sectors := s.core.missed s.blk.key false x s.ten.sectors } }

/-- Byte `x` of the block's local store, or of the die's scratchpad, takes a free value; its history goes on. -/
def State.spoilByte (s : State) (spad : Bool) (x : Nat) : State :=
  let v : Byte := BitVec.ofNat 8 (Config.freeIx s.ctr 1007 x)
  if spad then
    let m := s.ten.space (1 + s.core.die)
    { s with ten := s.ten.setSpace (1 + s.core.die) { m with cells := put 0 x v m.cells } }
  else { s with blk := { s.blk with ls := { s.blk.ls with cells := put 0 x v s.blk.ls.cells } } }

def State.lsPuts (s : State) : Nat → List Byte → State
  | _, [] => s
  | a, v :: r => (s.lsPut a v).lsPuts (a + 1) r

/-- A local-store store of an instruction, its (offset, bytes) pairs in turn; each store has a stamp of its own (R184). -/
def State.lsStore (s : State) (ws : List (Nat × List Byte)) : State :=
  ws.foldl (fun s w => s.lsPuts w.1 w.2) { s with blk := { s.blk with stamp := s.blk.stamp + 1 } }

/-- A store into bytes of a DRAINING buffer of the block stalls (07 R159). -/
def State.clash (s : State) (xs : List (Nat × Nat)) (w : Nat) : Option Stop :=
  if s.core.bt.any fun p => match p.2 with
      | some e => !e.spad && e.blk == s.blk.key && e.st == .draining &&
          xs.any fun x => decide (e.base < x.2 + w) && decide (x.2 < e.base + e.size)
      | none => false
  then some .stall else none

end Sys2Proof.Machine
end

