-- ==== Sys2Proof/Machine/FloatFns.lean ====
section
/-!
DEFINITION. The correctly rounded functions of 04 R70. Roots and reciprocals are exact: a quotient or root with more bits than any
rounding needs, its lowest bit standing for all that follows. 2^x, log2, sin(πx) and cos(πx) of an FP32 value are computed in fixed
point with 512 fraction bits and then rounded once; their exact cases are treated apart.
-/
namespace Sys2Proof.Machine

/-- ⌊√n⌋, bit by bit from bit `k` down. -/
def isqrtFrom (n : Nat) : Nat → Nat → Nat
  | 0, r => r
  | k + 1, r => let c := r + 2 ^ k
    isqrtFrom n k (if c * c ≤ n then c else r)
def isqrt (n : Nat) : Nat := isqrtFrom n (n.log2 / 2 + 1) 0

/-- √x for x ≥ 0 (R70). -/
def Fv.sqrt : Fv → Fv
  | .nan => .nan
  | .inf n => if n then .nan else .inf false
  | .fin n m e =>
    if m == 0 then .fin n 0 0
    else if n then .nan
    else
      let odd := e % 2 != 0
      let m := if odd then 2 * m else m
      let e := if odd then e - 1 else e
      let big := m * 2 ^ 160
      let r := isqrt big
      .fin false (2 * r + (if r * r == big then 0 else 1)) (e / 2 - 80 - 1)

/-- 1 ÷ x (R70). -/
def Fv.rcp (x : Fv) : Fv := Fv.div (.fin false 1 0) x

/-- 1 ÷ √x (R70). -/
def Fv.rsq : Fv → Fv
  | .nan => .nan
  | .inf n => if n then .nan else .fin false 0 0
  | .fin n m e =>
    if m == 0 then .inf n
    else if n then .nan
    else
      let odd := e % 2 != 0
      let m := if odd then 2 * m else m
      let e := if odd then e - 1 else e
      let big := 2 ^ (2 * (80 + m.log2)) / m
      let r := isqrt big
      .fin false (2 * r + (if r * r * m == 2 ^ (2 * (80 + m.log2)) then 0 else 1)) (-(e / 2) - (80 + (m.log2 : Int)) - 1)

/-- ⌊π × 2^512⌋ and ⌊ln 2 × 2^512⌋. -/
def piFix : Nat := 0x3243f6a8885a308d313198a2e03707344a4093822299f31d0082efa98ec4e6c89452821e638d01377be5466cf34e90c6cc0ac29b7c97c50dd3f84d5b5b5470917
def ln2Fix : Nat := 0xb17217f7d1cf79abc9e3b39803f2f6af40f343267298b62d8a0d175b8baafa2be7b876206debac98559552fb4afa1b10ed2eae35c138214427573b291169b825

/-- Σ y^k ÷ k! in fixed point: `t` is the term of number `k`. -/
def expSeries (y : Nat) : Nat → Nat → Nat → Nat
  | 0, _, _ => 0
  | f + 1, k, t => t + expSeries y f (k + 1) (t * y / 2 ^ 512 / (k + 1))

/-- The alternating series with terms y^k ÷ k!, every second k, as (sum of positive terms, sum of negative terms). -/
def trigSeries (y2 : Nat) : Nat → Nat → Nat → Bool → Nat × Nat
  | 0, _, _, _ => (0, 0)
  | f + 1, k, t, pos =>
    let r := trigSeries y2 f (k + 2) (t * y2 / 2 ^ 512 / ((k + 1) * (k + 2))) (!pos)
    if pos then (r.1 + t, r.2) else (r.1, r.2 + t)

/-- sin(π r) and cos(π r) for 0 ≤ r ≤ 1/4, r in units of 2^−512. -/
def sinFix (r : Nat) : Nat :=
  let y := piFix * r / 2 ^ 512
  let s := trigSeries (y * y / 2 ^ 512) 60 1 y true
  s.1 - s.2
def cosFix (r : Nat) : Nat :=
  let y := piFix * r / 2 ^ 512
  let s := trigSeries (y * y / 2 ^ 512) 60 0 (2 ^ 512) true
  s.1 - s.2

/-- An inexact value: fixed point with 512 fraction bits, a lowest bit for what follows. -/
def inexact (neg : Bool) (x : Nat) : Fv := .fin neg (2 * x + 1) (-513)

/-- 2^x (R70): x is n + f with 0 ≤ f < 1, f exact below 2^−173. -/
def Fv.exp2 : Fv → Fv
  | .nan => .nan
  | .inf n => if n then .fin false 0 0 else .inf false
  | .fin n m e =>
    if m == 0 then .fin false 1 0
    else if 9 ≤ (m.log2 : Int) + e then (if n then .fin false 1 (-1000) else .fin false 1 1000)
    else
      let x : Int := (if n then -1 else 1) * ((m * 2 ^ (e + 512).toNat : Nat) : Int)
      let i := x / 2 ^ 512
      let f := (x % 2 ^ 512).toNat
      if f == 0 then .fin false 1 i
      else match inexact false (expSeries (f * ln2Fix / 2 ^ 512) 100 0 (2 ^ 512)) with
        | .fin s k g => .fin s k (g + i)
        | v => v

/-- `n` further bits of log2 y, 1 ≤ y < 2, y with 512 fraction bits. -/
def log2Bits : Nat → Nat → Nat → Nat
  | 0, _, acc => acc
  | n + 1, y, acc =>
    let z := y * y / 2 ^ 512
    if 2 ^ 513 ≤ z then log2Bits n (z / 2) (2 * acc + 1) else log2Bits n z (2 * acc)

/-- log2 x (R70). -/
def Fv.log2 : Fv → Fv
  | .nan => .nan
  | .inf n => if n then .nan else .inf false
  | .fin n m e =>
    if m == 0 then .inf true
    else if n then .nan
    else
      let k : Int := (m.log2 : Int) + e
      if m == 2 ^ m.log2 then .fin (decide (k < 0)) k.natAbs 0
      else
        let fl : Int := k * 2 ^ 140 + (log2Bits 140 (m * 2 ^ (512 - m.log2)) 0 : Nat)
        if fl < 0 then .fin true (2 * (fl.natAbs - 1) + 1) (-141) else .fin false (2 * fl.natAbs + 1) (-141)

/-- |x| mod 2 in units of 2^−512, for x of magnitude below 2^23; also whether the magnitude is that of an integer. -/
def mod2Fix (m : Nat) (e : Int) : Nat := m * 2 ^ (e + 512).toNat % 2 ^ 513

/-- sin(π r) for 0 ≤ r ≤ 1/2. -/
def sinHalf (r : Nat) : Nat := if r ≤ 2 ^ 510 then sinFix r else cosFix (2 ^ 511 - r)

/-- sin(πx) (R70). -/
def Fv.sinpi : Fv → Fv
  | .nan => .nan
  | .inf _ => .nan
  | .fin n m e =>
    if m == 0 || 0 ≤ e then .fin n 0 0
    else
      let r := mod2Fix m e
      let neg := decide (2 ^ 512 ≤ r)
      let h := r % 2 ^ 512
      if h == 0 then .fin n 0 0
      else if h == 2 ^ 511 then .fin (n != neg) 1 0
      else inexact (n != neg) (sinHalf (if h ≤ 2 ^ 511 then h else 2 ^ 512 - h))

/-- cos(πx) (R70). -/
def Fv.cospi : Fv → Fv
  | .nan => .nan
  | .inf _ => .nan
  | .fin _ m e =>
    if m == 0 then .fin false 1 0
    else
      let r := if 1 ≤ e then 0 else mod2Fix m e
      let h := r % 2 ^ 512
      let neg := decide (2 ^ 512 ≤ r)
      if h == 0 then .fin neg 1 0
      else if h == 2 ^ 511 then .fin false 0 0
      else if h ≤ 2 ^ 511 then inexact neg (sinHalf (2 ^ 511 - h)) else inexact (!neg) (sinHalf (h - 2 ^ 511))

end Sys2Proof.Machine
end

