-- ==== Sys2Proof/Machine/VectorFloat.lean ====
section
/-!
DEFINITION. Floating-point vector instructions (06 R115 to R126).
-/
namespace Sys2Proof.Machine

/-! ### Shared forms -/

/-- The rounding context of an RM field, DYN read at issue (04 R68, R69). -/
def State.rctx (s : State) (rm : BitVec 3) : RCtx :=
  { mode := if rm == 5 then s.team.rm.toNat else rm.toNat, seed := s.team.seed, pos := s.team.spos }

/-- An instruction whose mode is SR moves the stream position on, even when EXEC is empty (04 R69). -/
def State.drawn (s : State) (rm : BitVec 3) : State :=
  if (s.rctx rm).mode == 4 then s.onTeam fun t => { t with spos := t.spos + 1 } else s

/-- A per-lane destination: every acting lane of swept spans, all reads before the writes, flags from Active() (R115). -/
def State.perLane (s : State) (d : Byte) (f : Nat → Word × Word) : State :=
  let xs := s.acting.map fun k => (k, f k)
  (s.setLanes d.toNat (xs.map fun x => (x.1, x.2.1))).flag (flagsOf s.active xs)

/-- A mask destination: the result in Active(), 0 elsewhere (R115). -/
def State.maskResult (s : State) (d : Byte) (p : Nat → Bool) : State := s.setM d.toNat (maskOf (s.active.filter p))

/-- ABSA and NA on the sign bits `m` of A; NB, NC on those of B and C (R116). -/
def signA (o : XOps) (m x : Word) : Word :=
  let x := if o.absa then x &&& ~~~m else x
  if o.na then x ^^^ m else x
def signB (o : XOps) (m x : Word) : Word := if o.nb then x ^^^ m else x
def signC (o : XOps) (m x : Word) : Word := if o.nc then x ^^^ m else x
/-- Sign bits of one FP32 value, of two 16-bit and of four 8-bit elements. -/
def sg32 : Word := 0x80000000#32
def sg16 : Word := 0x80008000#32
def sg8 : Word := 0x80808080#32

def State.opA (s : State) (o : XOps) (m : Word) (k : Nat) : Word := signA o m (s.vreg o.a.toNat k)
def State.opB (s : State) (o : XOps) (m : Word) (k : Nat) : Word := signB o m (s.vreg o.b.toNat k)
def State.opC (s : State) (o : XOps) (m : Word) (k : Nat) : Word := signC o m (s.vreg o.c.toNat k)
/-- A scalar source in the place of B (R118). -/
def State.opS (s : State) (o : XOps) (m : Word) : Word := signB o m (s.sval o.b)

/-- An exact result rounded once to FP32, with SAT and INVALID (R118). -/
def finish (o : XOps) (c : RCtx) (k : Nat) (ops : List Fv) (x : Fv) : Word × Word := sat32 o.sat (c.r32 k 0 x) (invalidOf ops x)

/-- A per-lane instruction with a rounding field. -/
def floatOp (i : Instr) (o : XOps) (vs : List Byte) (f : State → RCtx → Nat → Word × Word) (s : State) : Out :=
  issue i .vector (vecs vs) (fun s => (s.perLane o.d (f s (s.rctx o.rm))).drawn o.rm) s

/-! ### FP32 arithmetic (R118 to R120) -/

def rdnOf (c : RCtx) : Bool := c.mode == 2
def addF (o : XOps) (c : RCtx) (k : Nat) (x y : Fv) : Word × Word := finish o c k [x, y] (fsum (rdnOf c) [x, y])
def mulF (o : XOps) (c : RCtx) (k : Nat) (x y : Fv) : Word × Word := finish o c k [x, y] (x.mul y)
def fmaF (o : XOps) (c : RCtx) (k : Nat) (x y z : Fv) : Word × Word := finish o c k [x, y, z] (fsum (rdnOf c) [x.mul y, z])

def execVfadd (o : XOps) (s : State) : Out :=
  floatOp (.vfadd o) o [o.d, o.a, o.b] (fun s c k => addF o c k (f32 (s.opA o sg32 k)) (f32 (s.opB o sg32 k))) s
def execVfsub (o : XOps) (s : State) : Out :=
  floatOp (.vfsub o) o [o.d, o.a, o.b] (fun s c k => addF o c k (f32 (s.opA o sg32 k)) (f32 (s.opB o sg32 k)).negate) s
def execVfmul (o : XOps) (s : State) : Out :=
  floatOp (.vfmul o) o [o.d, o.a, o.b] (fun s c k => mulF o c k (f32 (s.opA o sg32 k)) (f32 (s.opB o sg32 k))) s
def execVfma (o : XOps) (s : State) : Out :=
  floatOp (.vfma o) o [o.d, o.a, o.b, o.c] (fun s c k =>
    fmaF o c k (f32 (s.opA o sg32 k)) (f32 (s.opB o sg32 k)) (f32 (s.opC o sg32 k))) s
def execVfmin (o : XOps) (s : State) : Out :=
  floatOp (.vfmin o) o [o.d, o.a, o.b] (fun s _ k => plain (minNum (s.opA o sg32 k) (s.opB o sg32 k))) s
def execVfmax (o : XOps) (s : State) : Out :=
  floatOp (.vfmax o) o [o.d, o.a, o.b] (fun s _ k => plain (maxNum (s.opA o sg32 k) (s.opB o sg32 k))) s
def execVfadds (o : XOps) (s : State) : Out :=
  floatOp (.vfadds o) o [o.d, o.a] (fun s c k => addF o c k (f32 (s.opA o sg32 k)) (f32 (s.opS o sg32))) s
def execVfmuls (o : XOps) (s : State) : Out :=
  floatOp (.vfmuls o) o [o.d, o.a] (fun s c k => mulF o c k (f32 (s.opA o sg32 k)) (f32 (s.opS o sg32))) s
def execVfmas (o : XOps) (s : State) : Out :=
  floatOp (.vfmas o) o [o.d, o.a, o.c] (fun s c k =>
    fmaF o c k (f32 (s.opA o sg32 k)) (f32 (s.opS o sg32)) (f32 (s.opC o sg32 k))) s
def execVfdiv (o : XOps) (s : State) : Out :=
  floatOp (.vfdiv o) o [o.d, o.a, o.b] (fun s c k =>
    let x := f32 (s.opA o sg32 k)
    let y := f32 (s.opB o sg32 k)
    finish o c k [x, y] (x.div y)) s
/-- x × 2^y with y a signed integer. -/
def Fv.ldexp (x : Fv) (y : Int) : Fv :=
  match x with
  | .fin n m e => .fin n m (e + y)
  | v => v
def execVfldexp (o : XOps) (s : State) : Out :=
  floatOp (.vfldexp o) o [o.d, o.a, o.b] (fun s c k =>
    let x := f32 (s.opA o sg32 k)
    finish o c k [x] (x.ldexp (s.vreg o.b.toNat k).toInt)) s

/-- One of the functions of 04 R70 (R119). -/
def funOp (i : Instr) (o : XOps) (f : Fv → Fv) (s : State) : Out :=
  floatOp i o [o.d, o.a] (fun s c k => let x := f32 (s.opA o sg32 k); finish o c k [x] (f x)) s

def execVfsqrt (o : XOps) (s : State) : Out := funOp (.vfsqrt o) o Fv.sqrt s
def execVfrcp (o : XOps) (s : State) : Out := funOp (.vfrcp o) o Fv.rcp s
def execVfrsq (o : XOps) (s : State) : Out := funOp (.vfrsq o) o Fv.rsq s
def execVfexp2 (o : XOps) (s : State) : Out := funOp (.vfexp2 o) o Fv.exp2 s
def execVflog2 (o : XOps) (s : State) : Out := funOp (.vflog2 o) o Fv.log2 s
def execVfsinpi (o : XOps) (s : State) : Out := funOp (.vfsinpi o) o Fv.sinpi s
def execVfcospi (o : XOps) (s : State) : Out := funOp (.vfcospi o) o Fv.cospi s

/-- An FP32 pattern rounded to an integral value in the mode; every result keeps the sign (R120). -/
def roundIntegral (c : RCtx) (k : Nat) (x : Word) : Word :=
  match f32 x with
  | .nan => qnan32
  | .inf _ => x
  | .fin n m e =>
    if m == 0 || 0 ≤ e || 23 ≤ (m.log2 : Int) + e then x
    else word (fF32.pack 0 0 .arith n (roundInt c.mode (c.draw k 0) n m e).natAbs 0).1
def execVfrnd (o : XOps) (s : State) : Out :=
  floatOp (.vfrnd o) o [o.d, o.a] (fun s c k => plain (roundIntegral c k (s.opA o sg32 k))) s

/-! ### Comparisons, classes, selection (R121 to R123) -/

/-- EQ, NE, LT, LE, GT, GE, UN, OR (R121). -/
def relF (fn : Nat) (x y : Fv) : Bool :=
  if x.isNan || y.isNan then fn == 1 || fn == 6
  else
    let d := x.cmp y
    match fn with
    | 0 => d == 0
    | 1 => d != 0
    | 2 => decide (d < 0)
    | 3 => decide (d ≤ 0)
    | 4 => decide (0 < d)
    | 5 => decide (0 ≤ d)
    | 6 => false
    | _ => true
def execVfcmp (o : XOps) (s : State) : Out :=
  issue (.vfcmp o) .vector (vecs [o.a, o.b]) (fun s =>
    s.maskResult o.d fun k => relF o.fn.toNat (f32 (s.opA o sg32 k)) (f32 (s.opB o sg32 k))) s

/-- The class of an FP32 pattern, as the number of its set bit (R122). -/
def classOf32 (x : Word) : Nat :=
  match f32 x with
  | .nan => 8
  | .inf n => if n then 0 else 7
  | .fin n m _ =>
    if m == 0 then (if n then 3 else 4)
    else if m < 2 ^ 23 then (if n then 2 else 5) else (if n then 1 else 6)
def execVfclass (o : XOps) (s : State) : Out :=
  issue (.vfclass o) .vector (vecs [o.a]) (fun s =>
    s.maskResult o.d fun k => (o.lo8.toNat + 256 * o.c.toNat).testBit (classOf32 (s.opA o sg32 k))) s

def execVsel (o : XOps) (s : State) : Out :=
  issue (.vsel o) .vector (vecs [o.d, o.a, o.b]) (fun s =>
    let m := s.mval o.lo8
    s.perLane o.d fun k => plain (if m.getLsbD k then s.opA o sg32 k else s.opB o sg32 k)) s

/-! ### Packed arithmetic (R124 to R126) -/

/-- Element `e` of a packed 16-bit operand in the format that MOD[7:0] names. -/
def elem16 (o : XOps) (e : Nat) (x : Word) : Fv := (fmtOfCode o.lo8.toNat).unpack (elemAt 16 e x)

/-- One rounding to a packed format, overflow by 04 R68, then SAT. -/
def packed16 (o : XOps) (c : RCtx) (k e : Nat) (ops : List Fv) (x : Fv) : Nat × Word :=
  let f := fmtOfCode o.lo8.toNat
  let r := (f.round c.mode (c.draw k e) x).1
  match o.sat, f.unpack r with
  | true, .inf n => (f.maxPat n, invalidOf ops x ||| stOverflow)
  | _, _ => (r, invalidOf ops x)

/-- Both elements of a lane. -/
def both (f : Nat → Nat × Word) : Word × Word :=
  let lo := f 0
  let hi := f 1
  (word (lo.1 + 65536 * hi.1), lo.2 ||| hi.2)

def execVhadd (o : XOps) (s : State) : Out :=
  floatOp (.vhadd o) o [o.d, o.a, o.b] (fun s c k => both fun e =>
    let x := elem16 o e (s.opA o sg16 k)
    let y := elem16 o e (s.opB o sg16 k)
    packed16 o c k e [x, y] (fsum (rdnOf c) [x, y])) s
def execVhmul (o : XOps) (s : State) : Out :=
  floatOp (.vhmul o) o [o.d, o.a, o.b] (fun s c k => both fun e =>
    let x := elem16 o e (s.opA o sg16 k)
    let y := elem16 o e (s.opB o sg16 k)
    packed16 o c k e [x, y] (x.mul y)) s
def execVhfma (o : XOps) (s : State) : Out :=
  floatOp (.vhfma o) o [o.d, o.a, o.b, o.c] (fun s c k => both fun e =>
    let x := elem16 o e (s.opA o sg16 k)
    let y := elem16 o e (s.opB o sg16 k)
    let z := elem16 o e (s.opC o sg16 k)
    packed16 o c k e [x, y, z] (fsum (rdnOf c) [x.mul y, z])) s

/-- A dot product of elements with an FP32 addend, rounded once (R125, R126). A product of zero and an infinity sets no INVALID where another
operand of the lane is NaN (R65; DESIGN CHOICE, log 88). -/
def dotF (o : XOps) (c : RCtx) (k : Nat) (xs ys : List Fv) (z : Fv) : Word × Word :=
  finish o c k (xs ++ ys ++ [z]) (fsum (rdnOf c) (List.zipWith Fv.mul xs ys ++ [z]))

def execVhdot2 (o : XOps) (s : State) : Out :=
  floatOp (.vhdot2 o) o [o.d, o.a, o.b, o.c] (fun s c k =>
    dotF o c k ([0, 1].map fun e => elem16 o e (s.opA o sg16 k)) ([0, 1].map fun e => elem16 o e (s.opB o sg16 k))
      (f32 (s.opC o sg32 k))) s
def execVfdot4 (o : XOps) (s : State) : Out :=
  floatOp (.vfdot4 o) o [o.d, o.a, o.b, o.c] (fun s c k =>
    dotF o c k ((List.range 4).map fun j => (fmtOfCode o.loNib.toNat).unpack (elemAt 8 j (s.opA o sg8 k)))
      ((List.range 4).map fun j => (fmtOfCode o.hiNib.toNat).unpack (elemAt 8 j (s.opB o sg8 k))) (f32 (s.opC o sg32 k))) s

end Sys2Proof.Machine
end

