-- ==== Sys2Proof/Machine/VectorInt.lean ====
section
/-!
DEFINITION. Integer, bit and move vector instructions (06 R127 to R134).
-/
namespace Sys2Proof.Machine

/-- A per-lane instruction without flags whose lane result is `f`. -/
def laneOp (i : Instr) (d : Byte) (vs : List Byte) (f : State → Nat → Word) (s : State) : Out :=
  issue i .vector (vecs (d :: vs)) (fun s => s.perLane d fun k => plain (f s k)) s

/-- `OP vd, va, vb` on 32-bit patterns. -/
def intOp (i : Instr) (d a b : Byte) (f : Word → Word → Word) (s : State) : Out :=
  laneOp i d [a, b] (fun s k => f (s.vreg a.toNat k) (s.vreg b.toNat k)) s

/-! ### One-word operations (R127) -/

def execViadd (o : ROps) (s : State) : Out := intOp (.viadd o) o.d o.a o.b (· + ·) s
def execVisub (o : ROps) (s : State) : Out := intOp (.visub o) o.d o.a o.b (· - ·) s
def execVimul (o : ROps) (s : State) : Out := intOp (.vimul o) o.d o.a o.b (· * ·) s
def execVand (o : ROps) (s : State) : Out := intOp (.vand o) o.d o.a o.b (· &&& ·) s
def execVor (o : ROps) (s : State) : Out := intOp (.vor o) o.d o.a o.b (· ||| ·) s
def execVxor (o : ROps) (s : State) : Out := intOp (.vxor o) o.d o.a o.b (· ^^^ ·) s
def execVshl (o : ROps) (s : State) : Out := intOp (.vshl o) o.d o.a o.b shlW s
def execVshr (o : ROps) (s : State) : Out := intOp (.vshr o) o.d o.a o.b shrW s
def execVsra (o : ROps) (s : State) : Out := intOp (.vsra o) o.d o.a o.b sraW s

/-! ### X forms (R128 to R131, R133) -/

def execVimulh (o : XOps) (s : State) : Out :=
  intOp (.vimulh o) o.d o.a o.b (if o.fn == 0 then mulHigh else mulHighU) s
def execVimin (o : XOps) (s : State) : Out := intOp (.vimin o) o.d o.a o.b (if o.fn == 0 then sminW else uminW) s
def execVimax (o : XOps) (s : State) : Out := intOp (.vimax o) o.d o.a o.b (if o.fn == 0 then smaxW else umaxW) s

/-- A word as a signed or an unsigned integer. -/
def intOf (signed : Bool) (x : Word) : Int := if signed then x.toInt else x.toNat
/-- An exact integer clamped to INT32 or UINT32, OVERFLOW when the clamp changes it; without SAT modulo 2^32 (R128, R133). -/
def accInt (sat signed : Bool) (t : Int) : Word × Word :=
  if sat then
    let c := clampInt (if signed then 12 else 13) t
    (BitVec.ofInt 32 c.1, c.2)
  else plain (BitVec.ofInt 32 t)

def execVimad (o : XOps) (s : State) : Out :=
  issue (.vimad o) .vector (vecs [o.d, o.a, o.b, o.c]) (fun s =>
    let v (x : Word) : Int := intOf (o.fn == 0) x
    s.perLane o.d fun k =>
      accInt o.sat (o.fn == 0) (v (s.vreg o.a.toNat k) * v (s.vreg o.b.toNat k) + v (s.vreg o.c.toNat k))) s

/-- ADD.S, ADD.N, SUB.S, SUB.N, saturating. -/
def execViadds (o : XOps) (s : State) : Out :=
  issue (.viadds o) .vector (vecs [o.d, o.a, o.b]) (fun s =>
    let signed := o.fn.toNat % 2 == 0
    let v (x : Word) : Int := intOf signed x
    s.perLane o.d fun k =>
      let a := v (s.vreg o.a.toNat k)
      let b := v (s.vreg o.b.toNat k)
      accInt true signed (if o.fn.toNat < 2 then a + b else a - b)) s

def execVicmp (o : XOps) (s : State) : Out :=
  issue (.vicmp o) .vector (vecs [o.a, o.b]) (fun s =>
    s.maskResult o.d fun k => relW o.fn.toNat (s.vreg o.a.toNat k) (s.vreg o.b.toNat k)) s

def execVbit (o : XOps) (s : State) : Out :=
  laneOp (.vbit o) o.d [o.a] (fun s k => bitW o.fn.toNat (s.vreg o.a.toNat k)) s

/-- The width of a bit field at `pos` of length `len`, cut at bit 31 (R131). -/
def fieldWidth (pos : Word) (len : Byte) : Nat := if 32 ≤ pos.toNat then 0 else min len.toNat (32 - pos.toNat)
/-- Bits [pos + w − 1 : pos] of `a`, zero- or sign-extended. -/
def bfe (signed : Bool) (a pos : Word) (len : Byte) : Word :=
  let w := fieldWidth pos len
  let f := a.toNat / 2 ^ pos.toNat % 2 ^ w
  if w == 0 then 0
  else if signed && f.testBit (w - 1) then word f - word (2 ^ w) else word f
/-- `c` with bits [pos + w − 1 : pos] replaced by bits [w − 1 : 0] of `a`. -/
def bfi (a pos c : Word) (len : Byte) : Word :=
  let w := fieldWidth pos len
  if w == 0 then c
  else
    let m := word ((2 ^ w - 1) * 2 ^ pos.toNat)
    (c &&& ~~~m) ||| ((a <<< pos.toNat) &&& m)

def execVbfe (o : XOps) (s : State) : Out :=
  laneOp (.vbfe o) o.d [o.a, o.b] (fun s k => bfe (o.fn == 1) (s.vreg o.a.toNat k) (s.vreg o.b.toNat k) o.lo8) s
def execVbfi (o : XOps) (s : State) : Out :=
  laneOp (.vbfi o) o.d [o.a, o.b, o.c] (fun s k =>
    bfi (s.vreg o.a.toNat k) (s.vreg o.b.toNat k) (s.vreg o.c.toNat k) o.lo8) s

/-- An integer dot product of elements of width `w` with accumulation (R133). -/
def dotOp (i : Instr) (o : XOps) (w : Nat) (s : State) : Out :=
  issue i .vector (vecs [o.d, o.a, o.b, o.c]) (fun s =>
    let signedA := !o.fn.getLsbD 0
    let signedB := !o.fn.getLsbD 1
    let code (signed : Bool) : Nat := (if w == 8 then 8 else 6) + if signed then 0 else 1
    s.perLane o.d fun k =>
      let t := ((List.range (32 / w)).map fun j =>
        intVal (code signedA) (elemAt w j (s.vreg o.a.toNat k)) * intVal (code signedB) (elemAt w j (s.vreg o.b.toNat k))).foldl
          (· + ·) (intOf (o.fn != 3) (s.vreg o.c.toNat k))
      accInt o.sat (o.fn != 3) t) s

def execVidot4 (o : XOps) (s : State) : Out := dotOp (.vidot4 o) o 8 s
def execVidot8 (o : XOps) (s : State) : Out := dotOp (.vidot8 o) o 4 s

/-- The budget check of an instruction with vector pairs and vector registers. -/
def pairs (ps vs : List Byte) (s : State) : Option Stop :=
  budget s (ps.map (·.toNat) ++ ps.map (fun p => p.toNat + 1) ++ vs.map (·.toNat)) [] []

def execViadd64 (o : ROps) (s : State) : Out :=
  issue (.viadd64 o) .vector (pairs [o.d, o.a, o.b] []) (fun s =>
    let xs := s.acting.map fun k => (k, s.vpair o.a.toNat k + s.vpair o.b.toNat k)
    (s.setLanes o.d.toNat (xs.map fun x => (x.1, x.2.setWidth 32))).setLanes (o.d.toNat + 1)
      (xs.map fun x => (x.1, x.2.extractLsb' 32 32))) s

/-! ### Moves (R134) -/

def execVmov (o : ROps) (s : State) : Out := laneOp (.vmov o) o.d [o.a] (fun s k => s.vreg o.a.toNat k) s
def execVmovs (o : ROps) (s : State) : Out := laneOp (.vmovs o) o.d [] (fun s _ => s.sval o.a) s
def execVmovi (o : IOps) (s : State) : Out := laneOp (.vmovi o) o.d [] (fun _ _ => o.imm) s
def execVlane (o : ROps) (s : State) : Out := laneOp (.vlane o) o.d [] (fun _ k => word k) s
def execViaddi (o : IOps) (s : State) : Out := laneOp (.viaddi o) o.d [o.a] (fun s k => s.vreg o.a.toNat k + o.imm) s

end Sys2Proof.Machine
end

