-- ==== Sys2Proof/Machine/Mem.lean ====
section
/-!
DEFINITION. Loads and stores of local store, scratchpad, spill area and handle buffers (09 R185 to R191).
-/
namespace Sys2Proof.Machine

/-- (lane, offset) pairs of LDL, STL, LDD and STD: scalar base plus vector offset, modulo 2^32 (R188). -/
def State.offs (s : State) (o : XOps) (ls : List Nat) : List (Nat × Nat) :=
  ls.map fun k => (k, (s.sval o.b + s.vreg o.a.toNat k).toNat)

def codeOf (o : XOps) : Nat := o.lo8.toNat
def widthOf (o : XOps) : Nat := wBytes (codeOf o)
/-- The data registers of a load or store. -/
def dataOf (o : XOps) : List Nat := group o.d (wRegs (codeOf o))

/-- A helper lane whose address is misaligned or out of range receives an undefined value (R185). -/
def State.freeLane (s : State) (k n : Nat) : List Word := (List.range n).map fun r => Config.freeWord s.ctr (1000000 + 4 * k + r)

def inRange (w lim o : Nat) : Bool := o % w == 0 && decide (o + w ≤ lim)

/-- The outstanding load of the acting lanes: the writes known at issue. -/
def State.awaitLoad (s : State) (o : XOps) (ws : List RegWrite) (req : Option EngReq) : State :=
  s.await { kind := .lc, vdst := (dataOf o).map fun r => (r, maskOf s.acting), ws := ws, req := req }

/-- LDL reads when it is performed, at issue. -/
def execLdl (o : XOps) (s : State) : Out :=
  issue (.ldl o) .scalar
    (fun s => firstOf [counterFree s.team.lc, budget s (o.a.toNat :: (dataOf o)) [] [], checkLanes (widthOf o) s.blk.lsz (s.offs o s.active)])
    (fun s => s.awaitLoad o ((s.offs o s.acting).flatMap fun p => laneWrites o.d p.1
      (if inRange (widthOf o) s.blk.lsz p.2 then extend (codeOf o) (s.lsBytes p.2 (widthOf o)) else s.freeLane p.1 (wRegs (codeOf o)))) none) s

/-- STL is performed directly (08 R178). -/
def execStl (o : XOps) (s : State) : Out :=
  issue (.stl o) .scalar
    (fun s => firstOf [budget s (o.a.toNat :: (dataOf o)) [] [], checkLanes (widthOf o) s.blk.lsz (s.offs o s.active),
      s.clash (s.offs o s.active) (widthOf o)])
    (fun s => s.lsStore ((s.offs o s.active).map fun p => (p.2, s.laneBytes o.d (codeOf o) p.1))) s

/-- LDD: each lane's bytes are LOADs of kind SP when its data returns (08 R172). -/
def execLdd (o : XOps) (s : State) : Out :=
  issue (.ldd o) .scalar
    (fun s => firstOf [counterFree s.team.lc, budget s (o.a.toNat :: (dataOf o)) [] [], checkLanes (widthOf o) s.spLimit (s.offs o s.active)])
    (fun s =>
      let good := (s.offs o s.acting).filter fun p => inRange (widthOf o) s.spLimit p.2
      let bad := (s.offs o s.acting).filter fun p => !inRange (widthOf o) s.spLimit p.2
      s.awaitLoad o (bad.flatMap fun p => laneWrites o.d p.1 (s.freeLane p.1 (wRegs (codeOf o))))
        (some { ins := .ldd o, act := maskOf (good.map (·.1)), help := 0, src := good.map fun p => (p.1, [word p.2]), sc := [] })) s

/-- STD waits in the sash; its data counts (R205). -/
def execStd (o : XOps) (s : State) : Out :=
  issue (.std o) .scalar
    (fun s => firstOf [budget s (o.a.toNat :: (dataOf o)) [] [], checkLanes (widthOf o) s.spLimit (s.offs o s.active),
      roomSp s ((widthOf o) * s.active.length)])
    (fun s => if s.active.isEmpty then s
      else s.addRec (.store s.core.die ((s.offs o s.active).map fun p => (p.2, s.laneBytes o.d (codeOf o) p.1)))) s

/-- The word offset of SLDL and SSTL (R189). -/
def State.wordOff (s : State) (o : ROps) : Nat := (s.sval o.a + s.sval o.b).toNat

def execSldl (o : ROps) (s : State) : Out :=
  issue (.sldl o) .scalar (fun s => firstOf [counterFree s.team.lc, checkAt 4 s.blk.lsz noLane (s.wordOff o)])
    (fun s => s.await { kind := .lc, sdst := [o.d.toNat], ws := [.s o.d.toNat (word (leNat (s.lsBytes (s.wordOff o) 4)))] }) s

def execSstl (o : ROps) (s : State) : Out :=
  issue (.sstl o) .scalar (fun s => firstOf [checkAt 4 s.blk.lsz noLane (s.wordOff o), s.clash [(0, s.wordOff o)] 4])
    (fun s => s.lsStore [(s.wordOff o, leWord (s.sval o.d))]) s

/-! ### Spill and fill (R190) -/

/-- The frame base: 0 without a call record, otherwise 16 above it (05 R95, R96). -/
def Team.frameBase (t : Team) : Nat := match t.crec with | some c => c + 16 | none => 0
/-- Bytes per register of the kinds V, S, M. -/
def Team.spillUnit (t : Team) (fn : Nat) : Nat := if fn == 0 then 128 * t.spans else if fn == 1 then 4 else 4 * t.spans

def spillChk (o : XOps) (s : State) : Option Stop :=
  let off := s.sval o.a
  firstOf [
    if o.fn == 0 then budget s (span o.d.toNat o.c.toNat) [] [] else none,
    if off.toNat % 4 != 0 then some (.trap cAlign 0 noLane off)
    else if s.team.z < s.team.frameBase + off.toNat + o.c.toNat * s.team.spillUnit o.fn.toNat then some (.trap cSpill 1 noLane off)
    else none]

/-- Bytes written to the spill area from `a` on. -/
def putSpill (m : List Host.Cell) : Nat → List Byte → List Host.Cell
  | _, [] => m
  | a, v :: r => putSpill (put 0 a v m) (a + 1) r
def getSpill (m : List Host.Cell) (a : Nat) : Word := word (leNat ((span a 4).map fun x => look 0 x m))

/-- The words that SPILL stores; lanes at or above L store undefined values. -/
def State.spillWords (s : State) (o : XOps) : List Word :=
  let n := o.c.toNat
  if o.fn == 0 then
    (List.range n).flatMap fun k => (List.range (32 * s.team.spans)).map fun i =>
      if i < s.team.lanes then s.vreg (o.d.toNat + k) i else Config.freeWord s.ctr (2000000 + 1024 * k + i)
  else if o.fn == 1 then (List.range n).map fun k => s.sreg (o.d.toNat + k)
  else (List.range s.team.spans).map fun j => spanWord (s.mval o.d) j

def execSpill (o : XOps) (s : State) : Out :=
  issue (.spill o) .scalar (spillChk o)
    (fun s => s.onTeam fun t =>
      { t with spill := putSpill t.spill (t.frameBase + (s.sval o.a).toNat) ((s.spillWords o).flatMap leWord) }) s

def execFill (o : XOps) (s : State) : Out :=
  issue (.fill o) .scalar (fun s => firstOf [counterFree s.team.lc, spillChk o s])
    (fun s =>
      let a := s.team.frameBase + (s.sval o.a).toNat
      let n := o.c.toNat
      let w (i : Nat) : Word := getSpill s.team.spill (a + 4 * i)
      if o.fn == 0 then
        s.await { kind := .lc, vdst := (span o.d.toNat n).map fun r => (r, belowMask s.team.quadTop)
                  ws := (List.range n).flatMap fun k => (List.range s.team.quadTop).map fun i =>
                    .v (o.d.toNat + k) i (w (32 * s.team.spans * k + i)) }
      else if o.fn == 1 then
        s.await { kind := .lc, sdst := span o.d.toNat n, ws := (List.range n).map fun k => .s (o.d.toNat + k) (w k) }
      else
        s.await { kind := .lc, mdst := [o.d.toNat]
                  ws := [.m o.d.toNat s.team.live ((List.range s.team.spans).foldl (fun m j => setSpanWord m j (w j)) 0)] }) s

/-! ### Loads from a handle's buffer (R191) -/

def unbound : Option Stop := some (.trap cLsbounds 1 noLane 0)
def badState : Option Stop := some (.trap cLsbounds 2 noLane 0)

def ldhChk (o : XOps) (s : State) : Option Stop :=
  firstOf [counterFree s.team.lc, budget s (o.b.toNat :: (dataOf o)) [] [],
    match s.slotEntry o.a.toNat with
    | none => unbound
    | some (_, e) =>
      if e.isFull then checkLanes (widthOf o) e.size (s.active.map fun k => (k, (s.vreg o.b.toNat k).toNat)) else some .stall]

/-- A local-store buffer is read when the load is performed, at issue; a scratchpad buffer when each lane's data returns (08 R180). -/
def execLdh (o : XOps) (s : State) : Out :=
  issue (.ldh o) .scalar (ldhChk o)
    (fun s => match s.slotEntry o.a.toNat with
      | none => s
      | some (_, e) =>
        let xs := s.acting.map fun k => (k, (s.vreg o.b.toNat k).toNat)
        let good := xs.filter fun p => inRange (widthOf o) e.size p.2
        let bad := xs.filter fun p => !inRange (widthOf o) e.size p.2
        let free := bad.flatMap fun p => laneWrites o.d p.1 (s.freeLane p.1 (wRegs (codeOf o)))
        if e.spad then
          s.awaitLoad o free
            (some { ins := .ldh o, act := maskOf (good.map (·.1)), help := 0, src := good.map fun p => (p.1, [word (e.base + p.2)]), sc := [] })
        else
          s.awaitLoad o (free ++ good.flatMap fun p =>
            laneWrites o.d p.1 (extend (codeOf o) (s.blk.ls.gets (e.base + p.2) (widthOf o)))) none) s

/-! ### Data that returns later -/

/-- The bytes of `n` scratchpad locations from `a` on as LOADs of the team in the focus; bytes of a FILLING buffer are undefined. -/
def State.loadSp (s : State) (after : List Hold) (a n : Nat) : Except Hold (List Byte × Team) :=
  (loadBytes s.ten s.ctr after (1 + s.core.die) (span a n) s.team).map fun r =>
    ((List.range n).map fun i => if s.spOpen s.core.die (a + i) then BitVec.ofNat 8 (Config.freeIx s.ctr 1002 (a + i)) else r.1.getD i 0, r.2)

/-- What lane `k` of an outstanding LDD or scratchpad LDH receives, and the team after its reads. -/
def State.serveLoad (s : State) (q : EngReq) (k : Nat) : Except Hold (List RegWrite × Team) :=
  let a := ((look [] k q.src).headD 0).toNat
  match q.ins with
  | .ldd o => (s.loadSp q.after a (widthOf o)).map fun r => (laneWrites o.d k (extend (codeOf o) r.1), r.2)
  | .ldh o => .ok (laneWrites o.d k (extend (codeOf o) ((s.ten.space (1 + s.core.die)).gets a (widthOf o))), s.team)
  | _ => .ok ([], s.team)

end Sys2Proof.Machine
end

