-- ==== Sys2Proof/Machine/Atomic.lean ====
section
/-!
DEFINITION. Atomics (09 R192 to R197, 08 R181 to R183).
-/
namespace Sys2Proof.Machine

/-! ### Operations and types (R192) -/

def wide (ty : Nat) : Bool := decide (4 ≤ ty)
/-- The value in a type's width. -/
def narrowTo (ty : Nat) (x : DWord) : DWord := if wide ty then x else (x.setWidth 32).setWidth 64
/-- a ≤ b in the order of a type S32, N32, S64 or N64. -/
def atomLe (ty : Nat) (a b : DWord) : Bool :=
  if ty == 1 then (a.setWidth 32).sle (b.setWidth 32)
  else if ty == 2 then (a.setWidth 32).ule (b.setWidth 32)
  else if ty == 5 then a.sle b else a.ule b
/-- FP32 addition with one RNE rounding. -/
def addF32 (a b : Word) : Word := rne32 (fsum false [f32 a, f32 b])
/-- The memory value after the operation; none when a CAS fails. -/
def atomOp (op ty : Nat) (m a c : DWord) : Option DWord :=
  let f (g : Word → Word → Word) : DWord := (g (m.setWidth 32) (a.setWidth 32)).setWidth 64
  match op with
  | 0 => some (narrowTo ty (if ty == 3 then f addF32 else m + a))
  | 1 => some (narrowTo ty (if ty == 3 then f minNum else if atomLe ty m a then m else a))
  | 2 => some (narrowTo ty (if ty == 3 then f maxNum else if atomLe ty m a then a else m))
  | 3 => some (narrowTo ty (m &&& a))
  | 4 => some (narrowTo ty (m ||| a))
  | 5 => some (narrowTo ty (m ^^^ a))
  | 6 => some (narrowTo ty a)
  | _ => if narrowTo ty m == narrowTo ty a then some (narrowTo ty c) else none

/-! ### Operands -/

def opOf (o : XOps) : Nat := o.fn.toNat
def typeOf (o : XOps) : Nat := o.loNib.toNat
/-- The registers of a data operand. -/
def atomGroup (o : XOps) (r : Byte) : List Nat := group r (if wide (typeOf o) then 2 else 1)
/-- The third operand's registers, for CAS. -/
def casGroup (o : XOps) (r : Byte) : List Nat := if opOf o == 7 then atomGroup o r else []
def State.atomVal (s : State) (o : XOps) (r : Byte) (k : Nat) : DWord :=
  if wide (typeOf o) then s.vpair r.toNat k else (s.vreg r.toNat k).setWidth 64
def State.casVal (s : State) (o : XOps) (r : Byte) (k : Nat) : DWord := if opOf o == 7 then s.atomVal o r k else 0
/-- (lane, offset or address, a, c) of the lanes of Active(). -/
def State.atomLanes (s : State) (o : XOps) (addr : Nat → Nat) (b c : Byte) : List (Nat × Nat × DWord × DWord) :=
  s.active.map fun k => (k, addr k, s.atomVal o b k, s.casVal o c k)
/-- An old value as writes of the destination. -/
def oldWrites (ty dst k : Nat) (x : DWord) : List RegWrite :=
  .v dst k (x.setWidth 32) :: if wide ty then [.v (dst + 1) k (x.extractLsb' 32 32)] else []
def State.offsA (s : State) (o : XOps) : List (Nat × Nat) := s.active.map fun k => (k, (s.vreg o.a.toNat k).toNat)

/-! ### Local store (R194) -/

/-- The lanes act in ascending order, each on the result of those before it (R193). -/
def State.atomLs (s : State) (op ty : Nat) : List (Nat × Nat × DWord × DWord) → State × List (Nat × DWord)
  | [] => (s, [])
  | (k, x, a, c) :: r =>
    let n := atomBytes ty
    let m : DWord := BitVec.ofNat 64 (leNat (s.lsBytes x n))
    let s := match atomOp op ty m a c with
      | some v => s.lsStore [(x, leBytes n v.toNat)]
      | none => s
    let q := s.atomLs op ty r
    (q.1, (k, m) :: q.2)

/-- ATL: a local-store atomic, performed at its issue (09 R193). -/
def execAtl (o : XOps) (s : State) : Out :=
  issue (.atl o) .scalar
    (fun s => firstOf [if o.ret then counterFree s.team.ac else none,
      budget s ((if o.ret then atomGroup o o.d else []) ++ [o.a.toNat] ++ atomGroup o o.b ++ casGroup o o.c) [] [],
      checkLanes (atomBytes (typeOf o)) s.blk.lsz (s.offsA o), s.clash (s.offsA o) (atomBytes (typeOf o))])
    (fun s =>
      let q := s.atomLs (opOf o) (typeOf o) (s.atomLanes o (fun k => (s.vreg o.a.toNat k).toNat) o.b o.c)
      if o.ret then
        q.1.await { kind := .ac, vdst := (atomGroup o o.d).map fun r => (r, maskOf s.active)
                    ws := q.2.flatMap fun p => oldWrites (typeOf o) o.d.toNat p.1 p.2 }
      else q.1) s

/-! ### Scratchpad and main memory, no-return (R194, R195) -/

def atdChk (o : XOps) (s : State) : Option Stop :=
  firstOf [budget s ([o.a.toNat] ++ atomGroup o o.b ++ casGroup o o.c) [] [],
    checkLanes (atomBytes (typeOf o)) s.spLimit (s.offsA o)]

/-- ATD without a result (09 R193, R194). -/
def execAtd (o : XOps) (s : State) : Out :=
  issue (.atd o) .scalar (fun s => firstOf [atdChk o s, roomSp s (atomBytes (typeOf o) * s.active.length)])
    (fun s => if s.active.isEmpty then s
      else s.addRec (.atomSp s.core.die (opOf o) (typeOf o)
        ((s.atomLanes o (fun k => (s.vreg o.a.toNat k).toNat) o.b o.c).map (·.2)) s.ctr)) s

/-- The sum of two adds' operands: RNE for FP32 (R181, R193). -/
def sumOf (ty : Nat) (x y : DWord) : DWord :=
  if ty == 3 then (addF32 (x.setWidth 32) (y.setWidth 32)).setWidth 64 else narrowTo ty (x + y)
/-- The operands of adds to one address, summed in ascending lane order: one request (R193). -/
def combineAdds (ty : Nat) (l : List (Nat × DWord × DWord)) : List (Nat × DWord × DWord) :=
  l.foldl (fun acc p =>
    if acc.any (fun q => q.1 == p.1) then acc.map fun q => if q.1 == p.1 then (q.1, sumOf ty q.2.1 p.2.1, q.2.2) else q
    else acc ++ [p]) []

/-- Is some address on a REMOTE page (24 R378)? -/
def Tenant.remote (t : Tenant) (a : Nat) : Bool := (t.pageAt a).any fun p => p.st == .remote

def State.vaLanes (s : State) (r : Byte) (ls : List Nat) : List (Nat × Nat) := ls.map fun k => (k, s.vaddr r.toNat k)

/-- On REMOTE pages only the 64-bit ADD travels; another type ends the team with ACCESS (24 R378). -/
def remoteType (o : XOps) (s : State) (as : List Nat) : Option Stop :=
  if opOf o == 0 && typeOf o == 4 then none
  else (as.find? s.ten.remote).map fun a => .access cAccess 1 (((s.ten.pageAt a).map (·.va)).getD (pageVA a)) as

/-- GATOM without a result: lanes that add to one address are joined here, those of other operations by `perAddress` at COMPLETE (09 R193, 08 R181). -/
def execGatom (o : XOps) (s : State) : Out :=
  issue (.gatom o) .scalar
    (fun s =>
      let as := (s.vaLanes o.d s.active).map (·.2)
      firstOf [budget s (group o.d 2 ++ atomGroup o o.a ++ casGroup o o.b) [] [],
        alignLanes (atomBytes (typeOf o)) (s.vaLanes o.d s.active), roomRec s (!s.active.isEmpty),
        (match s.pageStop { r := false, w := true, remote := true } as with
          | some (.access c u i seen) => some (.access c u i seen)
          | x => firstOf [remoteType o s as, x])])
    (fun s =>
      let xs := (s.atomLanes o (fun k => s.vaddr o.d.toNat k) o.a o.b).map (·.2)
      let s := s.touchPages (xs.map (·.1))
      if xs.isEmpty then s
      else s.addRec (.atomMm (opOf o) (typeOf o) (if opOf o == 0 then combineAdds (typeOf o) xs else xs) s.here (some s.ctr))) s

/-! ### Returning atomics that are boundaries (R194, R196, 08 R182) -/

/-- Step 1: the boundary at clause end; the team then waits, with no open phase. -/
def State.startAtom (s : State) (scope sp op ty dst : Nat) (todo : List (Nat × Nat × DWord × DWord)) (va : VA) : State :=
  (s.closePhase scope).onTeam fun t =>
    { t with
      ac := t.ac + 1
      wait := .atom { scope := scope, sp := sp, op := op, ty := ty, dst := dst, todo := todo, old := [], seen := [], mism := false, va := va } }

/-- ATD with its old value: the clause ends and the team waits between its two boundaries (09 R194, R196, R197). -/
def execAtdR (o : XOps) (s : State) : Out :=
  issueT (.atdR o)
    (fun s => firstOf [counterFree s.team.ac, budget s (atomGroup o o.d) [] [], atdChk o s, boundaryOk s o.scope8.toNat])
    (fun c s => s.startAtom o.scope8.toNat (1 + s.core.die) (opOf o) (typeOf o) o.d.toNat
      (s.atomLanes o (fun k => (s.vreg o.a.toNat k).toNat) o.b o.c) c.va) s

/-- GATOMR: the old values arrive between the two boundaries of the clause (09 R193, R196, R197). -/
def execGatomr (o : XOps) (s : State) : Out :=
  issueT (.gatomr o)
    (fun s => firstOf [counterFree s.team.ac,
      budget s (atomGroup o o.d ++ group o.a 2 ++ atomGroup o o.b ++ casGroup o o.c) [] [],
      alignLanes (atomBytes (typeOf o)) (s.vaLanes o.a s.active),
      s.pageStop { r := true, w := true, remote := true } ((s.vaLanes o.a s.active).map (·.2)), boundaryOk s o.scope8.toNat])
    (fun c s =>
      let todo := s.atomLanes o (fun k => s.vaddr o.a.toNat k) o.b o.c
      (s.touchPages (todo.map fun p => p.2.1)).startAtom o.scope8.toNat 0 (opOf o) (typeOf o) o.d.toNat todo c.va) s

/-! ### PERFORM (08 R182, R183) -/

/-- Does the domain hold the writer that a line record names? 0 is the host or a peer, outside every scope narrower than SYSTEM.
A writer that has ended or is saved is on no core and no die, but in the device (DESIGN CHOICE, log 74). -/
def Domain.holds (d : Domain) (teams : List Team) (cores : List Core) (k : Nat) : Bool :=
  match d with
  | .system => true
  | .device => k != 0
  | .team x => k == x && k != 0
  | .core c => teams.any fun t => t.key == k && t.core == c && t.wait != .ended
  | .die x => teams.any fun t => t.key == k && t.wait != .ended && cores.any fun c => c.num == t.core && c.die == x

/-- A scope mismatch: the line's record names a writer outside D_S(T), or a domain that does not hold T (R182, R183). -/
def mismatch (d : Domain) (teams : List Team) (cores : List Core) (key core die : Nat) (r : Option LineRec) : Bool :=
  match r with
  | none => false
  | some r => match r.team with
    | none => false
    | some k => !d.holds teams cores k || !r.dom.has key core die

/-- The newest write of each byte, and the batches that wrote them. -/
def Space.lastBatches (m : Space) (a n : Nat) : List Nat := distinct ((span a n).map fun x => ((look [] x m.hist).head?.map (·.2)).getD 0)

/-- What performing one lane of a returning atomic gives: tenant, the old value, the batches read, whether it was a mismatch. -/
structure Performed where
  ten : Tenant
  old : DWord
  seen : List Nat
  mism : Bool

/-- One lane, against the newest entry of its location; it takes its place in the completion order and, if it writes, its line's
record. `teams` and `cores` are those of the tenant, the focus included. -/
def performAt (ten : Tenant) (teams : List Team) (cores : List Core) (key core die scope sp op ty : Nat) (x : Nat) (a c : DWord) :
    Performed :=
  let m := ten.space sp
  let n := atomBytes ty
  let d := domainOf scope key core die
  let old : DWord := BitVec.ofNat 64 (m.num x n)
  let id := ten.nextBatch
  let ten' := { ten with nextBatch := id + 1, done := ten.done ++ [{ id := id, team := key, dom := d }] }
  { ten := match atomOp op ty old a c with
      | some v => ten'.setSpace sp ((m.writes id x (leBytes n v.toNat)).mark { team := some key, dom := d } (span x n))
      | none => ten'
    old := old, seen := m.lastBatches x n, mism := mismatch d teams cores key core die (look none (x / 128) m.lines) }

end Sys2Proof.Machine
end

