-- ==== Sys2Proof/Machine/Handles.lean ====
section
/-!
DEFINITION. Handles and event records (07 R158 to R160, R166 to R168, 09 R198 to R200, R204).
-/
namespace Sys2Proof.Machine

/-- The entry that `HOPEN` draws: the team's reserved ones first, then those that no team of the core reserves (02 R23); an ended
team reserves its own until its grants return (05 R102). -/
def State.freeEntry (s : State) : Option Nat :=
  let free (n : Nat) : Bool := (s.core.entry? n).isNone
  let held := (s.allTeams.filter fun t => t.core == s.core.num).flatMap (·.reserved)
  match s.team.reserved.find? free with
  | some n => some n
  | none => (List.range Config.bufEntries).find? fun n => free n && !held.contains n

def evtBit (o : XOps) : Bool := o.mod.getLsbD 1
def spaceBit (o : XOps) : Bool := o.mod.getLsbD 0

/-- Handle, then alignment, then range; without a free entry it stalls (R198). -/
def hopenChk (o : XOps) (s : State) : Option Stop :=
  let base := s.sval o.a
  let size := s.sval o.b
  let lim := if spaceBit o then s.spLimit else s.blk.lsz
  if (s.slotEntry o.d.toNat).isSome then badState
  else if base.toNat % 32 != 0 then some (.trap cAlign 0 noLane base)
  else if size.toNat % 32 != 0 || size.toNat < 32 then some (.trap cAlign 0 noLane size)
  else if lim < base.toNat + size.toNat then some (.trap cLsbounds 0 noLane base)
  else if s.freeEntry.isNone then some .stall else none

def State.bind (s : State) (slot n : Nat) (e : BufEntry) : State :=
  { s with core := s.core.setEntry n (some e), team := { s.team with h := put none slot (some n) s.team.h } }

def execHopen (o : XOps) (s : State) : Out :=
  issue (.hopen o) .scalar (hopenChk o)
    (fun s => match s.freeEntry with
      | none => s
      | some n => s.bind o.d.toNat n
        { team := s.team.key, blk := s.blk.key, slot := o.d.toNat, spad := spaceBit o, base := (s.sval o.a).toNat
          size := (s.sval o.b).toNat, st := .filling, sealed := false, drain := false, cur := true, sealCur := false, freed := false
          asked := evtBit o, evt := if evtBit o then some (s.sval o.c) else none, stamp := 0 }) s

/-- Entry `n` of the core becomes FULL; its record may be due now (07 R167). The owner of a scratchpad buffer, the team in the focus,
gains its sector batches in its floor, and its read set drops the buffer's bytes (08 R180). -/
def State.fillUp (s : State) (n : Nat) (e : BufEntry) : State :=
  let e := { e with st := .full, stamp := s.ctr }
  let s := { s with
    core := s.core.setEntry n (some (if e.due then { e with evt := none } else e))
    blk := s.blk.noteDue s.team.idx [e] }
  if e.spad then
    s.onTeam fun t => { t with
      floor := union t.floor e.landed
      readSet := t.readSet.filter fun p =>
        !(p.1.1 == 1 + s.core.die && decide (e.base ≤ p.1.2) && decide (p.1.2 < e.base + e.size)) }
  else s

def execHseal (o : ROps) (s : State) : Out :=
  issue (.hseal o) .scalar
    (fun s => match s.slotEntry o.d.toNat with
      | none => unbound
      | some (_, e) => if e.st == .filling then none else badState)
    (fun s => match s.slotEntry o.d.toNat with
      | none => s
      | some (n, e) =>
        if e.sealed then s
        else
          let e := { e with sealed := true, sealCur := true }
          if s.ten.flying s.core.num n then { s with core := s.core.setEntry n (some e) } else s.fillUp n e) s

def execHfree (o : ROps) (s : State) : Out :=
  issue (.hfree o) .scalar
    (fun s => match s.slotEntry o.d.toNat with
      | none => unbound
      | some (_, e) => if e.st == .filling then (if e.sealed then some .stall else badState) else none)
    (fun s => match s.slotEntry o.d.toNat with
      | none => s
      | some (n, e) =>
        { s with
          core := s.core.setEntry n (some { e with freed := true })
          team := { s.team with h := put none o.d.toNat none s.team.h } }) s

/-- The hold ends when the handle is FULL or DRAINING. -/
def execHwaitFull (o : ROps) (s : State) : Out :=
  issue (.hwaitFull o) .scalar (fun s => if (s.slotEntry o.d.toNat).isNone then unbound else none)
    (fun s => s.onTeam fun t => { t with wait := .full o.d.toNat }) s

/-- The hold ends when the slot is unbound. -/
def execHwaitIdle (o : ROps) (s : State) : Out :=
  issue (.hwaitIdle o) .scalar noCheck (fun s => s.onTeam fun t => { t with wait := .idle o.d.toNat }) s

/-- The state word of a slot (R200). -/
def State.hstat (s : State) (h : Nat) : Word :=
  match s.slotEntry h with
  | none => 0
  | some (n, e) =>
    let st := match e.st with
      | .filling => if e.sealed then 2 else 1
      | .full => if e.drain then 4 else 3
      | .draining => 5
    word (min 65535 (s.ten.flyCount s.core.num n) * 65536 + (if e.asked then 16 else 0) + (if e.spad then 8 else 0) + st)

def execHstat (o : ROps) (s : State) : Out := scalarOp (.hstat o) o.d (fun s => s.hstat o.a.toNat) s

/-- EVPOP takes the head of the queue at once, zeros from an empty one; the pair is written when TC falls (R204, 07 R168). -/
def execEvpop (o : ROps) (s : State) : Out :=
  issue (.evpop o) .scalar (fun s => counterFree s.team.tc)
    (fun s =>
      let x := s.blk.evq.headD 0
      let p : Pend := { kind := .tc, sdst := [o.d.toNat, o.d.toNat + 1]
                        ws := [.s o.d.toNat (x.setWidth 32), .s (o.d.toNat + 1) (x.extractLsb' 32 32)] }
      State.await { s with
        blk := { s.blk with evq := s.blk.evq.drop 1 }
        team := { s.team with popped := s.team.popped ++ s.blk.evq.take 1 } } p) s

end Sys2Proof.Machine
end

