-- ==== Sys2Proof/Machine/Copy.lean ====
section
/-!
DEFINITION. Copies between main memory and buffers (07 R161 to R165, 09 R201 to R203).
-/
namespace Sys2Proof.Machine

/-! ### Lines and sectors (07 R162) -/

/-- 128-byte lines that a list of byte addresses touches. -/
def linesOf (as : List Nat) : Nat := (distinct (as.map (· / 128))).length

/-- Lines that the drains of core `c` have in flight. -/
def Batch.drainLines (c : Nat) (b : Batch) : Nat :=
  (b.recs.map fun r => match r with
    | .drain k _ _ fly _ => if k == c then linesOf (fly.flatMap fun w => span w.1 w.2.length) else 0
    | _ => 0).foldl (· + ·) 0
/-- Line transfers in flight on core `c`, copy-ins and drains together: an instruction's lines stay until their sectors have arrived. -/
def Tenant.linesInFlight (t : Tenant) (c : Nat) : Nat :=
  (((t.sectors.filter fun x => x.core == c && x.up).flatMap fun x => x.src.map fun p => (x.req, p.1 / 128)).foldl
    (fun (acc : List (Nat × Nat)) p => if acc.contains p then acc else p :: acc) []).length +
  (t.queued.map (Batch.drainLines c)).foldl (· + ·) 0
/-- Free slots of the copy engine of core `c`. -/
def Tenant.slotsFree (t : Tenant) (c : Nat) : Nat := Config.copyLines - t.linesInFlight c

/-- The sectors of an instruction: one per 32-byte sector of main memory that its bytes (VA, buffer offset) touch; those of the first
`room` lines are in flight at once. -/
def sectorsOf (va : VA) (team core entry req room : Nat) (bytes : List (Nat × Nat)) : List Sector :=
  let first := (distinct (bytes.map fun p => p.1 / 128)).take room
  (distinct (bytes.map fun p => p.1 / 32)).map fun q =>
    { team := team, core := core, entry := entry, src := bytes.filter (fun p => p.1 / 32 == q), got := none, req := req, va := va
      up := first.contains (q / 4) }

/-- Lines of an instruction that issue at once, those that find a slot (R203); the others issue later. -/
def linesNow (room : Nat) (bytes : List (Nat × Nat)) : Nat := min room (linesOf (bytes.map (·.1)))

/-- Copies into entry `n` start: `spans` are the (offset, width) pairs, `bytes` the bytes (VA, buffer offset). Bytes that a store has
written while the buffer was FILLING become undefined (07 R159). -/
def State.startCopy (s : State) (n : Nat) (e : BufEntry) (spans bytes : List (Nat × Nat)) : State :=
  let room := s.ten.slotsFree s.core.num
  let s := (s.touchPages (bytes.map (·.1))).count 5 (linesNow room bytes)
  let both := e.stored.filter fun o => spans.any fun q => decide (q.1 ≤ o) && decide (o < q.1 + q.2)
  let xs := (sectorsOf s.here s.team.key s.core.num n s.ctr room bytes).map fun x => { x with skip := both }
  let s := { s with
    core := s.core.setEntry n (some { e with copied := e.copied ++ spans })
    ten := { s.ten with sectors := s.ten.sectors ++ xs } }
  both.foldl (fun s o => s.spoilByte e.spad (e.base + o)) s

/-! ### Lane copies (R201, R202) -/

/-- The handle of a copy-in: FILLING, unsealed, opened in the current phase (R159). -/
def State.fillCheck (s : State) (h : Nat) : Option Stop :=
  match s.slotEntry h with
  | none => unbound
  | some (_, e) => if e.st == .filling && !e.sealed && e.cur then none else badState
/-- The handle of a copy-out: FULL (R159). -/
def State.fullCheck (s : State) (h : Nat) : Option Stop :=
  match s.slotEntry h with
  | none => unbound
  | some (_, e) => if e.st == .full then none else badState
def State.entrySize (s : State) (h : Nat) : Nat := ((s.slotEntry h).map fun p => p.2.size).getD 0

/-- Lanes as (lane, VA, buffer offset). -/
def State.copyLanes (s : State) (va vo : Byte) : List (Nat × Nat × Nat) :=
  s.active.map fun k => (k, s.vaddr va.toNat k, (s.vreg vo.toNat k).toNat)

/-- VA and offset are multiples of the width, the offset lies in the buffer (R161). -/
def copyCheck (w size : Nat) (xs : List (Nat × Nat × Nat)) : Option Stop :=
  xs.findSome? fun p =>
    if p.2.1 % w != 0 then some (.trap cAlign 0 (word p.1) (word p.2.1)) else checkAt w size (word p.1) p.2.2

/-- The bytes of lane transfers. -/
def bytesOf (w : Nat) (xs : List (Nat × Nat × Nat)) : List (Nat × Nat) :=
  xs.flatMap fun p => (List.range w).map fun j => (p.2.1 + j, p.2.2 + j)

/-- CPYIN (07 R162, 09 R201). -/
def execCpyin (o : XOps) (s : State) : Out :=
  let w := widthOf o
  issue (.cpyin o) .scalar
    (fun s =>
      let xs := s.copyLanes o.b o.a
      firstOf [budget s (o.a.toNat :: group o.b 2) [] [], s.fillCheck o.d.toNat, copyCheck w (s.entrySize o.d.toNat) xs,
        s.pageStop { r := true, w := false, remote := true } (xs.map fun p => p.2.1),
        if s.ten.slotsFree s.core.num < linesOf (xs.map fun p => p.2.1) then some .stall else none])
    (fun s => match s.slotEntry o.d.toNat with
      | none => s
      | some (n, e) =>
        let xs := s.copyLanes o.b o.a
        if xs.isEmpty then s else s.startCopy n e (xs.map fun p => (p.2.2, w)) (bytesOf w xs)) s

def writeUse : Use := { r := false, w := true, remote := true }

/-- CPYOUT from registers captures its data at issue. -/
def execCpyout (o : XOps) (s : State) : Out :=
  issue (.cpyout o) .scalar
    (fun s =>
      let xs := s.vaLanes o.d s.active
      firstOf [budget s (group o.d 2 ++ group o.a (wRegs (codeOf o))) [] [], alignLanes (widthOf o) xs, roomRec s (!xs.isEmpty),
        s.pageStop writeUse (xs.map (·.2))])
    (fun s =>
      let xs := s.vaLanes o.d s.active
      if xs.isEmpty then s
      else (s.touchPages (xs.map (·.2))).addRec (.copy (xs.map fun p => (p.2, s.laneBytes o.a (codeOf o) p.1)))) s

/-- CPYOUT from a handle; its drain after the boundary reads the bytes. -/
def execCpyoutH (o : XOps) (s : State) : Out :=
  let w := widthOf o
  issue (.cpyoutH o) .scalar
    (fun s =>
      let xs := s.copyLanes o.d o.b
      firstOf [budget s (o.b.toNat :: group o.d 2) [] [], s.fullCheck o.a.toNat, copyCheck w (s.entrySize o.a.toNat) xs,
        roomRec s (!xs.isEmpty), s.pageStop writeUse (xs.map fun p => p.2.1)])
    (fun s => match s.slotEntry o.a.toNat with
      | none => s
      | some (n, e) =>
        let xs := s.copyLanes o.d o.b
        if xs.isEmpty then s
        else
          let s := s.touchPages (xs.map fun p => p.2.1)
          State.addRec { s with core := s.core.setEntry n (some { e with drain := true }) }
            (.drain s.core.num n (xs.map fun p => (p.2.1, p.2.2, w)) [] [])) s

/-! ### Tiles (07 R164, R165, 09 R203) -/

/-- A layout record. -/
structure Tile where
  base : Nat
  dims : Nat
  mir : Bool
  esz : Nat
  tile : List Nat
  ext : List Nat
  str : List Int
  deriving DecidableEq, Repr

/-- The fields of a record's 64 bytes; none where it breaks a rule of R164. -/
def Tile.read (bs : List Byte) : Option Tile :=
  let w8 := field bs 8 4
  let dims := w8 / 16 % 16
  let tile := (List.range 4).map fun k => field bs (12 + k) 1
  let ext := (List.range 4).map fun k => field bs (16 + 4 * k) 4
  let str := (0 : Int) :: (List.range 3).map fun k => (BitVec.ofNat 64 (field bs (32 + 8 * k) 8)).toInt
  let free (k : Nat) : Bool := decide (k < dims) || (tile.getD k 0 == 0 && ext.getD k 0 == 1 && str.getD k 0 == 0)
  if field bs 7 1 == 0 && w8 / 256 == 0 && w8 / 8 % 2 == 0 && decide (1 ≤ dims) && decide (dims ≤ 4) && field bs 56 8 == 0 &&
      ext.all (fun n => n != 0) && (List.range 4).all free then
    some { base := field bs 0 7, dims := dims, mir := w8 / 4 % 2 == 1, esz := 2 ^ (w8 % 4), tile := tile, ext := ext, str := str }
  else none

/-- The mirror function (R165). -/
def mirror (sym : Bool) (n : Nat) (c : Int) : Nat :=
  if n == 1 then 0
  else if sym then
    let j := (c % (2 * n : Nat)).toNat
    if j < n then j else 2 * n - 1 - j
  else
    let j := (c % (2 * n - 2 : Nat)).toNat
    if j < n then j else 2 * n - 2 - j

/-- Elements of a tile. -/
def Tile.count (t : Tile) : Nat := t.tile.foldl (fun p k => p * (k + 1)) 1
/-- Position of element `i`, dimension 0 fastest, plus the origin. -/
def Tile.coords (t : Tile) (org : List Int) (i : Nat) : List Int :=
  (List.range 4).map fun k => org.getD k 0 + ((i / (t.tile.take k).foldl (fun p m => p * (m + 1)) 1 % (t.tile.getD k 0 + 1) : Nat) : Int)
/-- The address of an element (R164). -/
def Tile.addr (t : Tile) (cs : List Int) : Nat :=
  let m (k : Nat) : Int := (mirror t.mir (t.ext.getD k 1) (cs.getD k 0) : Nat)
  (((t.base : Int) + t.esz * m 0 + t.str.getD 1 0 * m 1 + t.str.getD 2 0 * m 2 + t.str.getD 3 0 * m 3) % 2 ^ 56).toNat
def Tile.inside (t : Tile) (cs : List Int) : Bool :=
  (List.range 4).all fun k => decide (0 ≤ cs.getD k 0) && decide (cs.getD k 0 < t.ext.getD k 1)
/-- The bytes (VA, buffer offset) of the elements that `keep` takes, in dense order, the tile at offset `c` of its buffer. -/
def Tile.bytes (t : Tile) (org : List Int) (c : Nat) (keep : List Int → Bool) : List (Nat × Nat) :=
  (List.range t.count).flatMap fun i =>
    let cs := t.coords org i
    if keep cs then (List.range t.esz).map fun j => ((t.addr cs + j) % 2 ^ 56, c + i * t.esz + j) else []

/-- The record that the instruction names, where it can be read. -/
def State.tile? (s : State) (o : XOps) : Option Tile :=
  let a := (s.sval o.a).toNat
  if a % 64 == 0 && decide (a + 64 ≤ s.blk.lsz) then Tile.read (s.lsBytes a 64) else none
def State.origin (s : State) (o : XOps) : List Int := (List.range 4).map fun k => (s.sreg (o.b.toNat + k)).toInt

/-- ILLEGAL for a bad record first, then the handle, then the scalar operands, alignment before bounds (R34, R203). -/
def tileCheck (o : XOps) (handle : State → Nat → Option Stop) (s : State) : Option Stop :=
  let a := (s.sval o.a).toNat
  let readable := a % 64 == 0 && decide (a + 64 ≤ s.blk.lsz)
  let c := (s.sval o.c).toNat
  firstOf [
    if readable && (s.tile? o).isNone then trapTeam cIllegal subReserved else none,
    handle s o.d.toNat,
    checkAt 64 s.blk.lsz noLane a,
    match s.tile? o with
    | none => none
    | some t =>
      if c % t.esz != 0 then some (.trap cAlign 0 noLane (s.sval o.c))
      else if s.entrySize o.d.toNat < c + t.count * t.esz then some (.trap cLsbounds 0 noLane (s.sval o.c)) else none]

def State.tileBytes (s : State) (o : XOps) (out : Bool) : List (Nat × Nat) :=
  match s.tile? o with
  | none => []
  | some t => t.bytes (s.origin o) (s.sval o.c).toNat fun cs => !out || t.inside cs

/-- TCPYIN (09 R203): a tile is copied in, line by line as slots are free. -/
def execTcpyin (o : XOps) (s : State) : Out :=
  issue (.tcpyin o) .scalar
    (fun s => match tileCheck o State.fillCheck s with
      | some x => some x
      | none => s.pageStop { r := true, w := false, remote := true } ((s.tileBytes o false).map (·.1)))
    (fun s => match s.slotEntry o.d.toNat, s.tile? o with
      | some (n, e), some t => s.startCopy n e [((s.sval o.c).toNat, t.count * t.esz)] (s.tileBytes o false)
      | _, _ => s) s

/-- TCPYOUT (09 R203): a tile is copied out at the boundary; the later element of a shared byte lands. -/
def execTcpyout (o : XOps) (s : State) : Out :=
  issue (.tcpyout o) .scalar
    (fun s => match firstOf [tileCheck o State.fullCheck s, roomRec s true] with
      | some x => some x
      | none => s.pageStop writeUse ((s.tileBytes o true).map (·.1)))
    (fun s => match s.slotEntry o.d.toNat with
      | none => s
      | some (n, e) =>
        let bs := s.tileBytes o true
        let s := s.touchPages (bs.map (·.1))
        State.addRec { s with core := s.core.setEntry n (some { e with drain := true }) }
          (.drain s.core.num n (bs.map fun p => (p.1, p.2, 1)) [] [])) s

/-! ### Data of a sector -/

/-- The bytes of a sector as LOADs of kind MM of the team in the focus (R201); bytes of REMOTE pages come from the peer and are free
(24 R378). -/
def State.loadSector (s : State) (after : List Hold) : List Nat → Team → Except Hold (List Byte × Team)
  | [], t => .ok ([], t)
  | a :: r, t =>
    if s.ten.remote a then (s.loadSector after r t).map fun q => (BitVec.ofNat 8 (Config.freeIx s.ctr 1003 a) :: q.1, q.2)
    else match loadByte s.ten s.ctr after 0 a t with
      | .wait x b k => .error (x, b, k)
      | .val v t => (s.loadSector after r t).map fun q => (v :: q.1, q.2)

/-- What a sector leaves at each buffer offset: where two of its transfers meet, one of their bytes (R163). -/
def landing (ctr : Nat) (src : List (Nat × Nat)) (got : List Byte) (skip : List Nat) : List (Nat × Byte) :=
  let ps := (List.zip (src.map (·.2)) got).filter fun p => !skip.contains p.1
  (distinct (ps.map (·.1))).map fun o =>
    match (ps.filter fun p => p.1 == o).map (·.2) with
    | [v] => (o, v)
    | vs => (o, pick 0 (Config.freeIx ctr 1004 o) vs)

end Sys2Proof.Machine
end

