-- ==== Sys2Proof/Machine/Engines.lean ====
section
/-!
DEFINITION. What the sampler and the traversal unit share: their reads (08 R184), page requests (12 R248), FP32 steps with RNE, and
the lanes of an outstanding reply (13 R266).
-/
namespace Sys2Proof.Machine

/-! ### Reads -/

/-- The engines read; REMOTE pages count as unmapped for them (24 R378). -/
def engUse : Use := { r := true, w := false, remote := false }
def vaSpan (a n : Nat) : List Nat := (List.range n).map fun i => (a + i) % 2 ^ 56
/-- Pages of the addresses that the pager must bring. -/
def Tenant.awayPages (t : Tenant) (as : List Nat) : List Nat :=
  distinct (((t.pagesOf (as.filter fun a => (t.deny engUse a).isNone)).filter Page.absent).map (·.va))
/-- Pages of the addresses that cannot be read at all. -/
def Tenant.barredPages (t : Tenant) (as : List Nat) : List Nat := distinct ((as.filterMap (t.deny engUse)).map (·.2))
def Tenant.readable (t : Tenant) (as : List Nat) : Bool := (t.awayPages as).isEmpty && (t.barredPages as).isEmpty

/-- MM loads of an engine for the team `t`. -/
def State.engLoad (s : State) (after : List Hold) (as : List Nat) (t : Team) : Except Hold (List Byte × Team) :=
  loadBytes s.ten s.ctr after 0 as t

/-- What a descriptor read at issue gives (13 R267). -/
inductive Desc where
  | ok (bytes : List Byte) (t : Team)
  /-- misaligned, unmapped, or against its format -/
  | bad (t : Team)
  /-- pages that are not resident, and those that deny the read, which count so (21 R344) -/
  | away (pages denied : List Nat)
  /-- a load waits for a queued batch -/
  | wait
  /-- a poisoned sector (25 R391) -/
  | poisoned

/-- Is an address unmapped for an engine? A REMOTE page counts so (24 R378). -/
def Tenant.unmappedAt (t : Tenant) (a : Nat) : Bool := (t.deny engUse a).any fun d => d.1 == 0

/-- The bytes that the read of a descriptor looks up: none of a misaligned one. -/
def descSpan (va n align : Nat) : List Nat := if va % align != 0 then [] else vaSpan va n
/-- The bytes of a descriptor that has to be aligned and to pass a check. -/
def State.readDesc (s : State) (va n align : Nat) (ok : List Byte → Bool) (t : Team) : Desc :=
  let as := vaSpan va n
  if va % align != 0 || as.any s.ten.unmappedAt then .bad t
  else if !s.ten.readable as then .away (s.ten.awayPages as) (s.ten.barredPages as)
  else match s.engLoad [] as t with
    | .error h => if h.isPoison then .poisoned else .wait
    | .ok (bs, t) => if ok bs then .ok bs t else .bad t

/-! ### Replies -/

/-- What the service of one lane gives. -/
structure Served where
  ws : List RegWrite
  team : Team
  pages : List Nat := []
  dropped : Nat := 0
  /-- the addresses that were looked up in the block's first-level TLB, those in pages that are not resident among them (07 R169) -/
  vas : List Nat := []

/-- Requests for missing pages; those for pages that cannot be read are dropped and counted (R248). -/
def Tenant.ask (t : Tenant) (pages : List Nat) (dropped : Nat) : Tenant := { t.request pages with dropReq := t.dropReq + dropped }

/-- The captured form of a descriptor: 0 and its bytes, 1 malformed, 2 not resident. -/
def descCode : Desc → List Word
  | .ok bs _ => 0#32 :: toWords bs
  | .bad _ => [1#32]
  | _ => [2#32]
def Desc.team (d : Desc) (t : Team) : Team :=
  match d with
  | .ok _ t => t
  | .bad t => t
  | _ => t
/-- The pages to ask for, and how many may not be read. -/
def Desc.pages : Desc → List Nat × Nat
  | .away ps ds => (ps, ds.length)
  | _ => ([], 0)
def Desc.stall (d : Desc) (seen : List Nat) : Option Stop :=
  match d with
  | .wait => some .stall
  | .poisoned => some (.access cHwerr 0 0 seen)
  | _ => none
/-- The bytes that a request captured. -/
def EngReq.desc (q : EngReq) : List Byte := (q.sc.drop 1).flatMap leWord
def EngReq.kind (q : EngReq) : Nat := (q.sc.headD 0).toNat
def EngReq.arg (q : EngReq) (k i : Nat) : Word := (look [] k q.src).getD i 0

/-- The reply of an instruction becomes outstanding; the pages of its descriptor's bytes `seen` are looked up, and those that lack are asked
for. -/
def State.awaitEng (s : State) (d : Desc) (seen : List Nat) (dst : List Nat) (mk : List Nat) (q : EngReq) : State :=
  let s := (s.touchPages seen).onTen fun t => t.ask d.pages.1 d.pages.2
  let s := s.onTeam fun t => d.team t
  s.await { kind := .xc, vdst := dst.map fun r => (r, q.act ||| q.help), mdst := mk, req := some { q with va := s.here } }

/-- The approximate-mask bit of a lane (R249). -/
def maskBit (mk k : Nat) (on : Bool) : RegWrite := .m mk (maskOf [k]) (if on then maskOf [k] else 0)
/-- What a lane without a usable descriptor receives (R244, R251, 13 R267); a helper lane of these cases receives undefined values. -/
def State.noDesc (s : State) (q : EngReq) (d mk k n : Nat) : List RegWrite :=
  if q.act.getLsbD k then
    (List.range n).map (fun j => RegWrite.v (d + j) k 0) ++
      [maskBit mk k (q.kind == 2), .flag (if q.kind == 2 then stApprox else stInvalid)]
  else (List.range n).map fun j => .v (d + j) k (Config.freeIx s.ctr (3000 + j) k |> word)

/-! ### FP32 steps: a value and the STATUS bits on the way to it -/

def zeroE : Word × Word := (0, 0)
def mulE (a b : Word × Word) : Word × Word :=
  let x := (f32 a.1).mul (f32 b.1)
  (rne32 x, a.2 ||| b.2 ||| invalidOf [f32 a.1, f32 b.1] x)
def addE (a b : Word × Word) : Word × Word :=
  let x := fsum false [f32 a.1, f32 b.1]
  (rne32 x, a.2 ||| b.2 ||| invalidOf [f32 a.1, f32 b.1] x)
def subE (a b : Word × Word) : Word × Word :=
  let x := fsum false [f32 a.1, (f32 b.1).negate]
  (rne32 x, a.2 ||| b.2 ||| invalidOf [f32 a.1, f32 b.1] x)
/-- a × b + c with one rounding. -/
def fmaE (a b c : Word × Word) : Word × Word :=
  let x := fsum false [(f32 a.1).mul (f32 b.1), f32 c.1]
  (rne32 x, a.2 ||| b.2 ||| c.2 ||| invalidOf [f32 a.1, f32 b.1, f32 c.1] x)
def oneF : Word := 0x3F800000#32
def natF (n : Nat) : Word := rne32 (.fin false n 0)
def intF (i : Int) : Word := rne32 (intFv i)
/-- ⌊x⌋ of a finite value; 0 for any other. -/
def Fv.floor : Fv → Int
  | .fin n m e => let a : Int := if n then -(m : Int) else m
    if 0 ≤ e then a * 2 ^ e.toNat else a / 2 ^ (-e).toNat
  | _ => 0
/-- The nearest integer, ties away from zero, clamped to 0 … `top`; NaN gives 0 (R250, 13 R268). -/
def levelOf (top : Nat) : Fv → Nat
  | .nan => 0
  | .inf n => if n then 0 else top
  | .fin n m e => if n then 0 else min top (if 0 ≤ e then m * 2 ^ e.toNat else (2 * m + 2 ^ (-e).toNat) / 2 ^ ((-e).toNat + 1))
/-- A 16-bit element widened exactly to FP32 (04 R64). -/
def widen16 (f : FFmt) (x : Nat) : Word := rne32 (f.unpack x)

end Sys2Proof.Machine
end

