-- ==== Sys2Proof/Machine/HashGrid.lean ====
section
/-!
DEFINITION. Hash-grid fetch and scatter (12 R251 to R254, 13 R269, R270) and counter-based random numbers (12 R261, 13 R273).
-/
namespace Sys2Proof.Machine

/-! ### Descriptors (R251) -/

structure HgLevel where
  table : Nat
  n : Nat
  bf : Bool
  f : Nat
  t : Nat
  deriving DecidableEq, Repr

def hgHeaderOk (bs : List Byte) : Bool := decide (field bs 0 4 < 64) && decide (2 ≤ field bs 0 4 / 16) && field bs 4 60 == 0
def hgLevels (bs : List Byte) : Nat := field bs 0 1 % 16 + 1
def hgDim (bs : List Byte) : Nat := field bs 0 1 / 16

def readLevel (bs : List Byte) : HgLevel :=
  let c := field bs 12 4
  { table := field bs 0 7, n := field bs 8 4, bf := c / 512 == 1, f := 2 * 2 ^ (c / 128 % 4), t := c % 32 }
def levelOk (bs : List Byte) : Bool :=
  let l := readLevel bs
  let c := field bs 12 4
  field bs 7 1 == 0 && decide (c < 1024) && c / 128 % 4 != 3 && c / 32 % 4 == 0 && decide (4 ≤ l.t) && decide (l.t ≤ 24) &&
    decide (1 ≤ l.n) && decide (l.n ≤ 65535) && l.table % (2 * l.f) == 0
def levelBytes (bs : List Byte) : List (List Byte) := chunks bs.length 16 (bs.drop 64)
def readLevels (bs : List Byte) : List HgLevel := (levelBytes bs).map readLevel
/-- Features of all levels. -/
def features (ls : List HgLevel) : Nat := (ls.map (·.f)).foldl (· + ·) 0

/-- The dimension and the register count that the instruction declares (13 R269). -/
def dimOf (o : XOps) : Nat := o.lo8.toNat / 128 + 2
def countOf (o : XOps) : Nat := o.lo8.toNat % 128 + 1

/-- The header decides how many levels follow; dimension and feature count must agree with the instruction. -/
def State.hgDesc (s : State) (o : XOps) : Desc :=
  let va := (s.pairVA o.b.toNat).toNat
  match s.readDesc va 64 64 hgHeaderOk s.team with
  | .ok hdr t =>
    match s.readDesc ((va + 64) % 2 ^ 56) (16 * hgLevels hdr) 1 (fun bs => (chunks bs.length 16 bs).all levelOk) t with
    | .ok bs t =>
      if hgDim hdr == dimOf o && features (readLevels (hdr ++ bs)) == countOf o then .ok (hdr ++ bs) t else .bad t
    | x => x
  | x => x

/-- The bytes that its read looks up: the header, and the levels of a usable one. -/
def State.hgSeen (s : State) (o : XOps) : List Nat :=
  let va := (s.pairVA o.b.toNat).toNat
  descSpan va 64 64 ++
    match s.readDesc va 64 64 hgHeaderOk s.team with
    | .ok hdr _ => vaSpan ((va + 64) % 2 ^ 56) (16 * hgLevels hdr)
    | _ => []

/-! ### Cells (R252) -/

/-- A coordinate clamped to [0, 1]; NaN is 0 and sets INVALID. -/
def hgCoord (p : Word) : Word × Word :=
  let c : Word × Word := if (f32 p).isNan then (0, stInvalid) else (p, 0)
  (minNum (maxNum c.1 0) oneF, c.2)

/-- The corners of the cell of one level: (index, weight) in corner order. -/
def HgLevel.cell (l : HgLevel) (ps : List Word) : List (Nat × Word) :=
  let d := ps.length
  let axes : List (Nat × Word) := ps.map fun p =>
    let q := mulE ((hgCoord p).1, 0) (natF l.n, 0)
    let g := min (f32 q.1).floor.toNat (l.n - 1)
    (g, (subE q (natF g, 0)).1)
  let g (e : Nat) : Nat := (axes.getD e (0, 0)).1
  let f (e : Nat) : Word := (axes.getD e (0, 0)).2
  let size := 2 ^ l.t
  (List.range (2 ^ d)).map fun k =>
    let c (e : Nat) : Nat := if e < d then g e + (k / 2 ^ e % 2) else 0
    let idx := if (l.n + 1) ^ d ≤ size then c 0 + (l.n + 1) * c 1 + (l.n + 1) ^ 2 * c 2
      else (word (c 0) ^^^ (word (c 1) * 0x9E3779B1#32) ^^^ (word (c 2) * 0x85EBCA77#32)).toNat % size
    let side (e : Nat) : Word × Word := if k / 2 ^ e % 2 == 1 then (f e, 0) else subE (oneF, 0) (f e, 0)
    (idx, ((List.range (d - 1)).foldl (fun w e => mulE w (side (e + 1))) (side 0)).1)

def HgLevel.entry (l : HgLevel) (idx : Nat) : Nat := l.table + 2 * l.f * idx

/-! ### HGF -/

/-- The bytes that one level of a fetch reads. -/
def HgLevel.reads (l : HgLevel) (ps : List Word) : List Nat := (l.cell ps).flatMap fun c => vaSpan (l.entry c.1) (2 * l.f)

/-- One level of a fetch: its features with their STATUS bits. -/
def State.hgLevel (s : State) (q : EngReq) (l : HgLevel) (ps : List Word) (t : Team) : Except Hold (List (Word × Word) × Team) :=
  match s.engLoad q.after (l.reads ps) t with
  | .error x => .error x
  | .ok (bs, t) =>
    let es := chunks bs.length (2 * l.f) bs
    .ok ((List.range l.f).map fun j =>
      (List.zip (l.cell ps) es).foldl (fun acc p =>
        fmaE (p.1.2, 0) (widen16 (if l.bf then fBF16 else fF16) (field p.2 (2 * j) 2), 0) acc) zeroE, t)

/-- Is a level exact for a lane: no page was lacking at issue (mark 0), and none is when the level is read? -/
def State.hgExact (s : State) (ps : List Word) (l : HgLevel × Word) : Bool := l.2 == 0 && s.ten.readable (l.1.reads ps)
/-- What has gone since the issue. -/
def State.hgGone (s : State) (ps : List Word) (ls : List (HgLevel × Word)) : List Nat :=
  (ls.filter fun l => l.2 == 0 && !s.ten.readable (l.1.reads ps)).flatMap fun l => l.1.reads ps

/-- The levels in turn; the features of one that is not exact are +0. -/
def State.hgAll (s : State) (q : EngReq) (ps : List Word) : List (HgLevel × Word) → Team → Except Hold (List (Word × Word) × Team)
  | [], t => .ok ([], t)
  | l :: r, t =>
    match (if s.hgExact ps l then s.hgLevel q l.1 ps t else .ok (List.replicate l.1.f zeroE, t)) with
    | .error x => .error x
    | .ok (f, t) => (s.hgAll q ps r t).map fun p => (f ++ p.1, p.2)

/-- The reply of one lane; the request holds its coordinates and then one mark per level. -/
def State.serveHgf (s : State) (q : EngReq) (d mk k : Nat) : Except Hold Served :=
  let ps := (look [] k q.src).take (hgDim q.desc)
  let ls := (readLevels q.desc).zip ((look [] k q.src).drop (hgDim q.desc))
  match s.hgAll q ps ls s.team with
  | .error x => .error x
  | .ok (fs, t) =>
    let approx := ls.any fun l => !s.hgExact ps l
    let bits := fs.foldl (fun acc x => acc ||| x.2) (ps.foldl (fun acc p => acc ||| (hgCoord p).2) (if approx then stApprox else 0))
    .ok { ws := (List.range fs.length).map (fun j => RegWrite.v (d + j) k (fs.getD j zeroE).1) ++ [maskBit mk k approx, .flag bits]
          team := t, vas := (ls.filter fun l => l.2 == 0).flatMap fun l => l.1.reads ps
          pages := s.ten.awayPages (s.hgGone ps ls), dropped := (s.ten.barredPages (s.hgGone ps ls)).length }

def State.hgSrc (s : State) (o : XOps) (k : Nat) : List Word := (List.range (dimOf o)).map fun e => s.vreg (o.a.toNat + e) k
/-- The levels of a usable descriptor. -/
def Desc.levels (d : Desc) : List HgLevel := match d with | .ok bs _ => readLevels bs | _ => []
/-- What lane `k` lacks: the bytes of the levels with a page that is not resident when the fetch issues (14 R277; DEDUCED, log 71). -/
def State.hgLack (s : State) (o : XOps) (d : Desc) (k : Nat) : List Nat :=
  (d.levels.filter fun l => !s.ten.readable (l.reads (s.hgSrc o k))).flatMap fun l => l.reads (s.hgSrc o k)

def execHgf (o : XOps) (s : State) : Out :=
  issue (.hgf o) .scalar
    (fun s => firstOf [counterFree s.team.xc, budget s (group o.d (countOf o) ++ group o.a (dimOf o)) [] [], (s.hgDesc o).stall (s.hgSeen o)])
    (fun s =>
      let d := s.hgDesc o
      let lacks := s.active.map (s.hgLack o d)
      let dropped := (lacks.map fun as => (s.ten.barredPages as).length).foldl (· + ·) 0
      State.awaitEng ((s.touchPages (lacks.flatMap id)).onTen fun t => t.ask (s.ten.awayPages (lacks.flatMap id)) dropped) d (s.hgSeen o)
        (group o.d (countOf o)) [o.c.toNat]
        { ins := .hgf o, act := maskOf s.active, help := 0, sc := descCode d
          src := s.active.map fun k => (k, s.hgSrc o k ++
            d.levels.map fun l => if s.ten.readable (l.reads (s.hgSrc o k)) then 0 else 1) }) s

/-! ### HGS (R253, R254, 13 R270) -/

/-- The levels with the bases of their gradient tables and the first register of each. -/
def hgTables : Nat → Nat → List HgLevel → List (HgLevel × Nat × Nat)
  | _, _, [] => []
  | g, r, l :: ls => (l, g, r) :: hgTables (g + 4 * l.f * 2 ^ l.t) (r + l.f) ls

/-- The contributions of one lane as (address, value with STATUS bits), in corner and then level order. -/
def State.hgLane (s : State) (o : XOps) (tabs : List (HgLevel × Nat × Nat)) (k : Nat) : List (Nat × Word × Word) :=
  let ps := s.hgSrc o k
  let cells := tabs.map fun t => (t, t.1.cell ps)
  (List.range (2 ^ dimOf o)).flatMap fun c =>
    cells.flatMap fun p =>
      let q := p.2.getD c (0, 0)
      (List.range p.1.1.f).map fun j =>
        ((p.1.2.1 + 4 * p.1.1.f * q.1 + 4 * j) % 2 ^ 56, mulE (q.2, 0) (s.vreg (o.d.toNat + p.1.2.2 + j) k, 0))

/-- The sum per gradient word: the first contribution as it is, the later ones added in order. -/
def gather (xs : List (Nat × Word × Word)) : List (Nat × Word × Word) :=
  xs.foldl (fun acc x =>
    if acc.any (fun p => p.1 == x.1) then acc.map fun p => if p.1 == x.1 then (p.1, addE p.2 x.2) else p else acc ++ [x]) []

def State.hgSums (s : State) (o : XOps) (desc : Desc) : List (Nat × Word × Word) :=
  match desc with
  | .ok bs _ => gather (s.active.flatMap (s.hgLane o (hgTables (s.pairVA o.c.toNat).toNat 0 (readLevels bs))))
  | _ => []

/-- The pages of a descriptor that could be read. -/
def State.hgPages (s : State) (o : XOps) (desc : Desc) : List Nat :=
  match desc with
  | .ok _ _ => s.ten.pageVAs (s.hgSeen o)
  | _ => []

/-- HGS. The order of its additions among those of other instructions is left open (04 R80): its record has no stamp. -/
def execHgs (o : XOps) (s : State) : Out :=
  issue (.hgs o) .scalar
    (fun s =>
      let g := s.pairVA o.c.toNat
      let desc := s.hgDesc o
      let sums := s.hgSums o desc
      firstOf [budget s (group o.d (countOf o) ++ group o.a (dimOf o)) [] [],
        if g.toNat % 64 != 0 then some (.trap cAlign 0 noLane (g.setWidth 32)) else none,
        desc.stall (s.hgSeen o),
        (match desc with
          | .away ps ds =>
            let all := union (s.ten.pageVAs (vaSpan (s.pairVA o.b.toNat).toNat 64)) (union ps ds)
            some (if ds.isEmpty then .fault all else .barred all ds.length)
          | _ => none),
        roomRec s (!sums.isEmpty),
        (match s.pageStop { r := false, w := true, remote := false } (sums.flatMap fun p => vaSpan p.1 4) with
          | some (.fault ps) => some (.fault (union (s.hgPages o desc) ps))
          | some (.access c u i seen) => some (.access c u i (s.hgSeen o ++ seen))
          | x => x)])
    (fun s =>
      let desc := s.hgDesc o
      let sums := s.hgSums o desc
      let bits := match desc with
        | .ok _ _ => sums.foldl (fun acc x => acc ||| x.2.2)
            ((s.active.flatMap (s.hgSrc o)).foldl (fun acc p => acc ||| (hgCoord p).2) 0)
        | _ => stInvalid
      let s := s.touchPages (s.hgSeen o)
      let s := s.onTeam fun t => desc.team t
      let s := if s.active.isEmpty then s else s.flag bits
      if sums.isEmpty then s
      else (s.touchPages (sums.map (·.1))).addRec
        (.atomMm 0 3 (sums.map fun x => (x.1, x.2.1.setWidth 64, 0)) s.here none)) s

/-! ### RND -/

def rndWord (o : XOps) (x : Word) : Word := if o.fn == 0 then x else rne32 (.fin false (x >>> 8).toNat (-24))

def execRnd (o : XOps) (s : State) : Out :=
  let sb := o.lo8.getLsbD 0
  issue (.rnd o) .vector (fun s => vecs (if sb then [o.d, o.a] else [o.d, o.a, o.b]) s)
    (fun s => s.setLanes o.d.toNat (s.acting.map fun k =>
      (k, rndWord o (mix (s.vreg o.a.toNat k) (if sb then s.sval o.b else s.vreg o.b.toNat k))))) s

end Sys2Proof.Machine
end

