-- ==== Sys2Proof/Machine/Peers.lean ====
section
/-!
DEFINITION. Messages to the peers behind REMOTE pages (24 R378, R379).
-/
namespace Sys2Proof.Machine

/-- The mapping that a REMOTE address belongs to. -/
def Tenant.peerAt (t : Tenant) (a : Nat) : Option PeerMap :=
  match t.pageAt a with
  | some p => if p.st == .remote then findBy (·.idx) p.peer t.peers else none
  | none => none
/-- The remote key of a mapping (R377, R372), and the address at the peer. -/
def PeerMap.rkey (m : PeerMap) : Nat := m.pten * 65536 + m.win
def PeerMap.at (m : PeerMap) (a : Nat) : Nat := m.rva + (a - m.lva)

/-- The atomic at the peer that a lane becomes. -/
def Tenant.remoteAtom (t : Tenant) (a op ty : Nat) (x c : DWord) : List OutMsg :=
  match t.peerAt a with
  | some m => [.remoteAtomic m.peer m.rkey (m.at a) op ty x c]
  | none => []
/-- The reads at peers that a copy-in's bytes become. -/
def Tenant.remoteReads (t : Tenant) (as : List Nat) : List OutMsg :=
  as.flatMap fun a => match t.peerAt a with
    | some m => [.remoteRead m.peer m.rkey (m.at a) 1]
    | none => []

/-- The parts of a batch: the mappings that its records touch. -/
def Rec.addrs : Rec → List Nat
  | .copy ws => ws.flatMap fun w => span w.1 w.2.length
  | .atomMm _ ty xs _ _ => xs.flatMap fun x => span x.1 (atomBytes ty)
  | _ => []
/-- The mapping that stands for a peer's tenant among those of the tenant: its first. -/
def Tenant.peerOf (t : Tenant) (m : PeerMap) : Nat :=
  ((t.peers.find? fun x => x.peer == m.peer && x.pten == m.pten).map (·.idx)).getD m.idx
/-- The parts of a batch, one for each peer that its records touch. -/
def Tenant.partsOf (t : Tenant) (rs : List Rec) : List Nat :=
  distinct ((rs.flatMap Rec.addrs).filterMap fun a => (t.peerAt a).map t.peerOf)

/-- What a record does at the peer of part `p`, in order (R378). -/
def Tenant.remoteOps (t : Tenant) (p : Nat) (r : Rec) : List PartOp :=
  let dest (a : Nat) : Option PeerMap := (t.peerAt a).bind fun m => if t.peerOf m == p then some m else none
  match r with
  | .copy ws => ws.filterMap fun w => (dest w.1).map fun m => .write (word m.rkey) (BitVec.ofNat 64 (m.at w.1)) w.2
  | .atomMm op _ xs _ _ => xs.filterMap fun x => (dest x.1).map fun m => .atom (word m.rkey) (BitVec.ofNat 64 (m.at x.1)) op x.2.1 x.2.2
  | _ => []

/-- Does an operation at a peer touch byte `x` under key `k`? -/
def partTouches (k : Word) (x : Nat) : PartOp → Bool
  | .write j va data => j == k && decide (va.toNat ≤ x) && decide (x < va.toNat + data.length)
  | .atom j va _ _ _ => j == k && decide (va.toNat ≤ x) && decide (x < va.toNat + 8)
/-- A part without the bytes that a later write of it covers, no atomic touching them before: as at home, only the last bytes land (07 R163). -/
def landedPart : List PartOp → List PartOp
  | [] => []
  | .write k va data :: r =>
    let keep := (List.range data.length).filter fun i => match r.find? fun q => partTouches k (va.toNat + i) q with
      | some (.write _ _ _) => false
      | _ => true
    (if keep.length == data.length then [.write k va data] else keep.map fun i => .write k (va + BitVec.ofNat 64 i) [data.getD i 0]) ++ landedPart r
  | o :: r => o :: landedPart r

/-- The messages of a batch: to each peer its part as one, which the peer applies in one step (R379). -/
def Tenant.remoteSends (t : Tenant) (rs : List Rec) : List OutMsg :=
  (t.partsOf rs).filterMap fun p => (findBy (·.idx) p t.peers).map fun m => .remotePart m.peer (landedPart (rs.flatMap (t.remoteOps p)))

end Sys2Proof.Machine
end

