-- ==== Sys2Proof/Machine/Quad.lean ====
section
/-!
DEFINITION. Quad exchanges and derivatives (05 R111 to R113).
-/
namespace Sys2Proof.Machine

/-- A quad exchange: lane i takes the source register of lane `src i`, a lane of its quad (R112). -/
def quadOp (i : Instr) (o : ROps) (src : State → Nat → Nat) (s : State) : Out :=
  issue i .vector (vecs [o.d, o.a]) (fun s => s.setLanes o.d.toNat (s.acting.map fun k => (k, s.vreg o.a.toNat (src s k)))) s

def execQswph (o : ROps) (s : State) : Out := quadOp (.qswph o) o (fun _ i => i ^^^ 1) s
def execQswpv (o : ROps) (s : State) : Out := quadOp (.qswpv o) o (fun _ i => i ^^^ 2) s
def execQswpd (o : ROps) (s : State) : Out := quadOp (.qswpd o) o (fun _ i => i ^^^ 3) s
def execQbcst (o : ROps) (s : State) : Out := quadOp (.qbcst o) o (fun s i => i / 4 * 4 + (s.sval o.b).toNat % 4) s

/-- The difference of two lanes, always under RNE, with its STATUS bits; an exact zero difference is +0 (R113). -/
def diff (a b : Word) : Word × Word :=
  let r := fsum false [f32 a, (f32 b).negate]
  (if r.isZero then 0 else rne32 r, invalidOf [f32 a, f32 b] r)

/-- A quad derivative: lane i takes register of `hi i` less register of `lo i`. -/
def derivOp (i : Instr) (o : ROps) (hi lo : Nat → Nat) (s : State) : Out :=
  issue i .vector (vecs [o.d, o.a]) (fun s =>
    let xs := s.acting.map fun k => (k, diff (s.vreg o.a.toNat (hi k)) (s.vreg o.a.toNat (lo k)))
    (s.setLanes o.d.toNat (xs.map fun x => (x.1, x.2.1))).flag (flagsOf s.active xs)) s

def execQddx (o : ROps) (s : State) : Out := derivOp (.qddx o) o (fun i => i / 2 * 2 + 1) (fun i => i / 2 * 2) s
def execQddy (o : ROps) (s : State) : Out :=
  derivOp (.qddy o) o (fun i => i / 4 * 4 + i % 2 + 2) (fun i => i / 4 * 4 + i % 2) s

end Sys2Proof.Machine
end

