-- ==== Sys2Proof/Machine/Sampler.lean ====
section
/-!
DEFINITION. Texture fetches (12 R244 to R250, 13 R265 to R268).
-/
namespace Sys2Proof.Machine

/-! ### Descriptors (R244 to R246) -/

structure Tex where
  base : Nat
  w : Nat
  h : Nat
  bilinear : Bool
  addr : Nat
  fmt : Nat
  top : Nat
  lat : Nat
  wts : List Word
  bias : List Word
  deriving DecidableEq, Repr

def texOk (bs : List Byte) : Bool :=
  let c := field bs 0x0C 4
  field bs 7 1 == 0 && decide (c < 2 ^ 11) && c / 256 % 4 != 3 && decide (c / 16 % 16 ≤ 2) && field bs 0x17 1 == 0 &&
    field bs 0x10 7 % 64 == 0 && field bs 0x18 8 == 0 && field bs 0xB0 80 == 0

def readTex (bs : List Byte) : Tex :=
  let c := field bs 0x0C 4
  { base := field bs 0 7, w := field bs 8 2 + 1, h := field bs 10 2 + 1, bilinear := c / 1024 % 2 == 1, addr := c / 256 % 4
    fmt := c / 16 % 16, top := c % 16, lat := field bs 0x10 7
    wts := (List.range 32).map fun k => word (field bs (0x20 + 4 * k) 4)
    bias := (List.range 4).map fun k => word (field bs (0xA0 + 4 * k) 4) }

def Tex.size (t : Tex) : Nat := if t.fmt == 0 then 4 else if t.fmt == 1 then 8 else 16
def Tex.wAt (t : Tex) (l : Nat) : Nat := max 1 (t.w / 2 ^ l)
def Tex.hAt (t : Tex) (l : Nat) : Nat := max 1 (t.h / 2 ^ l)
/-- Texel (i, j) of level l. -/
def Tex.texel (t : Tex) (l i j : Nat) : Nat :=
  (t.base + t.size * (((List.range l).map fun m => t.wAt m * t.hAt m).foldl (· + ·) 0 + j * t.wAt l + i)) % 2 ^ 56
/-- Latent texel (i, j), 16 bytes. -/
def Tex.latent (t : Tex) (i j : Nat) : Nat := (t.lat + 16 * (j * ((t.w + 15) / 16) + i)) % 2 ^ 56
/-- The four FP32 channels of a texel (R245). -/
def Tex.channels (t : Tex) (bs : List Byte) : List Word :=
  (List.range 4).map fun c =>
    if t.fmt == 0 then rne32 ((Fv.fin false (field bs c 1) 0).div (.fin false 255 0))
    else if t.fmt == 1 then widen16 fF16 (field bs (2 * c) 2) else word (field bs (4 * c) 4)

/-! ### Filtering (R247) -/

/-- An index mapped by ADDR onto 0 … n − 1. -/
def addrMap (addr n : Nat) (c : Int) : Nat :=
  if addr == 0 then (c % (n : Int)).toNat
  else if addr == 1 then (min (max c 0) (n - 1 : Nat)).toNat
  else mirror false n c

/-- The texels of a footprint on a grid, and the two fractions. -/
structure Foot where
  ij : List (Nat × Nat)
  fx : Word × Word := (0, 0)
  fy : Word × Word := (0, 0)
  deriving DecidableEq, Repr

/-- The index of a value on a grid of `n`: its floor; an infinity stands beyond the edge, where clamping finds it. -/
def gridIndex (n : Nat) (x : Fv) : Int :=
  match x with
  | .inf neg => if neg then -2 else (n : Int)
  | x => x.floor

/-- The index of x, and x less its floor with the STATUS bits; the difference of infinities is NaN. -/
def fraction (n : Nat) (x : Word) : Int × (Word × Word) :=
  let i := gridIndex n (f32 x)
  (i, if (f32 x).isInf then subE (x, 0) (x, 0) else subE (x, 0) (intF i, 0))

/-- The footprint of a coordinate. ADDR maps texel indices alone, never u or v (R247; DESIGN CHOICE, log 88). -/
def footBilinear (addr w h : Nat) (u v : Word) : Foot :=
  let half : Word := 0x3F000000#32
  let x := fraction w (subE (mulE (u, 0) (natF w, 0)) (half, 0)).1
  let y := fraction h (subE (mulE (v, 0) (natF h, 0)) (half, 0)).1
  { ij := [(0, 0), (1, 0), (0, 1), (1, 1)].map fun (p : Nat × Nat) => (addrMap addr w (x.1 + p.1), addrMap addr h (y.1 + p.2))
    fx := x.2, fy := y.2 }
def footNearest (addr w h : Nat) (u v : Word) : Foot :=
  { ij := [(addrMap addr w (gridIndex w (f32 (mulE (u, 0) (natF w, 0)).1)),
      addrMap addr h (gridIndex h (f32 (mulE (v, 0) (natF h, 0)).1)))] }

/-- One channel of a footprint: the texel itself, or the bilinear mean. -/
def Foot.filter (f : Foot) (ts : List Word) : Word × Word :=
  match ts with
  | [t00, t10, t01, t11] =>
    let gx := subE (oneF, 0) f.fx
    let gy := subE (oneF, 0) f.fy
    let r0 := addE (mulE (t00, 0) gx) (mulE (t10, 0) f.fx)
    let r1 := addE (mulE (t01, 0) gx) (mulE (t11, 0) f.fx)
    addE (mulE r0 gy) (mulE r1 f.fy)
  | ts => (ts.headD 0, 0)

/-- Does a coordinate on a grid of `n` have no index? Wrap and mirror state none for an infinite or overflowing one. -/
def unbounded (addr n : Nat) (u : Word) : Bool := addr != 1 && !(f32 u).isNan && (f32 (mulE (u, 0) (natF n, 0)).1).isInf

/-! ### One lane -/

/-- A NaN coordinate is taken as 0 (R247). -/
def coord (u : Word) : Word × Word := if (f32 u).isNan then (0, stInvalid) else (u, 0)

/-- λ of R250 from the quad differences. Where only some products are NaN, the maximum is either NaN or that of the others. -/
def Tex.lambda (t : Tex) (n : Nat) (ds : List Word) : Fv :=
  let ab (x : Word) : Word := x &&& 0x7FFFFFFF#32
  let ps := (ds.zip [t.w, t.h, t.w, t.h]).map fun p => (mulE (ab p.1, 0) (natF p.2, 0)).1
  if ps.any (fun p => (f32 p).isNan) && n % 2 == 1 then .nan
  else f32 (rne32 (f32 (ps.foldl maxNum qnan32)).log2)

/-- The bytes of latent texels; one in a page that cannot be read gives zeros (R248). -/
def State.latents (s : State) (q : EngReq) : List Nat → Team → Except Hold (List (List Byte) × Team)
  | [], t => .ok ([], t)
  | a :: r, t =>
    if s.ten.readable (vaSpan a 16) then
      match s.engLoad q.after (vaSpan a 16) t with
      | .error x => .error x
      | .ok (bs, t) => (s.latents q r t).map fun p => (bs :: p.1, p.2)
    else (s.latents q r t).map fun p => (List.replicate 16 0 :: p.1, p.2)

/-- The decoder of the latent path (R248). -/
def Tex.decode (t : Tex) (lat : List (Word × Word)) : List (Word × Word) :=
  (List.range 4).map fun c =>
    (List.range 8).foldl (fun acc k => fmaE (t.wts.getD (8 * c + k) 0, 0) (lat.getD k zeroE) acc) (t.bias.getD c 0, 0)

/-- The reply of one lane of a fetch, and which pages it lacks. -/
def State.serveTex (s : State) (q : EngReq) (d mk k : Nat) (explicit : Bool) : Except Hold Served :=
  let t := readTex q.desc
  let on := q.act.getLsbD k
  let u := coord (q.arg k 0)
  let v := coord (q.arg k 1)
  let l := if explicit then levelOf t.top (f32 (q.arg k 2))
    else levelOf t.top (t.lambda (Config.freeIx s.ctr 3100 k) ((List.range 4).map fun i => q.arg k (2 + i)))
  let reply (xs : List (Word × Word)) (approx : Bool) : List RegWrite :=
    (List.range 4).map (fun c => RegWrite.v (d + c) k (xs.getD c zeroE).1) ++
      if on then [maskBit mk k approx,
        .flag (xs.foldl (fun acc x => acc ||| x.2) (u.2 ||| v.2 ||| if approx then stApprox else 0))] else []
  let open_ : List (Word × Word) := (List.range 4).map fun c => (word (Config.freeIx s.ctr (3200 + c) k),
    if Config.freeIx s.ctr 3210 k % 2 == 1 then stInvalid else 0)
  if unbounded t.addr (t.wAt l) u.1 || unbounded t.addr (t.hAt l) v.1 then
    .ok { ws := reply open_ (Config.freeIx s.ctr 3220 k % 2 == 1), team := s.team }
  else
    let f := if t.bilinear then footBilinear t.addr (t.wAt l) (t.hAt l) u.1 v.1 else footNearest t.addr (t.wAt l) (t.hAt l) u.1 v.1
    let as := f.ij.map fun p => t.texel l p.1 p.2
    let all := as.flatMap fun a => vaSpan a t.size
    if s.ten.readable all then
      match s.engLoad q.after all s.team with
      | .error x => .error x
      | .ok (bs, team) =>
        let ts := (chunks bs.length t.size bs).map t.channels
        .ok { ws := reply ((List.range 4).map fun c => f.filter (ts.map fun x => x.getD c 0)) false, team := team, vas := all }
    else if unbounded t.addr ((t.w + 15) / 16) u.1 || unbounded t.addr ((t.h + 15) / 16) v.1 then
      .ok { ws := reply open_ true, team := s.team
            pages := if on then s.ten.awayPages all else []
            dropped := if on then (s.ten.barredPages all).length else 0, vas := all }
    else
      let g := footBilinear t.addr ((t.w + 15) / 16) ((t.h + 15) / 16) u.1 v.1
      let ls := g.ij.map fun p => t.latent p.1 p.2
      match s.latents q ls s.team with
      | .error x => .error x
      | .ok (bs, team) =>
        let lat := (List.range 8).map fun c => g.filter (bs.map fun b => widen16 fF16 (field b (2 * c) 2))
        let need := all ++ ls.flatMap fun a => vaSpan a 16
        .ok { ws := reply (t.decode lat) true, team := team, vas := need
              pages := if on then s.ten.awayPages need else []
              dropped := if on then (s.ten.barredPages need).length else 0 }

/-! ### Instructions (13 R268) -/

def State.texDesc (s : State) (o : XOps) : Desc := s.readDesc (s.pairVA o.b.toNat).toNat 256 256 texOk s.team
def State.texSeen (s : State) (o : XOps) : List Nat := descSpan (s.pairVA o.b.toNat).toNat 256 256

def texChk (o : XOps) (n : Nat) (s : State) : Option Stop :=
  firstOf [counterFree s.team.xc, budget s (group o.d 4 ++ group o.a n) [] [], (s.texDesc o).stall (s.texSeen o)]

/-- The coordinates of lane `k` and the quad differences of both, as QDDX and QDDY take them (R250). -/
def State.texSrc (s : State) (o : XOps) (k : Nat) : List Word :=
  let g (c i : Nat) : Word := s.vreg (o.a.toNat + c) i
  let dx (c : Nat) : Word := (diff (g c (k / 2 * 2 + 1)) (g c (k / 2 * 2))).1
  let dy (c : Nat) : Word := (diff (g c (k / 4 * 4 + k % 2 + 2)) (g c (k / 4 * 4 + k % 2))).1
  [g 0 k, g 1 k, dx 0, dx 1, dy 0, dy 1]

def execTex (o : XOps) (s : State) : Out :=
  issue (.tex o) .scalar (texChk o 2)
    (fun s => s.awaitEng (s.texDesc o) (s.texSeen o) (group o.d 4) [o.c.toNat]
      { ins := .tex o, act := maskOf s.active, help := maskOf s.helpers, src := s.acting.map fun k => (k, s.texSrc o k)
        sc := descCode (s.texDesc o) }) s

def execTexld (o : XOps) (s : State) : Out :=
  issue (.texld o) .scalar (texChk o 3)
    (fun s => s.awaitEng (s.texDesc o) (s.texSeen o) (group o.d 4) [o.c.toNat]
      { ins := .texld o, act := maskOf s.active, help := 0
        src := s.active.map fun k => (k, (List.range 3).map fun c => s.vreg (o.a.toNat + c) k)
        sc := descCode (s.texDesc o) }) s

end Sys2Proof.Machine
end

