-- ==== Sys2Proof/Machine/Trace.lean ====
section
/-!
DEFINITION. Ray queries (12 R255 to R260, 13 R271, R272).
-/
namespace Sys2Proof.Machine

/-! ### FP32 steps, RNE (R257, R258) -/

def mulR (a b : Word) : Word := (mulE (a, 0) (b, 0)).1
def addR (a b : Word) : Word := (addE (a, 0) (b, 0)).1
def subR (a b : Word) : Word := (subE (a, 0) (b, 0)).1
def fmaR (a b c : Word) : Word := (fmaE (a, 0) (b, 0) (c, 0)).1
def rcpR (a : Word) : Word := rne32 (f32 a).rcp
def leR (a b : Word) : Bool := relF 3 (f32 a) (f32 b)
def ltR (a b : Word) : Bool := relF 2 (f32 a) (f32 b)
def negF (a : Word) : Word := a ^^^ 0x80000000#32

structure V3 where
  x : Word
  y : Word
  z : Word
  deriving DecidableEq, Repr

def V3.list (a : V3) : List Word := [a.x, a.y, a.z]
def V3.map (f : Word → Word) (a : V3) : V3 := { x := f a.x, y := f a.y, z := f a.z }
def v3At (ws : List Word) (k : Nat) : V3 := { x := ws.getD k 0, y := ws.getD (k + 1) 0, z := ws.getD (k + 2) 0 }
def V3.sub (a b : V3) : V3 := { x := subR a.x b.x, y := subR a.y b.y, z := subR a.z b.z }
def crossR (a b c d : Word) : Word := fmaR a b (negF (mulR c d))
def V3.cross (a b : V3) : V3 :=
  { x := crossR a.y b.z a.z b.y, y := crossR a.z b.x a.x b.z, z := crossR a.x b.y a.y b.x }
def V3.dot (a b : V3) : Word := fmaR a.z b.z (fmaR a.y b.y (mulR a.x b.x))

/-! ### A query -/

/-- A hit: t, u, v, primitive, instance. -/
structure Hit where
  t : Word
  u : Word
  v : Word
  prim : Word
  inst : Word
  deriving DecidableEq, Repr

/-- A stack entry: child, branch level, VA of its instance node (R259). -/
structure Branch where
  child : Nat
  level : Nat
  under : Option Nat
  deriving DecidableEq, Repr

/-- A query on its way (R259); `inst` is the instance node that the ray is in, with its id. -/
structure Ray where
  wo : V3
  wd : V3
  tmin : Word
  tbest : Word
  o : V3
  d : V3
  inv : V3
  inst : Option (Nat × Word) := none
  best : Option Hit := none
  trail : Nat := 0
  stack : List Branch := []
  spilled : Bool := false
  /-- the nodes read -/
  seen : List Nat := []
  team : Team

/-- Why a query stops. -/
inductive Halt where
  | done
  | nonres (va : Nat)
  | bad
  | wait (x : Hold)
  deriving DecidableEq, Repr

/-- What comes next: a reference at a level, or the end. -/
inductive Next where
  | go (ref level : Nat)
  | stop (h : Halt)
  deriving DecidableEq, Repr

/-- A 64-byte node, as 16 words. -/
def State.node (s : State) (q : EngReq) (va : Nat) (t : Team) : Except Halt (List Word × Team) :=
  let as := vaSpan va 64
  if s.ten.readable as then
    match s.engLoad q.after as t with
    | .error x => .error (.wait x)
    | .ok (bs, t) => .ok (toWords bs, t)
  else .error (.nonres va)

/-- A child reference of R255: kind, number of leaves, VA; none when a field breaks the rules. -/
def refOf (r : Nat) : Option (Nat × Nat × Nat) :=
  let kind := r / 2 ^ 60
  let cm := r / 2 ^ 56 % 16
  if kind ≤ 3 && r % 64 == 0 && (cm == 0 || kind == 2) then some (kind, cm + 1, r % 2 ^ 56) else none
def refKind (r : Nat) : Nat := r / 2 ^ 60
def refAt (ws : List Word) (k : Nat) : Nat := (ws.getD k 0).toNat + 2 ^ 32 * (ws.getD (k + 1) 0).toNat

def Ray.set (r : Ray) (o d : V3) (inst : Option (Nat × Word)) : Ray := { r with o := o, d := d, inv := d.map rcpR, inst := inst }
def Ray.world (r : Ray) : Ray := r.set r.wo r.wd none

/-- One row of the matrix applied to a point, and to a direction (R256). -/
def rowDir (m : List Word) (d : V3) : Word := fmaR (m.getD 2 0) d.z (fmaR (m.getD 1 0) d.y (mulR (m.getD 0 0) d.x))
def rowPoint (m : List Word) (o : V3) : Word := addR (rowDir m o) (m.getD 3 0)

/-- The ray enters the instance node at `va`; its bottom-level root. -/
def State.enter (s : State) (q : EngReq) (r : Ray) (va : Nat) : Ray × (Except Halt Nat) :=
  match s.node q va r.team with
  | .error h => (r, .error h)
  | .ok (ws, t) =>
    let r := { r with team := t, seen := va :: r.seen }
    let root := refAt ws 12
    if ws.getD 15 0 != 0 || (refOf root).isNone || (refKind root != 1 && refKind root != 2) then (r, .error .bad)
    else
      let m (k : Nat) : List Word := (ws.drop (4 * k)).take 4
      let o : V3 := { x := rowPoint (m 0) r.wo, y := rowPoint (m 1) r.wo, z := rowPoint (m 2) r.wo }
      let d : V3 := { x := rowDir (m 0) r.wd, y := rowDir (m 1) r.wd, z := rowDir (m 2) r.wd }
      (r.set o d (some (va, ws.getD 14 0)), .ok root)

/-- tnear of a box and whether it is hit (R257). -/
def Ray.box (r : Ray) (lo hi : V3) : Word × Bool :=
  let slab (b o i : Word) : Word := mulR (subR b o) i
  let ts := [(slab lo.x r.o.x r.inv.x, slab hi.x r.o.x r.inv.x), (slab lo.y r.o.y r.inv.y, slab hi.y r.o.y r.inv.y),
    (slab lo.z r.o.z r.inv.z, slab hi.z r.o.z r.inv.z)]
  let near := ts.foldl (fun n p => maxNum n (minNum p.1 p.2)) r.tmin
  let far := ts.foldl (fun f p => minNum f (maxNum p.1 p.2)) r.tbest
  (near, leR near far)

/-- The triangle test (R258). -/
def Ray.triangle (r : Ray) (ws : List Word) : Ray :=
  let v0 := v3At ws 0
  let e1 := (v3At ws 3).sub v0
  let e2 := (v3At ws 6).sub v0
  let p := r.d.cross e2
  let det := e1.dot p
  if (f32 det).isZero || (f32 det).isNan || ((ws.getD 10 0).getLsbD 0 && (f32 det).neg) then r
  else
    let inv := rcpR det
    let a := r.o.sub v0
    let u := mulR (a.dot p) inv
    if !(leR 0 u && leR u oneF) then r
    else
      let c := a.cross e1
      let v := mulR (r.d.dot c) inv
      if !(leR 0 v && leR (addR u v) oneF) then r
      else
        let t := mulR (e2.dot c) inv
        if leR r.tmin t && ltR t r.tbest then
          { r with tbest := t, best := some { t := t, u := u, v := v, prim := ws.getD 9 0, inst := (r.inst.map (·.2)).getD 0xFFFFFFFF#32 } }
        else r

/-- The leaves of one reference, in node order; none when all have been tested. -/
def State.leaves (s : State) (q : EngReq) (va : Nat) : List Nat → Ray → Ray × Option Halt
  | [], r => (r, none)
  | k :: ks, r =>
    match s.node q ((va + 64 * k) % 2 ^ 56) r.team with
    | .error h => (r, some h)
    | .ok (ws, t) =>
      let r := { r with team := t, seen := (va + 64 * k) % 2 ^ 56 :: r.seen }
      if 1 < (ws.getD 10 0).toNat || (ws.drop 11).any (· != 0) then (r, some .bad) else s.leaves q va ks (r.triangle ws)

/-- Pop from a node of level `l` (R259). -/
def State.popNode (s : State) (q : EngReq) (r : Ray) (root l : Nat) : Ray × Next :=
  match (List.range l).reverse.find? fun k => !r.trail.testBit k with
  | none => (r, .stop .done)
  | some k =>
    let r := { r with trail := r.trail % 2 ^ k + 2 ^ k }
    match r.stack with
    | b :: rest =>
      let r := Ray.world { r with stack := rest }
      match b.under with
      | none => (r, .go b.child (k + 1))
      | some va => match s.enter q r va with
        | (r, .ok _) => (r, .go b.child (k + 1))
        | (r, .error h) => (r, .stop h)
    | [] => if r.spilled then (r.world, .go root 0) else (r, .stop .done)

/-- A child is pushed; the newest entry stands first, the oldest of eight is dropped. -/
def Ray.push (r : Ray) (child l : Nat) : Ray :=
  { r with
    spilled := r.spilled || decide (8 ≤ r.stack.length)
    stack := { child := child, level := l, under := r.inst.map (·.1) } :: r.stack.take 7 }

/-- An INSTANCE reference among the children of an interior node of a bottom level ends the query when the node is read or when the
reference is followed: `early` says which. -/
def State.interior (s : State) (q : EngReq) (early : Bool) (r : Ray) (root va l : Nat) : Ray × Next :=
  match s.node q va r.team with
  | .error h => (r, .stop h)
  | .ok (ws, t) =>
    let r := { r with team := t, seen := va :: r.seen }
    let c0 := refAt ws 12
    let c1 := refAt ws 14
    if (refOf c0).isNone || (refOf c1).isNone || (early && r.inst.isSome && (refKind c0 == 3 || refKind c1 == 3)) then (r, .stop .bad)
    else
      let b0 := r.box (v3At ws 0) (v3At ws 3)
      let b1 := r.box (v3At ws 6) (v3At ws 9)
      let h0 := b0.2 && refKind c0 != 0
      let h1 := b1.2 && refKind c1 != 0
      let swap := ltR b1.1 b0.1
      let first := if swap then (c1, h1) else (c0, h0)
      let second := if swap then (c0, h0) else (c1, h1)
      let bit := r.trail.testBit l
      if first.2 && second.2 then
        if bit then (r, .go second.1 (l + 1)) else (r.push second.1 l, .go first.1 (l + 1))
      else if first.2 && bit then s.popNode q r root l
      else if first.2 || second.2 then
        ({ r with trail := r.trail ||| 2 ^ l }, .go (if first.2 then first.1 else second.1) (l + 1))
      else s.popNode q r root l

/-- The visit of a node (R259). -/
def State.visit (s : State) (q : EngReq) (early : Bool) (r : Ray) (root ref l : Nat) : Ray × Next :=
  match refOf ref with
  | none => (r, .stop .bad)
  | some (kind, n, va) =>
    if kind == 0 then s.popNode q r root l
    else if 64 ≤ l then (r, .stop .bad)
    else if kind == 1 then s.interior q early r root va l
    else if kind == 2 then
      match s.leaves q va (List.range n) r with
      | (r, some h) => (r, .stop h)
      | (r, none) => s.popNode q r root l
    else if r.inst.isSome then (r, .stop .bad)
    else match s.enter q { r with trail := r.trail ||| 2 ^ l } va with
      | (r, .ok bottom) => (r, .go bottom (l + 1))
      | (r, .error h) => (r, .stop h)

/-- Visits until the query ends. The trail, read with level 0 as its highest bit, rises at every pop, and at most 64 descents lie
between two pops, so 2^72 visits are never reached. -/
def State.walk (s : State) (q : EngReq) (early : Bool) (root : Nat) : Nat → Ray → Nat → Nat → Ray × Halt
  | 0, r, _, _ => (r, .done)
  | fuel + 1, r, ref, l =>
    match s.visit q early r root ref l with
    | (r, .stop h) => (r, h)
    | (r, .go ref l) => s.walk q early root fuel r ref l

/-! ### Results (R260, R272) -/

def finite (x : Word) : Bool := match f32 x with | .fin _ _ _ => true | _ => false
/-- The conditions under which no query runs (R260): 2 INVALID, 1 MISS. -/
def rayStatus (o d : V3) (tmin tmax : Word) : Option Nat :=
  if !((o.list ++ d.list).all finite) || d.list.all (fun x => (f32 x).isZero) || (f32 tmin).isNan || (f32 tmax).isNan then some 2
  else if ltR tmax tmin then some 1 else none

def hitWords : Option Hit → List Word
  | none => [0x7F800000#32, 0, 0, 0xFFFFFFFF#32, 0xFFFFFFFF#32]
  | some h => [h.t, h.u, h.v, h.prim, h.inst]

/-- The eight result registers. -/
def resultWords (status : Nat) (best : Option Hit) (va : Nat) : List Word := word status :: hitWords best ++ [word va, word (va / 2 ^ 32)]

/-- The service of TRACE for one lane (12 R255 to R260). A NaN that the box or triangle tests make sets no INVALID: the spec names RAYBAD alone
for TRACE, and 04 R65 does not say whether these steps are its operations (DESIGN CHOICE, log 80). -/
def State.serveTrace (s : State) (q : EngReq) (d k : Nat) : Except Hold Served :=
  let g (i : Nat) : Word := q.arg k i
  let o : V3 := { x := g 0, y := g 1, z := g 2 }
  let dir : V3 := { x := g 3, y := g 4, z := g 5 }
  let writes (xs : List Word) : List RegWrite := (List.range 8).map fun j => .v (d + j) k (xs.getD j 0)
  match rayStatus o dir (g 6) (g 7) with
  | some st =>
    .ok { ws := writes (resultWords st none 0) ++ (if st == 2 then [.flag stRaybad] else []), team := s.team }
  | none =>
    let root := refAt q.sc 0
    let r : Ray := { wo := o, wd := dir, tmin := g 6, tbest := g 7, o := o, d := dir, inv := dir.map rcpR, team := s.team }
    match s.walk q (Config.freeIx s.ctr 3300 k % 2 == 1) root (2 ^ 72) r root 0 with
    | (r, .done) => .ok { ws := writes (resultWords (if r.best.isSome then 0 else 1) r.best 0), team := r.team, vas := r.seen }
    | (r, .bad) => .ok { ws := writes (resultWords 4 r.best 0), team := r.team, vas := r.seen }
    | (r, .nonres va) =>
      .ok { ws := writes (resultWords 3 r.best va), team := r.team, vas := va :: r.seen, pages := s.ten.awayPages (vaSpan va 64)
            dropped := (s.ten.barredPages (vaSpan va 64)).length }
    | (_, .wait x) => .error x

def execTrace (o : XOps) (s : State) : Out :=
  issue (.trace o) .scalar
    (fun s => firstOf [counterFree s.team.xc, budget s (group o.d 8 ++ group o.a 8) [] []])
    (fun s => s.await
      { kind := .xc, vdst := (group o.d 8).map fun r => (r, maskOf s.active)
        req := some
          { ins := .trace o, act := maskOf s.active, help := 0
            src := s.active.map fun k => (k, (List.range 8).map fun i => s.vreg (o.a.toNat + i) k)
            sc := [s.sreg o.b.toNat, s.sreg (o.b.toNat + 1)], va := s.here } }) s

end Sys2Proof.Machine
end

