-- ==== Sys2Proof/Machine/WorldOps.lean ====
section
/-!
DEFINITION. World-store and launch instructions (18 R316 to R322).
-/
namespace Sys2Proof.Machine

/-! ### Selectors and view ticks (R303, R316) -/

/-- The world and type of a selector; none where it raises ILLEGAL. A world that the launch did not pin counts as unregistered. -/
def State.selector (s : State) (x : Word) (typed : Bool) : Option (World × Nat) :=
  let n := (x.extractLsb' 8 4).toNat
  let ty := x.toNat % 256
  match s.ten.world? n with
  | none => none
  | some w =>
    if decide (x.toNat < 4096) && (s.launch?.any fun l => l.pins.any fun p => p.1 == n) &&
        (if typed then look 0 ty w.types != 0 else ty == 0) then some (w, ty) else none

/-- The view tick of the team's launch on a world. -/
def State.viewTick (s : State) (w : World) : Tick :=
  match s.launch? with
  | none => w.p
  | some l =>
    if l.rc.kind == 1 && l.rc.world == w.num then w.w
    else match l.pins.find? fun p => p.1 == w.num with
      | none => w.p
      | some p => match w.d with
        | some d => if d.num == p.2 then d else w.p
        | none => w.p

/-- First and last byte of a chunk, which between them touch all its pages. -/
def ends (va size : Nat) : List Nat := [va, va + size - 1]

/-- First and last byte of each of some ranges (VA, size). -/
def endsOf (rs : List (Nat × Nat)) : List Nat := rs.flatMap fun r => ends r.1 r.2
/-- Does a range hold a byte of a poisoned sector (25 R391)? -/
def Tenant.poisonIn (t : Tenant) (r : Nat × Nat) : Bool := t.poison.any fun p => decide (32 * p < r.1 + r.2) && decide (r.1 < 32 * p + 32)

/-- The table engine's reads and writes of ranges of the pool (21 R344): ACCESS first, then the fault that names every page; a read of a
poisoned sector ends the team with HWERR (25 R391). -/
def State.poolStop (s : State) (reads writes : List (Nat × Nat)) : Option Stop :=
  match s.pageStop { r := true, w := false, remote := false } (endsOf reads),
    s.pageStop { r := false, w := true, remote := false } (endsOf writes) with
  | some (.access c u i _), _ => some (.access c u i (endsOf reads ++ endsOf writes))
  | _, some (.access c u i _) => some (.access c u i (endsOf reads ++ endsOf writes))
  | none, none => if reads.any s.ten.poisonIn then some (.access cHwerr 0 0 (endsOf reads ++ endsOf writes)) else none
  | _, _ => some (.fault (s.ten.pageVAs (endsOf reads ++ endsOf writes)))

/-- The request of a table instruction, one list of words per lane. -/
def State.tableReq (s : State) (i : Instr) (sc : List Word) (src : Nat → List Word) : EngReq :=
  { ins := i, act := maskOf s.active, help := 0, src := s.active.map fun k => (k, src k), sc := sc
    va := s.here }

/-- A table instruction whose reply is served later. -/
def State.awaitTable (s : State) (d : Byte) (n : Nat) (q : EngReq) : State :=
  s.await { kind := .tc, vdst := (group d n).map fun r => (r, q.act), req := some q }

def illegalSel (s : State) (x : Word) (typed : Bool) : Option Stop :=
  if (s.selector x typed).isNone then trapTeam cIllegal subReserved else none

/-! ### TRES and TVIEW -/

def execTres (o : XOps) (s : State) : Out :=
  issue (.tres o) .scalar
    (fun s => firstOf [illegalSel s (s.sval o.b) (o.fn == 0), counterFree s.team.tc, budget s (group o.d 3 ++ group o.a 2) [] []])
    (fun s => s.awaitTable o.d 3 (s.tableReq (.tres o) [s.sval o.b] fun k => (group o.a 2).map fun r => s.vreg r k)) s

def execTview (o : XOps) (s : State) : Out :=
  issue (.tview o) .scalar
    (fun s => firstOf [illegalSel s (s.sval o.b) true, counterFree s.team.tc, budget s (o.a.toNat :: group o.d 5) [] []])
    (fun s => s.awaitTable o.d 5
      (s.tableReq (.tview o) (s.sval o.b :: if o.fn == 2 then [s.sreg o.c.toNat, s.sreg (o.c.toNat + 1)] else [])
        fun k => [s.vreg o.a.toNat k])) s

/-- The handle of lane `k` of a request. -/
def EngReq.handle (q : EngReq) (k : Nat) : DWord := q.arg k 1 ++ q.arg k 0
def EngReq.lanes (q : EngReq) : List Nat := q.src.map (·.1)

/-- The directory entry of an index in a tick, as (VA, size). -/
def World.entAt (w : World) (t : Tick) (i : Nat) : Nat × Nat := (w.dirVA t (i / 64) + 48 * (i % 64), 48)
/-- A directory entry as a LOAD of the team (08 R184): what its phase has read of it before stands; of an entry not read yet it takes the
newest (17 R304, R306; DEDUCED, log 76). -/
def Tenant.loadEnt (ten : Tenant) (w : World) (v : Tick) (i : Nat) (t : Team) : DirEnt × Team :=
  let a := (w.entAt v i).1
  let newest (x : Nat) : Nat := (((look [] x ten.main.hist).head?).map (·.2)).getD 0
  let r := (List.zip (span a 48) (v.ent i).bytes).foldl (fun (r : List Byte × Team) p => match findRead 0 p.1 r.2.readSet with
    | some x => (r.1 ++ [x], r.2)
    | none => (r.1 ++ [p.2], { r.2 with readSet := ((0, p.1), p.2) :: r.2.readSet, readFrom := addNew (newest p.1) r.2.readFrom })) ([], t)
  (DirEnt.read r.1, r.2)

/-- What TRES gives one lane (R317), the team after its reads, and what it read: the directory chunks of the index that its handle names, and
of a handle that is LIVE with the component the descriptor in the chunk map that locates its row (21 R344). -/
def Tenant.tresLane (ten : Tenant) (w : World) (v : Tick) (o : XOps) (ty : Nat) (h : DWord) (t : Team) : List Word × Team × List (Nat × Nat) :=
  let none_ : Word := 0xFFFFFFFF#32
  let i := handleIndex h
  if !w.names h then ([3, none_, none_], t, [])
  else
    let e := ten.loadEnt w v i t
    let n := ten.loadEnt w w.w i e.2
    let st := w.resolve e.1 n.1 h
    let ents := [(w.dirVA v (i / 64), dirChunk), (w.dirVA w.w (i / 64), dirChunk)]
    if o.fn != 0 || st != 0 then ([word st, none_, none_], n.2, ents)
    else if e.1.pres.getLsbD ty then
      match v.locate ty i with
      | some (c, r) => ([0, word c, word r], n.2, ents ++ [w.mapEntry v ty c])
      | none => ([0, none_, none_], n.2, ents)
    else ([4, none_, none_], n.2, ents)
/-- The lanes in turn: (lane, words), the team, what they read. -/
def Tenant.tresAll (ten : Tenant) (w : World) (v : Tick) (o : XOps) (ty : Nat) (q : EngReq) :
    List Nat → Team → List (Nat × List Word) × Team × List (Nat × Nat)
  | [], t => ([], t, [])
  | k :: ks, t =>
    let r := ten.tresLane w v o ty (q.handle k) t
    let rs := ten.tresAll w v o ty q ks r.2.1
    ((k, r.1) :: rs.1, rs.2.1, r.2.2 ++ rs.2.2)

/-- The chunk map of a column, which TVIEW reads. -/
def mapReads (w : World) (v : Tick) (ty : Nat) : List (Nat × Nat) := (List.range (v.col ty).length).map (w.mapEntry v ty)

/-- The five words of TVIEW (R318). -/
def viewWords (st count : Nat) (c : Option ChunkDesc) : List Word :=
  match c with
  | some c => [word (256 * count + st), word c.va, word (c.rows * 2 ^ 24 + c.va / 2 ^ 32), word c.first, word c.last]
  | none => [word (256 * count + st), 0, 0, 0, 0]

/-- A read view of one lane. -/
def readView (cs : List ChunkDesc) (a : Nat) : List Word :=
  match cs[a]? with
  | some c => viewWords 0 cs.length (some c)
  | none => viewWords 4 cs.length none

/-- The chunks that meet the key range of TVIEW.RANGE. -/
def meeting (cs : List ChunkDesc) (lo hi : Nat) : List ChunkDesc :=
  cs.filter fun c => decide (lo ≤ hi) && decide (c.first ≤ hi) && decide (lo ≤ c.last)

/-- May the launch take write views of the column (R304)? -/
def State.mayWrite (s : State) (w : World) (ty : Nat) : Bool :=
  s.launch?.any fun l => l.rc.kind == 1 && l.rc.world == w.num &&
    s.ten.queries.any fun q => q.world == w.num && q.id == l.rc.blocks / 256 % 65536 && q.wr.getLsbD ty

/-- Is chunk `a` of a column of W shared with P? -/
def World.sharedChunk (w : World) (ty a : Nat) : Bool :=
  match (w.w.col ty)[a]? with
  | some c => (w.p.col ty).any fun x => x.va == c.va
  | none => false

/-- W's chunk copied if it is still shared (R304): the world, and the (source, copy, size); none where the pool has no room. -/
def World.cow (w : World) (ctr ty a : Nat) : Option (World × List (Nat × Nat × Nat)) :=
  if !w.sharedChunk ty a then some (w, [])
  else
    let size := chunkBytes (look 0 ty w.types)
    match w.alloc [] ctr (65536 + 256 * a + ty) size, (w.w.col ty)[a]? with
    | some va, some c =>
      some ({ w with w := { w.w with cols := put [] ty ((w.w.col ty).set a { c with va := va }) w.w.cols } }, [(c.va, va, size)])
    | _, _ => none

/-- Write views of the lanes in turn: the world, the words per lane, the copies made. -/
def writeViews (ctr ty : Nat) (q : EngReq) : List Nat → World → World × List (Nat × List Word) × List (Nat × Nat × Nat)
  | [], w => (w, [], [])
  | k :: ks, w =>
    let a := (q.arg k 0).toNat
    let cs := w.w.col ty
    if cs.length ≤ a then
      let r := writeViews ctr ty q ks w
      (r.1, (k, viewWords 4 cs.length none) :: r.2.1, r.2.2)
    else match w.cow ctr ty a with
      | none =>
        let r := writeViews ctr ty q ks w
        (r.1, (k, viewWords 6 cs.length none) :: r.2.1, r.2.2)
      | some (w, cp) =>
        let r := writeViews ctr ty q ks w
        (r.1, (k, viewWords 0 cs.length (w.w.col ty)[a]?) :: r.2.1, cp ++ r.2.2)

/-- The row data of the write views that the lanes have taken of some chunks, as (VA, bytes). -/
def World.viewsOf (w : World) (ty : Nat) (as : List Nat) : List (Nat × Nat) :=
  as.filterMap fun a => if w.sharedChunk ty a then none else ((w.w.col ty)[a]?).map fun c => (c.va + 256, 4 * look 0 ty w.types * c.rows)
/-- A launch with write views that its teams have taken. -/
def Launch.view (vs : List (Nat × Nat)) (l : Launch) : Launch := { l with views := vs.foldl (fun xs v => if xs.contains v then xs else xs ++ [v]) l.views }

/-- Words for consecutive registers of each lane. -/
def tableWrites (d : Byte) (xs : List (Nat × List Word)) : List RegWrite := xs.flatMap fun p => laneWrites d p.1 p.2

/-- The service of a table request of the team in the focus: a stop, or the register writes and the state after it. A view is that of the
moment of its service (17 R304); without a lane nothing is read (21 R344). -/
def State.serveTable (s : State) (q : EngReq) : Except Stop (List RegWrite × State) :=
  match q.ins with
  | .tres o =>
    match s.selector (q.sc.headD 0) (o.fn == 0) with
    | none => .ok ([], s)
    | some (w, ty) =>
      let v := s.viewTick w
      let r := s.ten.tresAll w v o ty q q.lanes s.team
      match s.poolStop r.2.2 [] with
      | some x => .error x
      | none => .ok (tableWrites o.d r.1, State.touchPages { s with team := r.2.1 } (endsOf r.2.2))
  | .tview o =>
    match (if q.lanes.isEmpty then none else s.selector (q.sc.headD 0) true) with
    | none => .ok ([], s)
    | some (w, ty) =>
      if o.fn == 1 then
        if !s.mayWrite w ty then
          .ok (tableWrites o.d (q.lanes.map fun k => (k, viewWords 5 (w.w.col ty).length none)), s)
        else
          let r := writeViews s.ctr ty q q.lanes w
          let reads := mapReads w w.w ty ++ r.2.2.map fun c => (c.1, c.2.2)
          let writes := r.2.2.map fun c => (c.2.1, c.2.2)
          match s.poolStop reads writes with
          | some x => .error x
          | none =>
            .ok (tableWrites o.d r.2.1, (s.touchPages (endsOf reads ++ endsOf writes)).onTen fun t =>
              ((t.setWorld r.1).copyIn (r.2.2.map fun c => (c.2.1, t.main.gets c.1 c.2.2))).onLaunch s.team.launch
                (Launch.view (r.1.viewsOf ty (q.lanes.map fun k => (q.arg k 0).toNat))))
      else
        let v := s.viewTick w
        match s.poolStop (mapReads w v ty) [] with
        | some x => .error x
        | none =>
          let cs := if o.fn == 2 then meeting (v.col ty) (q.sc.getD 1 0).toNat (q.sc.getD 2 0).toNat else v.col ty
          .ok (tableWrites o.d (q.lanes.map fun k => (k, readView cs (q.arg k 0).toNat)), s.touchPages (endsOf (mapReads w v ty)))
  | _ => .ok ([], s)

/-! ### Structural records (R305, R306, R320, R321) -/

/-- The order key of lane `k` (R305). -/
def State.orderKey (s : State) (k : Nat) : List Nat :=
  let l := s.launch?
  [if s.launchRec.kind == 2 then 0xFFFFFFFF else s.launchRec.okey, (l.map (·.sub)).getD 0, s.blk.idx, s.team.idx, s.team.seqno, k]

/-- Each of the four instructions advances the team's sequence number. -/
def State.nextSeq (s : State) : State := s.onTeam fun t => { t with seqno := t.seqno + 1 }

/-- The reservations of TQNEW: the world after them, per lane the index, the chunks written, the last index looked at. -/
def State.newAll (s : State) (w : World) : World × List (Option Nat) × List Nat × Nat := w.reserveAll s.ctr s.active.length
/-- The pool ranges that TQNEW reads, and those that it writes as copies (21 R344). -/
def State.newReads (s : State) (w : World) : List (Nat × Nat) :=
  let r := s.newAll w
  (List.range (r.2.2.2 / 64 + 1)).map (fun k => (w.dirVA w.w k, dirChunk)) ++
    ((distinct r.2.2.1).filter fun k => w.dirVA w.w k != r.1.dirVA r.1.w k).map fun k => (w.dirVA w.w k, dirChunk)
def State.newCopies (s : State) (w : World) : List (Nat × Nat) :=
  let r := s.newAll w
  ((distinct r.2.2.1).filter fun k => w.dirVA w.w k != r.1.dirVA r.1.w k).map fun k => (r.1.dirVA r.1.w k, dirChunk)
/-- The team's own reservations: what it has read of these entries it reads anew (log 76). -/
def Team.reserves (w : World) (is : List Nat) (t : Team) : Team :=
  { t with
    resv := t.resv ++ is.map fun i => (w.num, i)
    readSet := t.readSet.filter fun p => !(p.1.1 == 0 && is.any fun i => inside (w.entAt w.w i).1 48 p.1.2) }

/-- TQNEW (R306, R320). Its directory writes are entered as a completed batch of domain SYSTEM that names no team (08 R183; DESIGN CHOICE,
log 90). -/
def execTqnew (o : XOps) (s : State) : Out :=
  issue (.tqnew o) .scalar
    (fun s => match s.selector (s.sval o.b) false with
      | none => trapTeam cIllegal subReserved
      | some (w, _) =>
        firstOf [counterFree s.team.tc, budget s (group o.d 2) [] [], roomRec s ((s.newAll w).2.1.any Option.isSome),
          if s.active.isEmpty then none else s.poolStop (s.newReads w) (s.newCopies w)])
    (fun s => match s.selector (s.sval o.b) false with
      | none => s
      | some (w, _) =>
        let r := s.newAll w
        let got := s.active.zip r.2.1
        let handle (x : Option Nat) : DWord := match x with | some i => r.1.handle i | none => ~~~0
        let recs : List QRec := got.filterMap fun p => p.2.map fun _ => { op := .new, handle := handle p.2, ty := 0, val := [], key := s.orderKey p.1 }
        let s := if s.active.isEmpty then s else s.touchPages (endsOf (s.newReads w ++ s.newCopies w))
        let s := { s with ten := (s.ten.setWorld r.1).deviceWrite (r.1.dirWrites r.2.2.1) }
        let s := s.onTeam (Team.reserves r.1 (got.filterMap (·.2)))
        let s := if recs.isEmpty then s else s.addRec (.queue w.num recs)
        let s := s.await
          { kind := .tc, vdst := (group o.d 2).map fun r => (r, maskOf s.active)
            ws := got.flatMap fun p => laneWrites o.d p.1 [(handle p.2).setWidth 32, (handle p.2).extractLsb' 32 32] }
        s.nextSeq) s

/-- The records of TQDEL, TQADD and TQREM: one per lane whose handle names the world. -/
def State.queueRecs (s : State) (op : QOp) (a : Byte) (w : World) (ty : Nat) (val : Nat → List Word) : List QRec :=
  (s.active.filter fun k => handleWorld (s.vpair a.toNat k) == w.num).map fun k =>
    { op := op, handle := s.vpair a.toNat k, ty := ty, val := val k, key := s.orderKey k }

def State.strangers (s : State) (a : Byte) (w : World) : Bool := s.active.any fun k => handleWorld (s.vpair a.toNat k) != w.num

/-- Records joined to the sash; a lane of another world sets INVALID. -/
def State.queueEff (s : State) (op : QOp) (a : Byte) (w : World) (ty : Nat) (val : Nat → List Word) : State :=
  let recs := s.queueRecs op a w ty val
  let s := if s.strangers a w then s.flag stInvalid else s
  let s := if recs.isEmpty then s else s.addRec (.queue w.num recs)
  s.nextSeq

def noVal (_ : Nat) : List Word := []

/-- TQDEL and TQREM. -/
def queueOp (i : Instr) (op : QOp) (o : XOps) (typed : Bool) (s : State) : Out :=
  issue i .scalar
    (fun s => match s.selector (s.sval o.b) typed with
      | none => trapTeam cIllegal subReserved
      | some (w, ty) => firstOf [budget s (group o.a 2) [] [], roomRec s (!(s.queueRecs op o.a w ty noVal).isEmpty)])
    (fun s => match s.selector (s.sval o.b) typed with
      | none => s
      | some (w, ty) => s.queueEff op o.a w ty noVal) s

def execTqdel (o : XOps) (s : State) : Out := queueOp (.tqdel o) .del o false s
def execTqrem (o : XOps) (s : State) : Out := queueOp (.tqrem o) .rem o true s

def addWords (o : XOps) : Nat := o.lo8.toNat + 1
def State.addVal (s : State) (o : XOps) (k : Nat) : List Word := (group o.d (addWords o)).map fun r => s.vreg r k

/-- The budget of the value registers is checked before the selector is read (R321). -/
def execTqadd (o : XOps) (s : State) : Out :=
  issue (.tqadd o) .scalar
    (fun s => firstOf [budget s (group o.d (addWords o)) [] [],
      match s.selector (s.sval o.b) true with
      | none => trapTeam cIllegal subReserved
      | some (w, ty) =>
        firstOf [if look 0 ty w.types == addWords o then none else trapTeam cIllegal subReserved, budget s (group o.a 2) [] [],
          if 16384 < 4 * addWords o * s.active.length then some (.ending cWrbuf 2 0) else none,
          roomRec s (!(s.queueRecs .add o.a w ty (s.addVal o)).isEmpty)]])
    (fun s => match s.selector (s.sval o.b) true with
      | none => s
      | some (w, ty) => s.queueEff .add o.a w ty (s.addVal o)) s

/-! ### LAUNCH (R322) -/

def stvBit (o : XOps) : Bool := o.mod.getLsbD 0

/-- LAUNCH. Of its scalar operands the alignment of both comes before the bounds of the record (02 R34). -/
def execLaunch (o : XOps) (s : State) : Out :=
  issueT (.launch o)
    (fun s => firstOf [if (s.sval o.a).toNat % 64 != 0 then some (.trap cAlign 0 noLane (s.sval o.a)) else none,
      if stvBit o && (s.pairVA o.c.toNat).toNat % 8 != 0 then some (.trap cAlign 0 noLane (s.sreg o.c.toNat)) else none,
      checkAt 64 s.blk.lsz noLane (s.sval o.a).toNat, roomRec s true])
    (fun _ s => s.addRec (.launch (s.lsBytes (s.sval o.a).toNat 64) (if stvBit o then some (s.pairVA o.c.toNat).toNat else none))) s

end Sys2Proof.Machine
end

