-- ==== Sys2Proof/Machine/Arrivals.lean ====
section
/-!
DEFINITION. Results that arrive: loads, old values, copy sectors, engine and table replies, the performance of returning atomics, drains
and event records (02 R24, 07 R158, R162, R167, 08 R172, R180, R182, 09 R194, 13 R266, 18 R316). An event that is not possible in a
state has no effect in it.
-/
namespace Sys2Proof.Machine

def CtrKind.code : CtrKind → Nat
  | .lc => 0
  | .ac => 1
  | .mc => 2
  | .xc => 3
  | .tc => 4

/-- The `i`-th outstanding result that a counter counts, with its position. -/
def pendFrom (k : CtrKind) : Nat → Nat → List Pend → Option (Nat × Pend)
  | _, _, [] => none
  | pos, i, p :: r =>
    if p.kind == k then (match i with | 0 => some (pos, p) | j + 1 => pendFrom k (pos + 1) j r) else pendFrom k (pos + 1) i r
def Team.pendAt (t : Team) (k : CtrKind) (i : Nat) : Option (Nat × Pend) := pendFrom k 0 i t.pend

/-! ### Requests that are served lane by lane -/

/-- What one lane of an outstanding load or engine request receives. -/
def State.serveLane (s : State) (q : EngReq) (k : Nat) : Except Hold Served :=
  match q.ins with
  | .tex o => if q.kind != 0 then .ok { ws := s.noDesc q o.d.toNat o.c.toNat k 4, team := s.team }
    else s.serveTex q o.d.toNat o.c.toNat k false
  | .texld o => if q.kind != 0 then .ok { ws := s.noDesc q o.d.toNat o.c.toNat k 4, team := s.team }
    else s.serveTex q o.d.toNat o.c.toNat k true
  | .hgf o => if q.kind != 0 then .ok { ws := s.noDesc q o.d.toNat o.c.toNat k (countOf o), team := s.team }
    else s.serveHgf q o.d.toNat o.c.toNat k
  | .trace o => s.serveTrace q o.d.toNat k
  | _ => (s.serveLoad q k).map fun r => { ws := r.1, team := r.2 }

def EngReq.without (q : EngReq) (k : Nat) : EngReq :=
  { q with act := q.act &&& ~~~(maskOf [k]), help := q.help &&& ~~~(maskOf [k]) }
def EngReq.left (q : EngReq) : List Nat := lanesOf (q.act ||| q.help) 1024

/-- One lane is served: its registers are written, its pages asked for. A lane that waits for a queued batch notes the batch. -/
def State.serveOne (s : State) (q : EngReq) (k : Nat) : State × EngReq × Bool :=
  match s.serveLane q k with
  | .error x => (s, { q with after := x :: q.after }, false)
  | .ok r =>
    let s := s.touchPages r.vas
    (State.apply { s with team := r.team, ten := s.ten.ask r.pages r.dropped } r.ws, q.without k, true)

def State.serveLanes (s : State) (q : EngReq) : List Nat → State × EngReq × Bool
  | [] => (s, q, true)
  | k :: ks =>
    match s.serveOne q k with
    | (s, q, true) => s.serveLanes q ks
    | (s, q, false) => (s, q, false)

def State.setReq (s : State) (pos : Nat) (q : Option EngReq) : State :=
  s.onTeam fun t => { t with pend := t.pend.modify pos fun p => { p with req := q } }

/-- A request that waits, or whose read has met a poisoned sector: then the team ends with HWERR (25 R391). -/
def State.holdReq (s : State) (pos : Nat) (q : EngReq) : State :=
  if Hold.isPoison (q.after.headD (0, 1, false)) then s.endFault cHwerr 0 q.va 0 else s.setReq pos (some q)

/-- The reply of the outstanding result at `pos`. -/
def State.arrive (s : State) (pos : Nat) (p : Pend) : State :=
  match p.req with
  | none => s.settlePend pos p p.ws
  | some q =>
    match s.serveLanes q q.left with
    | (s, _, true) => s.settlePend pos p p.ws
    | (s, q, false) => s.holdReq pos q

/-- A table request is served as a whole. -/
def State.serveTab (s : State) (pos : Nat) (q : EngReq) : Except State State :=
  match s.serveTable q with
  | .ok (ws, s) => .ok ((s.apply ws).setReq pos none)
  | .error (.access code sub info seen) => .error ((s.touchPages seen).endFault code sub q.va info)
  | .error (.fault pages) => .error ((s.touchPages pages).pageFault pages q.va)
  | .error _ => .error s

/-- The reply of a table instruction. -/
def State.tableArrive (s : State) (pos : Nat) (p : Pend) : State :=
  match p.req with
  | none => s.settlePend pos p p.ws
  | some q =>
    match s.serveTab pos q with
    | .ok s => s.settlePend pos p p.ws
    | .error s => s

/-- LOAD_DATA_ARRIVAL: a load or a local read without its own copy delivers (02 R24, 08 R172). -/
def execLoadDataArrival (t k i : Nat) (s : State) : Out :=
  .next (s.atTeam t k fun s => match s.team.pendAt .lc i with | none => s | some (pos, p) => s.arrive pos p)
/-- ENGINE_REPLY: the sampler, hash grid or trace engine answers a lane of a request (12 R245 to R257, 13 R266). -/
def execEngineReply (t k i : Nat) (s : State) : Out :=
  .next (s.atTeam t k fun s => match s.team.pendAt .xc i with | none => s | some (pos, p) => s.arrive pos p)
/-- TABLE_REPLY: the table engine answers a resolution or a view (18 R314, R318). -/
def execTableReply (t k i : Nat) (s : State) : Out :=
  .next (s.atTeam t k fun s => match s.team.pendAt .tc i with | none => s | some (pos, p) => s.tableArrive pos p)

/-! ### Returning atomics (08 R182) -/

/-- The batches whose completion a returning atomic or a `SYSC` awaits. -/
def Tenant.hasQueued (t : Tenant) (key : Nat) : Bool := t.queued.any fun b => b.team == key

/-- Lanes that may be performed next: no earlier lane has the same address. -/
def AtomReq.nextLane (r : AtomReq) (i : Nat) : Option (Nat × Nat × DWord × DWord) :=
  match r.todo[i]? with
  | none => none
  | some x => if (r.todo.take i).any (fun y => y.2.1 == x.2.1) then none else some x

/-- A write into a bin's ring leaves the bin with free records (12 R262). -/
def State.spoilRings (s : State) (die : Nat) (as : List Nat) : State :=
  s.ten.bins.foldl (fun s b =>
    if as.any b.ringHas then
      let free (r : List Word) : List Word := (List.range r.length).map fun i => Config.freeWord s.ctr (6200 + i)
      s.onTen fun t => { t.setRing die b.num ((t.ring die b.num).map fun x => (free x.1, x.2)) with
        launches := t.launches.map fun l => if l.bin == some (b.num, die) && l.placed == 0 then { l with recs := l.recs.map free } else l }
    else s) s

/-- Stores into scratchpad bytes of FILLING buffers are noted there (07 R159). -/
def State.noteStores (s : State) (die : Nat) (as : List Nat) : State :=
  let note (c : Core) : Core := if c.die == die then as.foldl (fun c x => c.noteStore 0 true x) c else c
  let missed (l : List Sector) : List Sector :=
    s.allCores.foldl (fun l c => if c.die == die then as.foldl (fun l x => c.missed 0 true x l) l else l) l
  { s with core := note s.core, ten := { s.ten with cores := s.ten.cores.map note, sectors := missed s.ten.sectors } }

/-- Undefined bytes of a scratchpad location get a free value before an operation on them (07 R159, 12 R262). -/
def State.freeOpen (s : State) (die a n : Nat) : State :=
  if (span a n).any (s.spOpen die) then
    let m := s.ten.space (1 + die)
    let m' := (span a n).foldl (fun m x =>
      if s.spOpen die x then { m with cells := put 0 x (BitVec.ofNat 8 (Config.freeIx s.ctr 1010 x)) m.cells } else m) m
    { s with ten := s.ten.setSpace (1 + die) m' }
  else s

/-- After a write of bytes by teams of some launches: worlds, rings and FILLING buffers that hold them (07 R159, 12 R262, 17 R297). -/
def State.wrote (s : State) (sp : Nat) (ls : List Nat) (as : List Nat) (did : Bool) : State :=
  match sp with
  | 0 => if did then s.onTen fun t => ls.foldl (fun t l => t.poolHit s.ctr (some l) as) t else s
  | die + 1 => if did then (s.spoilRings die as).noteStores die as else s

/-- Pages that are still at the source of a migration are asked for there (24 R382). -/
def State.pull (s : State) (vas : List Nat) : State :=
  match s.ten.origin with
  | none => s
  | some src =>
    let ws := vas.filter fun va => s.ten.away.any (fun a => a.1 == va) && !s.ten.pulled.contains va
    { s with out := s.out ++ ws.map fun va => .pull src s.ten.num va, ten := { s.ten with pulled := s.ten.pulled ++ ws } }

/-- The page of an address that is still at the source of a migration. -/
def Tenant.atSource (t : Tenant) (a : Nat) : Option Nat :=
  (t.pages.find? fun p => inside p.va p.size a).bind fun p => if t.away.any (fun x => x.1 == p.va) then some p.va else none

/-- One lane of a team of launch `l` on core `core` of die `die` is performed; the state and the team's request after it. It is performed by
the owner of the page, so it waits for a page that the source of a migration owns still (24 R383). -/
def State.performLane (s : State) (key l core die : Nat) (r : AtomReq) (i : Nat) : State × AtomReq :=
  match r.nextLane i with
  | none => (s, r)
  | some (k, a, x, c) =>
    if r.sp == 0 && (s.ten.atSource a).isSome then (s.pull (s.ten.atSource a).toList, r)
    else
    let r := { r with todo := r.todo.eraseIdx i }
    if r.sp == 0 && s.ten.remote a then
      ({ s with out := s.out ++ s.ten.remoteAtom a r.op r.ty x c },
        { r with old := r.old ++ [(k, (Config.freeWord s.ctr 1020 ++ Config.freeWord s.ctr 1021))] })
    else
      let s := if r.sp == 0 then s else s.freeOpen (r.sp - 1) a (atomBytes r.ty)
      let p := performAt s.ten s.allTeams s.allCores key core die r.scope r.sp r.op r.ty a x c
      let s' := State.wrote { s with ten := p.ten } r.sp [l] (span a (atomBytes r.ty)) (atomOp r.op r.ty p.old x c).isSome
      (s', { r with old := r.old ++ [(k, p.old)], seen := union r.seen p.seen, mism := r.mism || p.mism })

/-- A saved team (21 R349) changed. -/
def Tenant.onSaved (t : Tenant) (k : Nat) (f : Team → Team) : Tenant :=
  { t with ctxs := t.ctxs.map fun c => { c with saved := c.saved.map fun b => { b with teams := changeBy (·.key) k f b.teams } } }
def Tenant.savedTeam? (t : Tenant) (k : Nat) : Option (Team × Nat) :=
  (t.ctxs.flatMap (·.saved)).findSome? fun b => (findBy (·.key) k b.teams).map fun x => (x, b.blk.ctx)
def Tenant.dieOf (t : Tenant) (core : Nat) : Nat := ((t.core? core).map (·.die)).getD 0

/-- A waiting team, placed or saved, whose request changes together with the state (09 R197). -/
def State.atWaiter (n k : Nat) (f : State → Team → Nat → State × Team) (s : State) : State :=
  match s.openTenant n with
  | none => s
  | some s =>
    match s.ten.team? k with
    | some t =>
      let r := f s t (s.ten.dieOf t.core)
      { r.1 with ten := r.1.ten.onTeam k fun _ => r.2 }
    | none =>
      match s.ten.savedTeam? k with
      | none => s
      | some (t, _) =>
        let r := f s t (s.ten.dieOf t.core)
        { r.1 with ten := r.1.ten.onSaved k fun _ => r.2 }

/-- A team of a saved block ends: it leaves the save area; with its last team the block has retired. -/
def Tenant.endSaved (t : Tenant) (b : Saved) (k : Nat) : Tenant :=
  let b' : Saved :=
    { b with
      blk := { b.blk with ended := b.blk.ended + 1 }
      teams := removeBy (·.key) k b.teams
      ents := b.ents.filter fun e => e.2.team != k }
  let gone := b'.teams.isEmpty
  let t := match findBy (·.key) k b.teams with | some x => t.orphan x (t.dieOf x.core) | none => t
  let t := { t with ctxs := t.ctxs.map fun c => { c with saved := c.saved.filterMap fun x =>
    if x.blk.key == b.blk.key then (if gone then none else some b') else some x } }
  if gone then t.onLaunch b.blk.launch fun l => { l with retired := l.retired + 1 } else t

/-- A team-ending fault of team `k` of tenant `n`, placed or saved. -/
def State.endAny (n k code : Nat) (iva : VA) (s : State) : State :=
  match s.openTenant n with
  | none => s
  | some s =>
    if (s.ten.team? k).isSome then s.atTeam n k fun s => if s.team.wait == .ended then s else s.endFault code 0 iva 0
    else match (s.ten.ctxs.flatMap (·.saved)).find? fun b => b.teams.any fun x => x.key == k with
      | none => s
      | some b => match findBy (·.key) k b.teams with
        | none => s
        | some x =>
          (s.report 1 (faultBytes code 0 x.launch b.blk.idx x.idx x.core iva.toNat 0) x.launch).onTen fun t => t.endSaved b k

/-- Does the next lane read a poisoned sector (25 R391)? -/
def AtomReq.hurt (r : AtomReq) (ten : Tenant) (i : Nat) : Bool :=
  r.sp == 0 && (r.nextLane i).any fun x => !ten.remote x.2.1 && (span x.2.1 (atomBytes r.ty)).any ten.poisoned

/-- One lane of a waiting team; a poisoned sector ends the team. -/
def State.performOne (s : State) (n i : Nat) (x : Team) : State :=
  match x.wait with
  | .atom r =>
    if s.ten.hasQueued x.key then s
    else if r.hurt s.ten i then s.endAny n x.key cHwerr r.va
    else s.atWaiter n x.key fun s x die =>
      let p := s.performLane x.key x.launch x.core die r i
      (p.1, { x with wait := .atom p.2 })
  | _ => s

/-- One lane of an atomic whose team has ended; a lane on a poisoned sector is not performed. -/
def State.performOrphan (s : State) (o : Orphan) (i : Nat) : State :=
  if s.ten.hasQueued o.team then s
  else
    let p := if o.req.hurt s.ten i then (s, { o.req with todo := o.req.todo.eraseIdx i }) else s.performLane o.team o.launch o.core o.die o.req i
    p.1.onTen fun t => { t with
      orphans := if p.2.todo.isEmpty then removeBy (·.team) o.team t.orphans else changeBy (·.team) o.team (fun y => { y with req := p.2 }) t.orphans }

/-- PERFORM, once every earlier batch of the team has completed. -/
def execPerform (t k i : Nat) (s : State) : Out :=
  .next (s.atTenant t fun s =>
    match findBy (·.team) k s.ten.orphans with
    | some o => s.performOrphan o i
    | none => match s.ten.team? k, s.ten.savedTeam? k with
      | some x, _ => s.performOne t i x
      | none, some (x, _) => s.performOne t i x
      | none, none => s)

/-- The second boundary: the floor rises, the old values are written, AC falls, the next phase begins. -/
def State.endAtom (s : State) (r : AtomReq) : State :=
  let t := s.team
  let floor := union (union t.floor r.seen) (if r.mism then [] else s.ten.seenBy t.key t.core s.core.die)
  let s := s.apply (r.old.flatMap fun p => oldWrites r.ty r.dst p.1 p.2)
  let s := if r.mism then s.flag stScopex else s
  (s.onTeam fun t => { t with ac := t.ac - 1 }).startPhase floor 0

/-- An old value arrives: that of a local-store atomic, or those of a boundary atomic whose lanes have all been performed. One with
no lane at all has none to wait for, and its second boundary does not wait for the team's earlier batches (DESIGN CHOICE, log 74). -/
def execAtomicOldValueArrival (t k i : Nat) (s : State) : Out :=
  .next (s.atTeam t k fun s =>
    match s.team.pendAt .ac i with
    | some (pos, p) => s.settlePend pos p p.ws
    | none =>
      match s.team.wait with
      | .atom r => if r.todo.isEmpty then s.endAtom r else s
      | _ => s)

/-! ### Copy sectors and drains -/

/-- A sector's bytes are read (08 R172): the sector, and the team after the reads; a wait is noted. -/
def State.readSector (s : State) (x : Sector) : Sector × Team × Bool :=
  match x.got with
  | some _ => (x, s.team, true)
  | none =>
    match s.loadSector x.after (x.src.map (·.1)) s.team with
    | .ok (bs, t) => ({ x with got := some bs }, t, true)
    | .error w => ({ x with after := w :: x.after }, s.team, false)

/-- The bytes land in the buffer: local store, or the histories of the scratchpad as a completed batch of domain DIE (08 R180). -/
def State.land (s : State) (e : BufEntry) (n : Nat) (x : Sector) (bs : List Byte) : State :=
  let ws := landing s.ctr x.src bs x.skip
  if e.spad then
    let id := s.ten.nextBatch
    let die := s.core.die
    let m := s.ten.space (1 + die)
    let m := ws.foldl (fun m w => m.write id (e.base + w.1) w.2) m
    let m := m.mark { team := some s.team.key, dom := .die die } (ws.map fun w => e.base + w.1)
    let ten := s.ten.setSpace (1 + die) m
    State.spoilRings (die := die) (as := ws.map fun w => e.base + w.1) { s with
      ten := { ten with nextBatch := id + 1, done := ten.done ++ [{ id := id, team := s.team.key, dom := .die die }] }
      core := s.core.setEntry n (some { e with landed := e.landed ++ [id] }) }
  else
    { s with blk := { s.blk with ls := ws.foldl (fun m w => m.init (e.base + w.1) w.2) s.blk.ls } }

/-- After the last sector: a sealed buffer becomes FULL; the entry of an ended team goes back to the pool. -/
def State.afterSector (s : State) (n : Nat) : State :=
  if s.ten.flying s.core.num n then s
  else match s.core.entry? n with
    | none => s
    | some e =>
      if e.freed && e.st != .draining then
        (State.stow { s with core := s.core.setEntry n none }).onTen Tenant.settle
      else if e.st == .filling && e.sealed then s.fillUp n e else s

/-- A sector whose read still waits, or has met a poisoned sector: then its team ends with HWERR (25 R391); for a team that has
ended already nothing lands. -/
def State.holdSector (s : State) (i : Nat) (x : Sector) (team : Team) : State :=
  if Hold.isPoison (x.after.headD (0, 1, false)) then
    if s.team.wait == .ended then
      State.afterSector { s with ten := { s.ten with sectors := s.ten.sectors.eraseIdx i } } x.entry
    else s.endFault cHwerr 0 x.va 0
  else { s with team := team, ten := { s.ten with sectors := s.ten.sectors.set i x } }

/-- The line of a waiting sector issues and takes a slot of the copy engine, once one is free (07 R162, 09 R203, R213). -/
def State.raise (s : State) (x : Sector) : State :=
  let line (y : Sector) : Nat := (y.src.headD (0, 0)).1 / 128
  if s.ten.slotsFree x.core == 0 then s
  else (s.count 5 1).onTen fun t => { t with
    sectors := t.sectors.map fun y => if y.core == x.core && y.req == x.req && line y == line x then { y with up := true } else y }

/-- COPY_SECTOR_ARRIVAL: a sector of a copy-in is read, or lands in its buffer (07 R162, 08 R179). -/
def execCopySectorArrival (t i : Nat) (s : State) : Out :=
  .next (match s.openTenant t with
    | none => s
    | some s0 =>
      match s0.ten.sectors[i]? with
      | none => s
      | some x => s.atTeam t x.team fun s =>
        if !x.up then s.raise x
        else match s.readSector x, s.core.entry? x.entry with
        | (x, team, false), _ => s.holdSector i x team
        | (_, team, true), none => { s with team := team, ten := { s.ten with sectors := s.ten.sectors.eraseIdx i } }
        | (x, team, true), some e =>
          let s : State := { s with
            team := team, ten := { s.ten with sectors := s.ten.sectors.eraseIdx i }
            out := s.out ++ s.ten.remoteReads (x.src.map fun p => p.1) }
          (s.land e x.entry x (x.got.getD [])).afterSector x.entry)

/-- A scratchpad byte that a drain reads: its newest entry; free where it is undefined (07 R159, 12 R262). -/
def State.spByte (s : State) (x : Nat) : Byte :=
  if s.spOpen s.core.die x then BitVec.ofNat 8 (Config.freeIx s.ctr 1008 x) else (s.ten.space (1 + s.core.die)).get x
/-- The bytes that a drain takes from its buffer. -/
def State.drained (s : State) (e : BufEntry) (ws : List (Nat × Nat × Nat)) : List (Nat × List Byte) :=
  ws.map fun w => (w.1, if e.spad then (span (e.base + w.2.1) w.2.2).map s.spByte else s.lsBytes (e.base + w.2.1) w.2.2)

/-- Does a queued batch still hold a drain of the entry? -/
def Tenant.draining (t : Tenant) (core entry : Nat) : Bool :=
  t.queued.any fun b => b.recs.any fun r => match r with | .drain c n _ _ _ => c == core && n == entry | _ => false

def Tenant.setRec (t : Tenant) (b i : Nat) (r : Rec) : Tenant :=
  { t with queued := changeBy (·.id) b (fun b => { b with recs := b.recs.set i r }) t.queued }
/-- The longest start of a drain's transfers whose lines fit `room` slots. -/
def fitting (room : Nat) (ws : List (Nat × Nat × Nat)) : Nat :=
  ((List.range (ws.length + 1)).filter fun n => decide (linesOf ((ws.take n).flatMap fun w => span w.1 w.2.2) ≤ room)).foldl max 0

/-- DRAIN_COMPLETE of record `i` of batch `b`: the transfers whose lines fit the free slots of the copy engine read the buffer and go
into flight (07 R162); those in flight finish. When all have, the record holds its data, and with its last drain the buffer becomes FREE
and its slot unbound. -/
def State.drain (s : State) (b : Batch) (i : Nat) : State :=
  match b.recs[i]? with
  | some (.drain c n ws fly got) =>
    match s.core.entry? n with
    | none => s
    | some e =>
      if fly.isEmpty && !ws.isEmpty then
        let k := fitting (s.ten.slotsFree c) ws
        let s := s.count 5 (linesOf ((ws.take k).flatMap fun w => span w.1 w.2.2))
        { s with ten := s.ten.setRec b.id i (.drain c n (ws.drop k) (s.drained e (ws.take k)) got) }
      else if !ws.isEmpty then { s with ten := s.ten.setRec b.id i (.drain c n ws [] (got ++ fly)) }
      else
      let ten := s.ten.setRec b.id i (.copy (got ++ fly))
      if ten.draining c n then { s with ten := ten }
      else
        let s := { s with ten := ten, core := s.core.setEntry n none, team := { s.team with h := s.team.h.filter fun (p : Nat × Option Nat) => p.2 != some n } }
        if s.team.wait == .ended then s.stow.onTen Tenant.settle else s
  | _ => s

/-- DRAIN_COMPLETE: a drain takes data on its way or finishes it; the last one frees the entry (07 R158, R162). -/
def execDrainComplete (t b i : Nat) (s : State) : Out :=
  .next (match s.openTenant t with
    | none => s
    | some s0 =>
      match findBy (·.id) b s0.ten.queued with
      | none => s
      | some x => s.atTeam t x.team fun s => s.drain x i)

/-- Records of a block's queue that a team has popped in its open phase: a discard puts them back (07 R168). -/
def Tenant.poppedOf (t : Tenant) (b : Nat) : Nat := ((t.teams.filter fun x => x.blk == b).map fun x => x.popped.length).foldl (· + ·) 0

/-- A waiting record is posted when its queue of 64 has room, popped records that are not yet final counted (07 R166 to R168). -/
def execEventRecordPost (t b e : Nat) (s : State) : Out :=
  .next (s.atTenant t fun s => s.onTen fun ten => ten.onBlock b fun x =>
    if e == 0 && decide (x.evq.length + ten.poppedOf b < 64) then { x with evq := x.evq ++ (x.evw.take 1).map (·.2), evw := x.evw.drop 1 } else x)

/-! ### Reads before their reply -/

/-- The reads of lane (or sector) `n` that the arrival `i` will use are made now; its register writes too, which nothing can read yet. -/
def State.capture (i : Instr) (n : Nat) (s : State) : State :=
  let lanes (t k : Nat) (c : CtrKind) (j : Nat) : State := s.atTeam t k fun s =>
    match s.team.pendAt c j with
    | none => s
    | some (pos, p) => match p.req with
      | none => s
      | some q =>
        if q.left.contains n then
          match s.serveOne q n with
          | (s, q, true) => s.setReq pos (some q)
          | (s, q, false) => s.holdReq pos q
        else s
  match i with
  | .loadDataArrival t k j => lanes t k .lc j
  | .engineReply t k j => lanes t k .xc j
  | .tableReply t k j => s.atTeam t k fun s =>
    match s.team.pendAt .tc j with
    | none => s
    | some (pos, p) => match p.req with
      | none => s
      | some q => match s.serveTab pos q with
        | .ok s => s
        | .error s => s
  | .copySectorArrival t j => match s.openTenant t with
    | none => s
    | some s0 => match s0.ten.sectors[j]? with
      | none => s
      | some x => s.atTeam t x.team fun s =>
        if !x.up then s.raise x
        else match s.readSector x with
        | (x, team, true) => { s with team := team, ten := { s.ten with sectors := s.ten.sectors.set j x } }
        | (x, team, false) => s.holdSector j x team
  | _ => s

end Sys2Proof.Machine
end

