-- ==== Sys2Proof/Machine/Pager.lean ====
section
/-!
DEFINITION. Invalidation and the pager (21 R345 to R347).
-/
namespace Sys2Proof.Machine

/-! ### Who uses a translation in a range (R344, R346) -/

/-- Addresses that a pending or queued record was translated for. -/
def Rec.translated : Rec → List Nat
  | .copy ws => ws.map (·.1)
  | .drain _ _ ws fly got => ws.map (·.1) ++ (fly ++ got).map (·.1)
  | .atomMm _ _ xs _ _ => xs.map (·.1)
  | _ => []
def Rec.within (va len : Nat) (r : Rec) : Bool := r.translated.any (inside va len)
/-- A copy-in uses its translation until its source bytes have been read. -/
def Sector.within (va len : Nat) (x : Sector) : Bool := x.got.isNone && x.src.any fun p => inside va len p.1

/-- A scale fetch that waits uses the translation of its start. -/
def Tenant.scaleWithin (t : Tenant) (key va len : Nat) : Bool :=
  t.mops.any fun m => m.team == key && !m.started && !m.after.isEmpty && m.after.any fun h => inside va len h.1
/-- Lanes of a `GATOMR` that are still to be performed use the translation of its issue (R344). -/
def AtomReq.within (va len : Nat) (r : AtomReq) : Bool := r.sp == 0 && r.todo.any fun x => inside va len x.2.1
def Team.atomWithin (va len : Nat) (t : Team) : Bool := match t.wait with | .atom r => r.within va len | _ => false

/-- Open phases that the invalidation discards. -/
def Tenant.users (t : Tenant) (va len : Nat) : List Nat :=
  (t.teams.filter fun x => x.openPhase? &&
    (x.batch.any (Rec.within va len) || t.scaleWithin x.key va len || t.sectors.any fun y => y.team == x.key && y.cur && y.within va len)).map (·.key)
/-- What the invalidation waits for: queued batches, drains and copy-ins of closed phases, and returning atomics on their way. -/
def Tenant.inUse (t : Tenant) (va len : Nat) : Bool :=
  (t.queued.any fun b => b.recs.any (Rec.within va len)) || (t.sectors.any fun x => !x.cur && x.within va len) ||
    t.teams.any (Team.atomWithin va len) || ((t.ctxs.flatMap (·.saved)).flatMap (·.teams)).any (Team.atomWithin va len) ||
    t.orphans.any fun o => o.req.within va len

/-- The entries of a range taken out of a TLB. -/
def dropRange (va len : Nat) (tlb : Sparse (List (Nat × Nat))) : Sparse (List (Nat × Nat)) :=
  (tlb.map fun p => (p.1, p.2.filter fun e => !inside va len e.2)).filter fun p => !p.2.isEmpty

/-- Discards of the named teams of the tenant in the focus. -/
def State.dropTeams (s : State) (ks : List Nat) : State :=
  (ks.foldl (fun s k => s.atTeam s.ten.num k State.drop) s).stow

/-- Steps 1 and 2 of R346. -/
def State.invalidate (s : State) (va len : Nat) : State :=
  (s.onTen fun t => { t with
    cores := t.cores.map fun c => { c with tlb := dropRange va len c.tlb }
    panes := t.panes.map fun p => { p with tlb2 := dropRange va len p.tlb2 } }).dropTeams (s.ten.users va len)

/-- INVALIDATE of a range. -/
def execInvalidate (t va len : Nat) (s : State) : Out := .next (s.atTenant t fun s => s.invalidate va len)

/-! ### Frames (R347, 16 R295) -/

def Tenant.setPage (t : Tenant) (va : Nat) (f : Page → Page) : Tenant := { t with pages := changeBy (·.va) va f t.pages }
/-- Frames that HBM pages and the save areas of the contexts hold (24 R368). -/
def Tenant.framesUsed (t : Tenant) : Nat :=
  ((t.pages.filter fun p => p.st == .hbm).map Page.frames ++ t.ctxs.map (·.frames)).foldl (· + ·) 0
def State.framesFree (s : State) : Nat := s.tenChannels * 32768 - s.ten.framesUsed
def Tenant.kept (t : Tenant) : List Nat := t.teams.flatMap (·.retained)
/-- HBM pages that may be evicted, the pages in `need` spared. -/
def Tenant.evictable (t : Tenant) (need : List Nat) : List Page :=
  t.pages.filter fun p => p.st == .hbm && !p.pin && !p.meets t.kept && !p.meets need

/-! ### Device PAs (21 R342, 16 R295) -/

/-- A place for `n` bytes below `top`, aligned to `n`, beside places in use: a free choice among the lowest ones after each of these. -/
def placePA (ctr top n : Nat) (used : List (Nat × Nat)) : Option Nat :=
  let free := (0 :: used.map fun u => u.1 + u.2).map (roundUp · n) |>.filter fun a =>
    decide (a + n ≤ top) && used.all fun u => decide (a + n ≤ u.1) || decide (u.1 + u.2 ≤ a)
  if free.isEmpty then none else some (pick 0 (Config.freeIx ctr 7100 used.length) free)

/-- Stage-2 entries that get device PAs: of their own size where there is room, else in pages of 64 KiB. -/
def placeAllPA (ctr top : Nat) : List Stage2 → List (Nat × Nat) → List Stage2
  | [], _ => []
  | g :: gs, used =>
    match placePA ctr top g.size used with
    | some a => { g with pa := some a } :: placeAllPA ctr top gs ((a, g.size) :: used)
    | none =>
      let r := (List.range (g.size / 65536)).foldl (fun (r : List Stage2 × List (Nat × Nat)) i =>
        let pa := placePA ctr top 65536 r.2
        (r.1 ++ [{ g with gpa := g.gpa + 65536 * i, size := 65536, pa := pa }], (pa.map fun a => (a, 65536)).toList ++ r.2)) ([], used)
      r.1 ++ placeAllPA ctr top gs r.2

/-- Stage 2 follows the states of the pages: an entry of a page in HBM has a device PA, any other has none. -/
def State.reframe (s : State) : State :=
  let hbm := s.ten.pages.filter fun p => p.st == .hbm
  let inHbm (g : Stage2) : Bool := hbm.any fun p => inside p.gpa p.size g.gpa
  let kept := s.ten.stage2.filter fun g => inHbm g && g.pa.isSome
  let new := s.ten.stage2.filter fun g => inHbm g && g.pa.isNone
  s.onTen fun t => { t with
    stage2 := kept ++ ((t.stage2.filter fun g => !inHbm g).map fun g => { g with pa := none }) ++
      placeAllPA s.ctr (s.tenChannels * 2147483648) new (kept.filterMap fun g => g.pa.map fun a => (a, g.size)) }
/-- Every page gets a new device PA (24 R366 step 3). -/
def State.relay (s : State) : State := State.reframe (s.onTen fun t => { t with stage2 := t.stage2.map fun g => { g with pa := none } })

/-- Channel of a device PA (16 R295). -/
def channelOf (c pa : Nat) : Nat := pa / 1024 % c
/-- The device PA of a VA whose page is in HBM. -/
def Tenant.paOf (t : Tenant) (va : Nat) : Option Nat :=
  (t.pageAt va).bind fun p => (t.stage2At (p.gpa + (va - p.va))).bind fun g => g.pa.map fun a => a + (p.gpa + (va - p.va) - g.gpa)

/-- CXL memory that DIRECT and TIER pages of every tenant leave free, in frames. -/
def State.tierFree (s : State) : Nat :=
  Config.cxlFrames - ((s.ten :: s.tens).flatMap fun t => (t.pages.filter fun p => p.st == .direct || p.st == .tier).map Page.frames).foldl (· + ·) 0

/-- One page evicted to the tier, or to NVMe when the tier has no room; which page is a free choice among those that no closed phase
uses. -/
def State.evictOne (s : State) (need : List Nat) (n : Nat) : Option State :=
  match (s.ten.evictable need).filter fun p => !s.ten.inUse p.va p.size with
  | [] => none
  | p :: ps =>
    let p := pick p (Config.freeIx s.ctr 7000 n) (p :: ps)
    let s := s.invalidate p.va p.size
    some (State.reframe (s.onTen fun t => t.setPage p.va fun p => { p with st := if p.frames ≤ s.tierFree then .tier else .stored }))

/-- Evictions until `n` frames are free, or as far as there are pages to evict now. -/
def State.makeRoom (s : State) (need : List Nat) (n : Nat) : Nat → State
  | 0 => s
  | f + 1 => if n ≤ s.framesFree then s else
    match s.evictOne need f with
    | none => s
    | some s => s.makeRoom need n f

/-- Mapped pages among `vas` that are not resident. -/
def Tenant.missing (t : Tenant) (vas : List Nat) : List Nat := (t.pages.filter fun p => p.meets vas && p.absent).map (·.va)

/-- Some pages made resident in HBM; false where that cannot be done now: pages have yet to come from the source of a migration, or
frames cannot be had. -/
def State.bring (s : State) (vas : List Nat) : State × Bool :=
  let m := s.ten.missing vas
  if m.any fun va => s.ten.away.any fun a => a.1 == va then (s.pull m, false)
  else
    let n := s.ten.framesOf m
    let s := s.makeRoom vas n s.ten.pages.length
    if n ≤ s.framesFree then (State.reframe (s.onTen fun t => m.foldl (fun t va => t.setPage va fun p => { p with st := .hbm }) t), true)
    else (s, false)

/-- PAGER_RESTART: the pages of the faulting instruction are resident and retained, and the team goes on at its phase start. -/
def execPagerRestart (t k : Nat) (s : State) : Out :=
  .next (s.atTenant t fun s =>
    match s.ten.team? k with
    | none => s
    | some x => match x.wait with
      | .pager ps => match s.bring ps with
        | (s, false) => s
        | (s, true) => s.onTen fun t => t.onTeam k fun x => { x with wait := .run, retained := union x.retained ps }
      | _ => s)

/-- FRAMES_TIMEOUT: frames are lacking, all that are left are pinned or retained for other teams, and none has been released. -/
def execFramesTimeout (t k : Nat) (s : State) : Out :=
  .next (s.atTenant t fun s =>
    match s.ten.team? k with
    | none => s
    | some x => match x.wait with
      | .pager ps =>
        let s := s.makeRoom ps (s.ten.framesOf (s.ten.missing ps)) s.ten.pages.length
        if s.framesFree < s.ten.framesOf (s.ten.missing ps) && (s.ten.evictable ps).isEmpty then
          s.atTeam t k fun s => s.endFault cFrames 0 0 (ps.headD 0)
        else s
      | _ => s)

/-- Page `p` in HBM goes to other frames, once it has been invalidated and nothing uses it any more (21 R346, 25 R391); false while that
cannot be done. -/
def State.rehome (s : State) (p : Page) : State × Bool :=
  let s := s.makeRoom [p.va] p.frames s.ten.pages.length
  let s := s.invalidate p.va p.size
  let used := s.ten.stage2.filterMap fun g => g.pa.map fun a => (a, g.size)
  let new := placeAllPA s.ctr (s.tenChannels * 2147483648) (s.ten.stage2.filter fun g => inside p.gpa p.size g.gpa) used
  if s.ten.inUse p.va p.size || decide (s.framesFree < p.frames) || new.any (fun g => g.pa.isNone) then (s, false)
  else (s.onTen fun t => { t with stage2 := t.stage2.filter (fun g => !inside p.gpa p.size g.gpa) ++ new }, true)

/-- A page with a poisoned sector is moved to healthy frames (25 R391); one that has left its frames already needs no move. -/
def State.heed (s : State) (va : Nat) : State × Bool :=
  match (findBy (·.va) va s.ten.pages).filter fun p => p.st == .hbm && s.ten.unwell.contains va with
  | none => (s, true)
  | some p => s.rehome p

/-- PAGE_ARRIVAL: a page that was asked for becomes resident, or moves to healthy frames; a request for one that is mapped no more is
dropped. -/
def execPageArrival (t va : Nat) (s : State) : Out :=
  .next (s.atTenant t fun s =>
    if !s.ten.pageReqs.contains va then s
    else match s.heed va with
    | (s, false) => s
    | (s, true) =>
      let s := s.onTen fun t => { t with unwell := t.unwell.filter fun x => x != va }
      match s.bring [va] with
      | (s, false) => s
      | (s, true) => s.onTen fun t => { t with pageReqs := t.pageReqs.filter fun x => x != va })

end Sys2Proof.Machine
end

