-- ==== Sys2Proof/Machine/Shutter.lean ====
section
/-!
DEFINITION. Contexts and the shutter (21 R348 to R352, 10 R217, R218): saving a context's blocks from a pane, restoring a block, the
loss of a context.
-/
namespace Sys2Proof.Machine

/-! ### Whose turn it is (R348) -/

/-- Does the context have saved blocks, or a released launch with blocks for this pane? -/
def Tenant.hasWork (t : Tenant) (p : Pane) (c : Ctx) : Bool :=
  !c.saved.isEmpty || t.launches.any fun l =>
    l.ctx == c.num && l.waiting && (match l.bin with | some b => b.2 == p.bay / 8 | none => true)
/-- The next other context with work, in round-robin order. -/
def Tenant.nextCtx (t : Tenant) (p : Pane) : Option Nat :=
  let others := (t.ctxs.filter fun c => p.ctx < c.num) ++ t.ctxs.filter fun c => c.num < p.ctx
  (others.find? (t.hasWork p)).map (·.num)

/-! ### Saving (R349) -/

def Tenant.paneCores (t : Tenant) (p : Nat) : List Core := t.cores.filter fun c => c.pane == p
def Tenant.paneBlocks (t : Tenant) (ctx p : Nat) : List Block :=
  t.blocks.filter fun b => b.ctx == ctx && (t.paneCores p).any fun c => c.num == b.core
def Tenant.teamsIn (t : Tenant) (bs : List Block) : List Team := t.teams.filter fun x => bs.any fun b => b.key == x.blk

/-- Every drain of these blocks has completed, every copy-in of a closed phase has arrived, and results still outstanding for teams
without an open phase have been written, their counters being saved as zero. -/
def Tenant.quiet (t : Tenant) (bs : List Block) : Bool :=
  let ks := (t.teamsIn bs).map (·.key)
  !(t.queued.any fun b => ks.contains b.team && b.recs.any fun r => match r with | .drain _ _ _ _ _ => true | _ => false) &&
    !(t.sectors.any fun x => ks.contains x.team) && (t.teamsIn bs).all fun x => x.openPhase? || x.pend.isEmpty

/-- A block and its teams leave their core for the save area, with the core's macro state (10 R217); its first-level TLB entries are dropped. -/
def Tenant.saveBlock (t : Tenant) (p : Nat) (b : Block) : Tenant :=
  match t.core? b.core with
  | none => t
  | some c =>
    let mine (e : Option BufEntry) : Bool := e.any fun e => e.blk == b.key
    let sv : Saved :=
      { blk := b, pane := p, macs := c.macs, macGrp := (c.num, t.saves)
        teams := (t.teams.filter fun x => x.blk == b.key && x.wait != .ended).map fun x => { x with retained := [] }
        ents := c.bt.filterMap fun e => e.2.bind fun y => if y.blk == b.key then some (e.1, y) else none }
    let t := t.onCtx b.ctx fun x => { x with saved := x.saved ++ [sv] }
    let t := t.onCore b.core fun c =>
      Core.clearTlb { c with bt := c.bt.filter (fun e => !mine e.2), macGrp := sv.macGrp } b.tlbBase b.tlbN
    Tenant.settle { t with
      blocks := removeBy (·.key) b.key t.blocks
      teams := t.teams.filter fun x => x.blk != b.key }

def noMacs : List Mac := [{}, {}, {}, {}]
/-- A core with the macro state that a context keeps for it. -/
def Core.takeMacs (c : Core) (x : Ctx) : Core := { c with macs := look noMacs c.num x.macs, macGrp := look (0, 0) c.num x.macGrps }

/-- The pane passes from one context to another: the macros of its cores are saved, and those of the new context restored or reset
(10 R217, R218). -/
def Tenant.switchPane (t : Tenant) (p cur nx : Nat) : Tenant :=
  let cs := t.paneCores p
  let t := t.onCtx cur fun x => { x with
    macs := cs.foldl (fun l c => put noMacs c.num c.macs l) x.macs
    macGrps := cs.foldl (fun l c => put (0, 0) c.num c.macGrp l) x.macGrps
    stalled := x.stalled.filter fun q => q != p
    saving := x.saving.filter fun q => q != p }
  let x := (t.ctx? nx).getD {}
  { t with
    saves := t.saves + 1
    cores := t.cores.map fun c => if c.pane == p then c.takeMacs x else c
    panes := changeBy (·.num) p (fun q => { q with ctx := nx }) t.panes }

/-- Issue has stopped on the pane, the save waits for drains and copy-ins (R349). -/
def Tenant.waitSave (t : Tenant) (ctx p : Nat) : Tenant := t.onCtx ctx fun x => { x with saving := addNew p x.saving }
/-- A write to the save area has met an unmapped page (R350). -/
def Tenant.stallSave (t : Tenant) (ctx p : Nat) : Tenant := t.onCtx ctx fun x => { x with stalled := addNew p x.stalled }
/-- Nothing is to be saved any more. -/
def Tenant.unstall (t : Tenant) (ctx p : Nat) : Tenant :=
  t.onCtx ctx fun x => { x with stalled := x.stalled.filter (fun q => q != p), saving := x.saving.filter fun q => q != p }

/-- Steps 1 to 4 for the blocks of a context on a pane: the state after the discards, and whether the blocks have been saved. -/
def State.savePane (s : State) (ctx p : Nat) (stall : Bool) : State × Bool :=
  let s := s.dropTeams ((s.ten.teamsIn (s.ten.paneBlocks ctx p)).map (·.key))
  let bs := s.ten.paneBlocks ctx p
  if !s.ten.quiet bs then (s.onTen fun t => t.waitSave ctx p, false)
  else if stall then (s.onTen fun t => t.stallSave ctx p, false)
  else (s.onTen fun t => bs.foldl (fun t b => t.saveBlock p b) t, true)

/-- QUANTUM_EXPIRY on pane `p`: `stall` says that a write to the save area met an unmapped page (R350). The same event goes on with a
save that has stalled or still waits. -/
def execQuantumExpiry (t p : Nat) (stall : Bool) (s : State) : Out :=
  .next (s.atTenant t fun s =>
    match s.ten.pane? p with
    | none => s
    | some q =>
      match s.ten.nextCtx q with
      | none => s.onTen fun t => t.unstall q.ctx p
      | some nx =>
        match s.savePane q.ctx p stall with
        | (s, true) => s.onTen fun t => t.switchPane p q.ctx nx
        | (s, false) => s)

/-! ### Restoring (R351) -/

/-- New entry numbers for the entries of one team: its reserved ones first, then the pool; none where the pool has too few. -/
def renumber (reserved : List Nat) : List Nat → List Nat → Option (List (Nat × Nat) × List Nat)
  | [], pool => some ([], pool)
  | e :: es, pool =>
    match reserved, pool with
    | r :: rs, _ => (renumber rs es pool).map fun q => ((e, r) :: q.1, q.2)
    | [], p :: ps => (renumber [] es ps).map fun q => ((e, p) :: q.1, q.2)
    | [], [] => none

/-- The entries of every team of a saved block, from a list of free numbers; four are reserved for each team. -/
def Saved.numbers (b : Saved) (free : List Nat) : Option (List (Nat × Nat)) :=
  let n := b.teams.length
  let go := (List.range n).foldl (fun (acc : Option (List (Nat × Nat) × List Nat)) i =>
    acc.bind fun a =>
      let k := ((b.teams[i]?).map (·.key)).getD 0
      (renumber ((free.drop (4 * i)).take 4) ((b.ents.filter fun e => e.2.team == k).map (·.1)) a.2).map fun r => (a.1 ++ r.1, r.2))
    (some ([], free.drop (4 * n)))
  go.map (·.1)

/-- A saved block placed on core `c` in the fit `f`. The macro state saved with it comes back where the context has no other block on the core,
unless the core holds that state, or what its blocks have since made of it, already (10 R217). Where blocks of one context saved on several
cores meet on one core, the macros stay as the first of them has them (DESIGN CHOICE, log 74). -/
def State.putBack (s : State) (b : Saved) (l : Launch) (c : Core) (f : List Nat × Nat) : Option State :=
  let ten := s.ten
  let free := ten.freeEntries c
  (b.numbers free).map fun nums =>
    let new (n : Nat) : Nat := look n n nums
    let tlb := ten.tlbRange c.num
    let blk : Block := { b.blk with core := c.num, tlbBase := tlb.2.1, tlbN := tlb.2.2, run := f.2, runN := l.rc.units }
    let c' := b.ents.foldl (fun c e => c.setEntry (new e.1) (some e.2)) c
    let first := !(ten.blocksOn c.num).any fun x => x.launch == l.id
    let fl := ten.seenBy ((b.teams.head?.map (·.key)).getD 0) c.num c.die
    let c' := if first then { c' with wins := c'.wins ++ [(l.id, ten.stage s.ctr fl l.rc.arg)] } else c'
    let lone := !(ten.blocksOn c.num).any fun x => x.ctx == b.blk.ctx
    let c' := if lone && c.macGrp != b.macGrp then { c' with macs := b.macs, macGrp := b.macGrp } else c'
    let c'' := { c' with tlb := ((tlb.1.core? c.num).map (·.tlb)).getD c'.tlb }
    let teams := (List.range b.teams.length).filterMap fun i => (b.teams[i]?).map fun x =>
      (State.mark { s with
        team := { x with
          core := c.num, quarter := f.1.getD i 0, reserved := (free.drop (4 * i)).take 4
          h := x.h.map fun p => (p.1, p.2.map new) }
        core := c'', blk := blk }).team
    let ten := (tlb.1.onCore c.num fun _ => c'').onCtx b.blk.ctx fun x =>
      { x with saved := x.saved.filter fun (y : Saved) => y.blk.key != b.blk.key }
    { s with
      ten := { ten with
        blocks := addBy (·.key) blk tlb.1.blocks
        teams := teams.foldl (fun l x => addBy (·.key) x l) tlb.1.teams } }

/-- CONTEXT_RESTORE: saved block `b` goes to core `c`, once the pages of its argument block are there. -/
def execContextRestore (t b c : Nat) (s : State) : Out :=
  .next (s.atTenant t fun s =>
    match (s.ten.ctxs.flatMap (·.saved)).find? fun x => x.blk.key == b, s.ten.core? c with
    | some x, some k =>
      match s.ten.launch? x.blk.launch with
      | none => s
      | some l =>
        if s.ten.frozen || s.ten.mig.isSome || !s.ten.mayRun { l with ctx := x.blk.ctx } k then s
        else if !(s.ten.stagePages l.rc).isEmpty then s.onTen fun ten => ten.request (ten.stagePages l.rc)
        else match s.ten.fitWith s.ctr { l.rc with teams := x.teams.length } l.rc.units k with
          | none => s
          | some f => (s.putBack x l k f).getD s
    | _, _ => s)

/-! ### The loss of a context (R350) -/

/-- Launches that are dropped, with the records that unplaced consumers would have taken; no object is incremented. -/
def Tenant.dropLaunches (t : Tenant) (p : Launch → Bool) : Tenant :=
  let ids := (t.launches.filter p).map (·.id)
  let rings : Sparse (List (List Word × Option Nat)) :=
    t.rings.map fun r => (r.1, r.2.filter fun x => match x.2 with | some i => !ids.contains i | none => true)
  let t : Tenant := { t with
    gangLeft := t.gangLeft ++ (t.launches.filter p).flatMap Launch.undecided
    launches := t.launches.filter fun l => !p l
    rings := rings.filter fun r => !r.2.isEmpty }
  t.endDrains.serveWaiting t.binWait.length

/-- The atomics that teams in the save areas of some contexts have still to perform. -/
def Tenant.orphanSaved (t : Tenant) (p : Ctx → Bool) : Tenant :=
  (((t.ctxs.filter p).flatMap (·.saved)).flatMap (·.teams)).foldl (fun t x => t.orphan x (t.dieOf x.core)) t

/-- Teams that end without a report. -/
def State.endTeams (s : State) (ks : List Nat) : State :=
  (ks.foldl (fun s k => s.atTeam s.ten.num k fun s => if s.team.wait == .ended then s else s.drop.endTeam) s).stow

/-- Context `c` is LOST: its teams end, its launches are dropped, one report names the page. -/
def State.loseContext (s : State) (c va : Nat) : State :=
  let s := s.endTeams ((s.ten.teamsIn (s.ten.blocks.filter fun b => b.ctx == c)).map (·.key))
  let s := s.onTen fun t =>
    let t := t.orphanSaved fun x => x.num == c
    Tenant.dropLaunches (t.onCtx c fun x => { x with saved := [], macs := [], macGrps := [], stalled := [], saving := [], lost := true }) fun (l : Launch) => l.ctx == c
  s.report 1 (faultBytes cLost 0 0 0 0 0xFFFF 0 va) 0

/-- SAVE_MAP_TIMEOUT: the page `va` of the save area was not mapped in time. -/
def execSaveMapTimeout (t p : Nat) (va : DWord) (s : State) : Out :=
  .next (s.atTenant t fun s =>
    match s.ten.pane? p with
    | none => s
    | some q =>
      if !((s.ten.ctx? q.ctx).any fun x => x.stalled.contains p) then s
      else
        let s := s.loseContext q.ctx va.toNat
        s.onTen fun t =>
          let t : Tenant := { t with cores := t.cores.map fun c => if (t.pane? c.pane).any (fun x => x.ctx == q.ctx) then { c with macs := noMacs, macGrp := (0, 0) } else c }
          (t.panes.filter fun x => x.ctx == q.ctx).foldl (fun t x =>
            match t.nextCtx x with
            | some nx => (t.switchPane x.num q.ctx nx).onCtx q.ctx fun y => { y with macs := [], macGrps := [] }
            | none => t) t)

end Sys2Proof.Machine
end

