-- ==== Sys2Proof/Machine/Gangs.lean ====
section
/-!
DEFINITION. Gang launches (24 R380, R381). A gang is named by its GANGID as a number.
-/
namespace Sys2Proof.Machine

/-- The tenant's launch that is a member of gang `g`, in its list or gone before the decision, with its gang block. -/
def Tenant.member? (t : Tenant) (g : Nat) : Option (Nat × Gang) :=
  (t.launches.flatMap (fun l => (l.gang.map fun x => (l.id, x)).toList) ++ t.gangLeft).find? fun x => x.2.id.toNat == g

/-- READY of member `rank` reaches rank 0; one that comes before rank 0's own submission is kept for it (R380). -/
def execReady (t g rank : Nat) (s : State) : Out :=
  .next (s.atTenant t fun s =>
    match s.ten.member? g with
    | some (l, x) => if x.rank == 0 && x.decided.isNone && decide (rank < x.nmem) then s.gotReady l x rank else s
    | none =>
      if s.ten.gangDec.any fun d => d.1.toNat == g then s
      else s.onTen fun t => { t with readies := if t.readies.contains (g, rank) then t.readies else t.readies ++ [(g, rank)] })

/-- COMMIT reaches a member. -/
def execCommit (t g : Nat) (s : State) : Out :=
  .next (s.atTenant t fun s =>
    match s.ten.member? g with
    | some (l, x) => if x.decided.isNone then s.setDecision l x true else s
    | none => s)

/-- The member's launch ends (R381): its teams end, its blocks are dropped, no object is incremented, GANG_FAIL is queued, and a LAUNCH
request that is still open receives it; of a launch that has left there is only the event and the answer. Lanes of returning atomics
on their way are still performed (09 R197). -/
def State.abortMember (s : State) (l : Nat) (g : Gang) (rank : Nat) : State :=
  let s := s.setDecision l g false
  let s := s.endTeams ((s.ten.teamsIn (s.ten.blocks.filter fun b => b.launch == l)).map (·.key))
  let s := s.onTen fun t =>
    let t := ((t.ctxs.flatMap (·.saved)).filter fun b => b.blk.launch == l).foldl (fun t b =>
      b.teams.foldl (fun t x => t.orphan x (t.dieOf x.core)) t) t
    let t : Tenant := { t with ctxs := t.ctxs.map fun (c : Ctx) => { c with saved := c.saved.filter fun (b : Saved) => b.blk.launch != l } }
    t.dropLaunches fun x => x.id == l
  s.report 2 (leBytes 8 g.id.toNat ++ leBytes 4 rank) 0

/-- ABORT, caused by `rank`, reaches a member. -/
def execAbort (t g rank : Nat) (s : State) : Out :=
  .next (s.atTenant t fun s =>
    match s.ten.member? g with
    | some (l, x) => if x.decided == some true then s else s.abortMember l x rank
    | none => s)

/-- GANG_TIMEOUT: rank 0 lacks a READY when TMO has passed; the lowest missing member is the cause. -/
def execGangTimeout (t g : Nat) (s : State) : Out :=
  .next (s.atTenant t fun s =>
    match s.ten.member? g with
    | some (l, x) =>
      if x.rank == 0 && x.decided.isNone then
        let cause := ((List.range x.nmem).find? fun r => !x.got.contains r).getD 0
        (s.decideGang l x false).abortMember l { x with q := none } cause
      else s
    | none => s)

/-- The answer of rank 0 to a member's question, if it still keeps the decision. -/
def State.answerGang (s : State) (g rank : Nat) : State :=
  match s.ten.gangDec.find? fun d => d.1.toNat == g with
  | some d => match d.2.2[rank]? with
    | some a => { s with out := s.out ++ [.gangDecision a d.1 d.2.1] }
    | none => s
  | none => s

/-- GANG_DECISION_QUERY: a member without a decision asks rank 0, an unreachable one counting as ABORT; or the question of member `rank`
reaches rank 0. -/
def execGangDecisionQuery (t g rank : Nat) (reached : Bool) (s : State) : Out :=
  .next (s.atTenant t fun s =>
    match s.ten.member? g with
    | some (l, x) =>
      if x.rank != 0 then
        if x.decided.isSome then s
        else if reached then { s with out := s.out ++ [.gangAsk (x.addrs.headD 0) x.id x.rank] }
        else s.abortMember l x 0
      else s.answerGang g rank
    | none => s.answerGang g rank)

/-- GANG_DECISION_EXPIRY: rank 0 keeps its decision no longer. -/
def execGangDecisionExpiry (t g : Nat) (s : State) : Out :=
  .next (s.atTenant t fun s => s.onTen fun ten => { ten with gangDec := ten.gangDec.filter fun d => d.1.toNat != g })

end Sys2Proof.Machine
end

