-- ==== Sys2Proof/Machine/Windows.lean ====
section
/-!
DEFINITION. Requests of RoCEv2 peers on windows, and the acknowledgement of REMOTE parts (24 R377 to R379, R383).
-/
namespace Sys2Proof.Machine

/-- Does a prefix hold an address? -/
def prefixHas (a : Ip) (p : Ip × Nat) : Bool := decide (p.2 ≤ 128) && a >>> (128 - p.2) == p.1 >>> (128 - p.2)

/-- One completed batch of domain SYSTEM written by the host or a peer (R374, R377). -/
def Tenant.hostWrite (t : Tenant) (ws : List (Nat × List Byte)) : Tenant :=
  let id := t.nextBatch
  let as := ws.flatMap fun w => span w.1 w.2.length
  Tenant.heal { t with
    nextBatch := id + 1
    done := t.done ++ [{ id := id, team := 0, dom := .system }]
    main := (ws.foldl (fun m w => m.writes id w.1 w.2) t.main).mark { team := some 0, dom := .system } as } as

/-- Which permission of a window an operation needs. -/
inductive WinUse where
  | r | w | a
  deriving DecidableEq, Repr

def Window.grants (x : Window) (u : WinUse) : Bool :=
  match u with
  | .r => x.r
  | .w => x.w
  | .a => x.a

/-- Does the page take the operation? REMOTE pages count as unmapped. -/
def Page.serves (p : Page) (u : WinUse) : Bool :=
  p.st != .remote && (match u with | .r => p.r | .w => p.w | .a => p.r && p.w)

/-- What a request of `n` bytes meets: refused, moved away, pages to be brought, or free to go. -/
inductive PeerGate where
  | nak
  | gone (target : Ip)
  | away (pages : List Nat)
  | go
  deriving DecidableEq, Repr

def Tenant.gate (t : Tenant) (q : PeerOp) (u : WinUse) (n : Nat) : PeerGate :=
  match findBy (·.id) (q.rkey.toNat % 65536) t.windows with
  | none => .nak
  | some x =>
    let va := q.va.toNat
    let as := span va n
    if !(x.grants u && (x.pfx.any (prefixHas q.src)) && decide (x.va ≤ va) && decide (va + n ≤ x.va + x.len)) then .nak
    else if t.mig.isNone && t.moved.isSome then .gone (t.moved.getD 0)
    else if as.any fun a => (t.pageAt a).isNone || (t.pageAt a).any fun p => !p.serves u then .nak
    else match t.mig, t.moved with
      | some m, some ip => if m.moved && (t.pageVAs as).any (fun p => !m.left.contains p) then .gone ip
        else if as.any t.poisoned then .nak else .go
      | _, some ip => .gone ip
      | _, none =>
        if !(t.missing (t.pageVAs as)).isEmpty then .away (t.pageVAs as)
        else if as.any t.poisoned && u != .w then .nak else .go

/-- A request on the tenant that its key names. The pager brings absent pages first; where it cannot now, they are asked for. -/
def State.peerRequest (q : PeerOp) (u : WinUse) (n : Nat) (f : State → State) (s : State) : State :=
  if s.power != .up then s
  else match s.openTenant (q.rkey.toNat / 65536) with
  | none => { s with out := s.out ++ [.peerNak q.src] }
  | some s =>
    match s.ten.gate q u n with
    | .nak => { s with out := s.out ++ [.peerNak q.src] }
    | .gone ip => { s with out := s.out ++ [.peerMoved q.src ip] }
    | .go => f s
    | .away ps => match s.bring ps with
      | (s, true) => f s
      | (s, false) => s.onTen fun t => t.request (t.missing ps)

/-- One operation of a part on main memory, as part of batch `id`. -/
def partOnto (id : Nat) (m : Space) : PartOp → Space
  | .write _ va data => m.writes id va.toNat data
  | .atom _ va op a c => match atomOp op 4 (BitVec.ofNat 64 (m.num va.toNat 8)) a c with
    | some v => m.writes id va.toNat (leBytes 8 v.toNat)
    | none => m
/-- The bytes that an operation covers, the permission that it needs. -/
def partBytes : PartOp → List Nat
  | .write _ va data => span va.toNat data.length
  | .atom _ va _ _ _ => span va.toNat 8
def partUse : PartOp → WinUse
  | .write _ _ _ => .w
  | .atom _ _ _ _ _ => .a
def partKey : PartOp → Word
  | .write k _ _ => k
  | .atom k _ _ _ _ => k
def partAligned : PartOp → Bool
  | .write _ _ _ => true
  | .atom _ va _ _ _ => va.toNat % 8 == 0

/-- A peer's message, with the part that it opens, as one batch of domain SYSTEM (R377, R379). -/
def Tenant.peerWrite (t : Tenant) (ops : List PartOp) : Tenant :=
  let id := t.nextBatch
  let as := ops.flatMap partBytes
  Tenant.heal { t with
    nextBatch := id + 1
    done := t.done ++ [{ id := id, team := 0, dom := .system }]
    main := (ops.foldl (partOnto id) t.main).mark { team := some 0, dom := .system } as } as

/-- What the operations of a part meet: the first that may not go decides. -/
def Tenant.gateAll (t : Tenant) (q : PeerOp) (ops : List PartOp) : PeerGate :=
  ((ops.map fun o =>
    if partAligned o && (partKey o).toNat / 65536 == q.rkey.toNat / 65536 then
      t.gate { q with rkey := partKey o, va := BitVec.ofNat 64 ((partBytes o).headD 0) } (partUse o) (partBytes o).length
    else PeerGate.nak).find? fun g => g != .go).getD .go

/-- RDMA_WRITE: a part of one or more writes, as one batch (24 R377, R379). -/
def execRdmaWrite (q : PeerOp) (s : State) : Out :=
  .next (s.peerRequest q .w q.data.length fun s =>
    match s.ten.gateAll q q.part with
    | .nak => { s with out := s.out ++ [.peerNak q.src] }
    | .gone ip => { s with out := s.out ++ [.peerMoved q.src ip] }
    | .away ps => s.onTen fun t => t.request (t.missing ps)
    | .go =>
      let ops := .write q.rkey q.va q.data :: q.part
      { s with ten := (s.ten.peerWrite ops).poolHit s.ctr none (ops.flatMap partBytes), out := s.out ++ [.peerAck q.src] })

/-- RDMA_READ (24 R377). -/
def execRdmaRead (q : PeerOp) (s : State) : Out :=
  .next (s.peerRequest q .r q.len fun s => { s with out := s.out ++ [.peerData q.src (s.ten.main.gets q.va.toNat q.len)] })

/-- An 8-byte atomic of a peer: a returning atomic of scope SYSTEM whose line record names the peer. -/
def State.peerAtomic (q : PeerOp) (op : Nat) (a c : DWord) (s : State) : State :=
  if s.power != .up then s
  else if q.va.toNat % 8 != 0 then { s with out := s.out ++ [.peerNak q.src] }
  else s.peerRequest q .a 8 fun s =>
    let p := performAt s.ten [] [] 0 0 0 4 0 op 4 q.va.toNat a c
    { s with
      ten := if (atomOp op 4 p.old a c).isSome then p.ten.poolHit s.ctr none (span q.va.toNat 8) else p.ten
      out := s.out ++ [.peerOld q.src p.old] }

/-- FETCH_ADD on 8 bytes (24 R377). -/
def execFetchAdd (q : PeerOp) (s : State) : Out := .next (s.peerAtomic q 0 q.arg 0)
/-- COMPARE_SWAP on 8 bytes (24 R377). -/
def execCompareSwap (q : PeerOp) (s : State) : Out := .next (s.peerAtomic q 7 q.cmp q.arg)
/-- Any other operation of a peer is refused (24 R377). -/
def execPeerUnsupportedOp (q : PeerOp) (s : State) : Out :=
  .next (if s.power != .up then s else { s with out := s.out ++ [.peerNak q.src] })

/-! ### Parts of REMOTE batches (R379) -/

def Tenant.endPart (t : Tenant) (b p : Nat) : Tenant :=
  { t with queued := changeBy (·.id) b (fun x => { x with parts := x.parts.filter fun y => y != p }) t.queued }
/-- Has part `p` of batch `b` been sent and not yet acknowledged? -/
def Tenant.partOpen (t : Tenant) (b p : Nat) : Bool := (findBy (·.id) b t.queued).any fun x => x.sent && x.parts.contains p

/-- PEER_ACK: the part is open no longer (24 R379). -/
def execPeerAck (t b p : Nat) (s : State) : Out := .next (s.atTenant t fun s => s.onTen fun ten => ten.endPart b p)

/-- The mappings through which part `p` of a batch goes. -/
def Tenant.partMaps (t : Tenant) (b p : Nat) : List PeerMap :=
  let as := ((t.queued.filter fun x => x.id == b).flatMap (·.recs)).flatMap Rec.addrs
  t.peers.filter fun m => t.peerOf m == p && as.any fun a => (t.peerAt a).any fun x => x.idx == m.idx

/-- PEERFAIL: the part is dropped; each mapping that it used fails, with an event. -/
def execPeerfail (t b p : Nat) (s : State) : Out :=
  .next (s.atTenant t fun s =>
    if !s.ten.partOpen b p then s
    else
      let ms := s.ten.partMaps b p
      ms.foldl (fun s m => s.report 3 (leBytes 16 m.peer.toNat ++ leBytes 4 m.win) 0)
        (s.onTen fun ten => { ten.endPart b p with
          peers := ten.peers.map fun x => if ms.any fun m => m.idx == x.idx then { x with failed := true } else x }))

end Sys2Proof.Machine
end

