-- ==== Sys2Proof/Machine/Rpc.lean ====
section
/-!
DEFINITION. What every Ouvmon RPC request goes through (24 R368 to R370, R373, R374): what is dropped, what is refused, duplicates,
replies and their history. `execUnassignedMethod` is the method that has no meaning.
-/
namespace Sys2Proof.Machine

/-! ### The header (R369) -/

def isOurs (q : Datagram) : Bool := q.magic == 0x4350524F#32 && q.version == 1#16
def isReply (q : Datagram) : Bool := q.flags.getLsbD 0
def ctxOf (q : Datagram) : Nat := (q.flags.extractLsb' 1 3).toNat
/-- Must-be-zero fields, reserved flags, LENGTH. -/
def isClean (q : Datagram) : Bool :=
  q.status == 0 && q.flags.extractLsb' 4 28 == 0 && decide (q.len.toNat ≤ 8160) && q.len.toNat == q.payload.length
/-- Field of the payload. -/
def argOf (q : Datagram) (o n : Nat) : Nat := field q.payload o n

/-! ### Execution -/

/-- What the execution of a request gives: a reply, a reply that comes later, or nothing yet, because it waits for something. -/
inductive Done where
  | reply (s : State) (st : Nat) (payload : List Byte)
  | later (s : State)
  | hold (s : State)

/-- A refusal without effect. -/
def refuse (s : State) (st : Nat) : Done := .reply s st []

/-- Is the request one whose reply is still to come? -/
def Tenant.pending (t : Tenant) (q : Datagram) : Bool :=
  (t.waits.any fun w => w.q.src == q.src && w.q.reqid == q.reqid) ||
    (t.take.any fun k => k.q.src == q.src && k.q.reqid == q.reqid) || (t.mig.any fun m => m.q.src == q.src && m.q.reqid == q.reqid) ||
    ((t.launches.filterMap (·.gang)) ++ t.gangLeft.map (·.2)).any fun g => g.q.any fun x => x.src == q.src && x.reqid == q.reqid

/-- Does an earlier request of the tenant wait, so that this one has to (R374)? -/
def Tenant.busyFor (t : Tenant) (q : Datagram) : Bool := (t.inbox.head?).any fun x => x != q
/-- A request whose execution is over leaves its place to the next. -/
def State.over (s : State) (q : Datagram) : State := s.onTen fun t => { t with inbox := t.inbox.erase q }
/-- A request that waits for something keeps its place, those behind it theirs. -/
def State.waitsOn (s : State) (q : Datagram) : State := s.onTen fun t => { t with inbox := if t.inbox.contains q then t.inbox else t.inbox ++ [q] }

/-- The execution of request `q` of a tenant with its context; STATUS (`always`) leaves the history alone. -/
def State.execute (s : State) (q : Datagram) (always : Bool) (f : Nat → State → Done) : State :=
  match f (ctxOf q) s with
  | .reply s st p => (if always then s.send q st p else s.answer q st p).over q
  | .later s => (s.onTen fun t => t.onSource q.src fun x => x.start q.reqid.toNat).over q
  | .hold s => s.waitsOn q

/-- A request whose turn it is: answered from the history, refused where the header, the layout, CTX or its REQID is wrong, else executed. -/
def State.serve (u : State) (q : Datagram) (layout always : Bool) (f : Nat → State → Done) : State :=
  let x := (u.ten.source? q.src).getD { addr := q.src, high := none, kept := [] }
  let id := q.reqid.toNat
  match (if always then none else x.kept.find? fun k => k.1 == id) with
  | some k => (u.send q k.2.1 k.2.2).over q
  | none =>
    if !isClean q || !layout || (u.ten.ctx? (ctxOf q)).isNone then (u.send q rBadreq []).over q
    else if !always && u.ten.pending q then u.over q
    else if !always && x.high.any (fun h => decide (id < h)) then (u.send q rBadreq []).over q
    else u.execute q always f

/-- A tenant's request (R369, R374): dropped from outside its prefixes, DENIED to an unbound tenant and a 65th address, answered MOVED after
a migration; it waits behind an earlier one that waits. STATUS (`always`) is executed whatever its REQID. -/
def State.request (s : State) (q : Datagram) (layout : Bool) (always : Bool) (f : Nat → State → Done) : State :=
  if s.power != .up || !isOurs q || isReply q then s
  else match s.openTenant q.tenant.toNat with
    | none => s.send q rDenied []
    | some u =>
      if u.ten.pfx.isEmpty then s.send q rDenied []
      else if !u.ten.pfx.any (prefixHas q.src) then s
      else match u.ten.moved with
        | some ip => s.send q rMoved (leBytes 16 ip.toNat)
        | none =>
          if (u.ten.source? q.src).isNone && decide (64 ≤ u.ten.sources.length) then s.send q rDenied []
          else if u.ten.busyFor q then u.waitsOn q
          else (u.onTen fun t => t.track q.src).serve q layout always f

/-- A request of method `m`. -/
def State.rpc (s : State) (q : Datagram) (m : Nat) (layout : Bool) (f : Nat → State → Done) : State :=
  if q.method.toNat == m then s.request q layout false f else s

/-- An operator's request (R367): from an operator address, with TENANT 0xFFFF_FFFF; from another address it is dropped. Under a
tenant's own number the method is refused like any malformed request (R369). The CTX bits of its FLAGS may hold anything (DESIGN CHOICE, log 87). -/
def State.operator (s : State) (q : Datagram) (layout : Bool) (f : State → State × Nat × List Byte) : State :=
  if s.power != .up || !isOurs q || isReply q || q.method.toNat != 19 then s
  else if q.tenant != 0xFFFFFFFF#32 then s.request q false false fun _ s => refuse s rBadreq
  else if !Config.isOperator q.src then s
  else if !isClean q || !layout then s.send q rBadreq []
  else
    let r := f s
    r.1.send q r.2.1 r.2.2

/-- UNASSIGNED_METHOD: METHOD 0 and 21 on are refused with BADREQ; a datagram that fails MAGIC or VERSION is dropped. -/
def execUnassignedMethod (q : Datagram) (s : State) : Out :=
  .next (if q.method.toNat == 0 || decide (21 ≤ q.method.toNat) then s.request q false false fun _ s => refuse s rBadreq else s)

end Sys2Proof.Machine
end

