-- ==== Sys2Proof/Machine/Requests.lean ====
section
/-!
DEFINITION. The data, launch and status methods of Ouvmon RPC (24 R365, R370 to R376).
-/
namespace Sys2Proof.Machine

/-! ### Pages -/

def pageSize (code : Nat) : Nat := if code == 0 then 65536 else if code == 1 then 2097152 else 1073741824
def allocState (code : Nat) : PageSt := if code == 0 then .hbm else if code == 1 then .direct else .tier

/-- Bytes of main memory start afresh: entry 0 is 0, with no history, line record or poison. -/
def Tenant.fresh (t : Tenant) (va len : Nat) : Tenant :=
  { t with
    main :=
      { cells := t.main.cells.filter fun c => !inside va len c.1
        hist := t.main.hist.filter fun c => !inside va len c.1
        lines := t.main.lines.filter fun c => !inside va len (128 * c.1) }
    poison := t.poison.filter fun p => !inside va len (32 * p) }

/-- Does a range meet a mapping? -/
def Tenant.overlaps (t : Tenant) (va len : Nat) : Bool := t.pages.any fun p => decide (p.va < va + len) && decide (va < p.va + p.size)

/-- Pages of one size mapped over a range, at fresh guest PAs; both stages map them in pages of that size, and stage 2 grants R and W
(DESIGN CHOICE, log 69). -/
def Tenant.mapRange (t : Tenant) (va len size : Nat) (p : Page) : Tenant :=
  let g := roundUp ((t.stage2.map fun g => g.gpa + g.size).foldl max 0) size
  (List.range (len / size)).foldl (fun t i => { t with
    pages := addBy (·.va) { p with va := va + i * size, size := size, gpa := g + i * size } t.pages
    stage2 := t.stage2 ++ [{ gpa := g + i * size, size := size, r := true, w := true, pa := none }] }) (t.fresh va len)
/-- The mappings of a range taken out of both stages. -/
def Tenant.unmap (t : Tenant) (va len : Nat) : Tenant :=
  let gone := t.pages.filter fun p => inside va len p.va
  { t with
    pages := t.pages.filter fun p => !inside va len p.va
    stage2 := t.stage2.filter fun g => !gone.any fun p => inside p.gpa p.size g.gpa }

/-- Is there room for `n` more frames in this state? -/
def State.roomIn (s : State) (st : PageSt) (n : Nat) : Bool :=
  match st with
  | .hbm => decide (n ≤ s.framesFree)
  | .direct | .tier => decide (n ≤ s.tierFree)
  | _ => true

/-- ALLOC (24 R371): pages at an address, in HBM or DIRECT. -/
def execAlloc (q : Datagram) (s : State) : Out :=
  .next (s.rpc q 2 (q.payload.length == 24) fun _ s =>
    let va := argOf q 0 8
    let len := argOf q 8 8
    let size := pageSize (argOf q 16 1)
    let perm := argOf q 18 1
    if 2 < argOf q 16 1 || 2 < argOf q 17 1 || 7 < perm || 1 < argOf q 19 1 || argOf q 20 4 != 0 then refuse s rBadreq
    else if len == 0 || va % size != 0 || len % size != 0 || 2 ^ 56 < va + len || s.ten.overlaps va len then refuse s rBadreq
    else
      let st := allocState (argOf q 17 1)
      if !s.roomIn st (len / 65536) then refuse s rNospace
      else .reply (State.reframe (s.onTen fun t => t.mapRange va len size
        { va := 0, size := 0, r := perm % 2 == 1, w := perm / 2 % 2 == 1, x := perm / 4 == 1, st := st, pin := argOf q 19 1 == 1, peer := 0 }))
        rOk [])

/-- FREE (24 R371): whole pages go, unless something uses them. -/
def execFree (q : Datagram) (s : State) : Out :=
  .next (s.rpc q 3 (q.payload.length == 16) fun _ s =>
    let va := argOf q 0 8
    let len := argOf q 8 8
    let hit := s.ten.pages.filter fun p => decide (p.va < va + len) && decide (va < p.va + p.size)
    if len == 0 || hit.any (fun p => decide (p.va < va) || decide (va + len < p.va + p.size)) then refuse s rBadreq
    else if (hit.map (·.size)).foldl (· + ·) 0 != len then refuse s rUnmapped
    else
      let s := s.invalidate va len
      if s.ten.inUse va len then .hold s
      else .reply (s.onTen fun t => (t.fresh va len).unmap va len) rOk [])

/-! ### READ and WRITE (R374) -/

/-- What the host meets at `n` bytes: a refusal, pages to be brought first, or nothing. REMOTE pages count as unmapped. -/
inductive HostGate where
  | refused (st : Nat)
  | away (pages : List Nat)
  | go
  deriving DecidableEq, Repr

def Tenant.hostGate (t : Tenant) (w : Bool) (va n : Nat) : HostGate :=
  let as := span va n
  if as.any fun a => (t.pageAt a).isNone || (t.pageAt a).any fun p => p.st == .remote then .refused rUnmapped
  else if w && (t.pagesOf as).any (fun p => !p.w) then .refused rDenied
  else if !w && as.any t.poisoned then .refused rBadreq
  else if (t.missing (t.pageVAs as)).isEmpty then .go else .away (t.pageVAs as)

/-- A host access; the pager brings absent pages first. -/
def State.hostAccess (s : State) (w : Bool) (va n : Nat) (f : State → Done) : Done :=
  match s.ten.hostGate w va n with
  | .refused st => refuse s st
  | .go => f s
  | .away ps => match s.bring ps with
    | (s, true) => f s
    | (s, false) => .hold (s.onTen fun t => t.request (t.missing ps))

/-- READ (24 R371, R374). -/
def execRead (q : Datagram) (s : State) : Out :=
  .next (s.rpc q 4 (q.payload.length == 16) fun _ s =>
    let n := argOf q 8 4
    if 8160 < n || argOf q 12 4 != 0 then refuse s rBadreq
    else s.hostAccess false (argOf q 0 8) n fun s => .reply s rOk (s.ten.main.gets (argOf q 0 8) n))

/-- WRITE (24 R371, R374). -/
def execWrite (q : Datagram) (s : State) : Out :=
  .next (s.rpc q 5 (decide (16 ≤ q.payload.length) && q.payload.length == 16 + argOf q 8 4) fun _ s =>
    let n := argOf q 8 4
    if 8144 < n || argOf q 12 4 != 0 then refuse s rBadreq
    else s.hostAccess true (argOf q 0 8) n fun s =>
      .reply (if n == 0 then s else s.onTen fun t => (t.hostWrite [(argOf q 0 8, q.payload.drop 16)]).poolHit s.ctr none (span (argOf q 0 8) n)) rOk [])

/-! ### LAUNCH and SYNC -/

/-- The gang block at offset 72 (R380). -/
def readGang (q : Datagram) : Gang :=
  { id := BitVec.ofNat 64 (argOf q 72 8), nmem := argOf q 80 2, rank := argOf q 82 2, tmo := argOf q 84 4
    addrs := (List.range (argOf q 80 2)).map fun i => BitVec.ofNat 128 (argOf q (88 + 16 * i) 16), got := [], decided := none, sent := false, q := none }
def gangOk (g : Gang) : Bool :=
  decide (2 ≤ g.nmem) && decide (g.nmem ≤ 64) && decide (g.rank < g.nmem) && decide (1000 ≤ g.tmo) && decide (g.tmo ≤ 10000000)

/-- The reply to a submission: status and launch identifier. -/
def State.submitted (s : State) (ctx : Nat) (rec : List Byte) (g : Option Gang) : Done :=
  let r := s.ten.submit rec ctx g
  .reply { s with ten := r.1 } r.2.1 (leBytes 4 r.2.2 ++ leBytes 4 0)

/-- Rank 0 takes in the READYs that came before its submission (R380). -/
def Tenant.readied (t : Tenant) (g : Gang) : Gang :=
  if g.rank == 0 then
    { g with got := ((t.readies.filter fun r => r.1 == g.id.toNat && r.2 != 0 && decide (r.2 < g.nmem)).map (·.2)) }
  else g

/-- A gang launch: when it is queued it is answered at once, or stays open until the decision (R381), by a free choice. -/
def State.submitGang (s : State) (q : Datagram) (ctx : Nat) : Done :=
  let g := s.ten.readied (readGang q)
  let wait := Config.freeNat s.ctr 9350 % 2 == 1
  let r := s.ten.submit (q.payload.take 64) ctx (some { g with q := if wait then some q else none })
  if r.2.1 == 0 then
    let s := { s with ten := { r.1 with readies := r.1.readies.filter fun x => x.1 != g.id.toNat } }
    if wait then .later s else .reply s 0 (leBytes 4 r.2.2 ++ leBytes 4 0)
  else .reply { s with ten := r.1 } r.2.1 (leBytes 4 0 ++ leBytes 4 0)

/-- LAUNCH (24 R371, R380): a record, or a member of a gang. -/
def execRpcLaunch (q : Datagram) (s : State) : Out :=
  let gang := argOf q 64 4
  .next (s.rpc q 6 (q.payload.length == 72 + if gang == 1 then 16 + 16 * argOf q 80 2 else 0) fun ctx s =>
    if 1 < gang || argOf q 68 4 != 0 || (gang == 1 && !gangOk (readGang q)) then refuse s rBadreq
    else if gang == 1 then s.submitGang q ctx
    else s.submitted ctx (q.payload.take 64) none)

/-- SYNC (24 R371, 16 R282). -/
def execSync (q : Datagram) (s : State) : Out :=
  .next (s.rpc q 8 (q.payload.length == 32) fun ctx s =>
    s.submitted ctx (leBytes 7 0 ++ [3#8] ++ q.payload.take 4 ++ leBytes 12 0 ++ (q.payload.drop 4).take 4 ++ leBytes 12 0 ++ q.payload.drop 8) none)

/-! ### WAIT (R371) -/

/-- An open wait that can be answered now: its object is resident and holds at least the value. -/
def Tenant.waitMet (t : Tenant) (w : OpenWait) : Bool := t.objPage w.va == .here && decide (w.val ≤ t.main.num w.va 8)
def Tenant.endWait (t : Tenant) (w : OpenWait) : Tenant :=
  { t with waits := t.waits.filter fun x => !(x.q.src == w.q.src && x.q.reqid == w.q.reqid) }
/-- The reply to a wait: OK or TIMEOUT, with the value observed. -/
def State.answerWait (s : State) (w : OpenWait) (st : Nat) : State :=
  (s.onTen fun t => t.endWait w).answer w.q st (leBytes 8 (s.ten.main.num w.va 8))

/-- The open wait that request `q` made. -/
def State.openWait? (s : State) (q : Datagram) : Option OpenWait :=
  (s.openTenant q.tenant.toNat).bind fun s => s.ten.waits.find? fun w => w.q == q

/-- WAIT: the request opens a wait or is answered at once; an open wait whose object has reached its value is answered. -/
def execWait (q : Datagram) (s : State) : Out :=
  .next (match s.openWait? q with
    | some w => s.atTenant q.tenant.toNat fun s =>
      if s.ten.waitMet w then s.answerWait w rOk
      else match s.ten.objPage w.va with
        | .away va => s.onTen fun t => t.request [va]
        | _ => s
    | none => s.rpc q 7 (q.payload.length == 24) fun _ s =>
      let w : OpenWait := { q := q, va := argOf q 0 8, val := argOf q 8 8 }
      if w.va % 8 != 0 || 10000000 < argOf q 16 4 || argOf q 20 4 != 0 then refuse s rBadreq
      else match s.ten.objPage w.va with
        | .unmapped => refuse s rUnmapped
        | .away va => .later (s.onTen fun t => { t.request [va] with waits := t.waits ++ [w] })
        | .here => if s.ten.waitMet w then .reply s rOk (leBytes 8 (s.ten.main.num w.va 8))
          else .later (s.onTen fun t => { t with waits := t.waits ++ [w] }))

/-- WAIT_TIMEOUT of the tenant's `i`-th open wait. -/
def execWaitTimeout (t i : Nat) (s : State) : Out :=
  .next (s.atTenant t fun s => match s.ten.waits[i]? with
    | some w => if s.ten.waitMet w then s.answerWait w rOk else s.answerWait w rTimeout
    | none => s)

/-! ### EVENTS, LOG, STATUS, CONFIG, ATTEST -/

/-- Whole entries, oldest first, of at most `n` bytes; and the rest. -/
def popUpTo : Nat → List (List Byte) → List (List Byte) × List (List Byte)
  | _, [] => ([], [])
  | n, e :: r => if e.length ≤ n then (let q := popUpTo (n - e.length) r; (e :: q.1, q.2)) else ([], e :: r)

/-- Waiting reports join the queue as it has room; each lets go of its launch's increment (R375). -/
def State.flushReports : Nat → State → State
  | 0, s => s
  | n + 1, s =>
    match s.ten.evWait with
    | [] => s
    | (kind, payload, l) :: r => match s.pushRecord kind payload (evLimit kind) with
      | none => s
      | some s => (s.onTen fun t => { t.onLaunch l (fun x => { x with held := x.held - 1 }) with evWait := r }).flushReports n

/-- EVENTS (24 R371, R376). -/
def execEvents (q : Datagram) (s : State) : Out :=
  .next (s.rpc q 14 (q.payload.length == 4) fun _ s =>
    let n := argOf q 0 4
    if n < 16 || 8160 < n then refuse s rBadreq
    else
      let p := popUpTo n s.ten.evq
      .reply ((s.onTen fun t => { t with evq := p.2 }).flushReports s.ten.evWait.length) rOk (p.1.flatMap id))

/-- LOG (24 R371, R375). -/
def execLog (q : Datagram) (s : State) : Out :=
  .next (s.rpc q 15 (q.payload.length == 4) fun _ s =>
    let n := argOf q 0 4
    if n < 16 || 8160 < n then refuse s rBadreq
    else
      let p := popUpTo n s.ten.log
      .reply (s.onTen fun t => { t with log := p.2 }) rOk (p.1.flatMap id))

/-- The descriptor of a pane (R365). -/
def State.paneDesc (s : State) (p : Pane) : Nat :=
  s.channels p.bay * 2 ^ 24 + ((s.ten.cores.filter fun c => c.pane == p.num).map fun c => (c.quarters - 1) * 4 ^ (c.num - 12 * p.num)).foldl (· + ·) 0

/-- STATUS (24 R371). -/
def execStatus (q : Datagram) (s : State) : Out :=
  .next (if q.method.toNat == 13 then s.request q q.payload.isEmpty true fun _ s =>
      let t := s.ten
      .reply s rOk (leBytes 4 t.panes.length ++ leBytes 4 0 ++ leBytes 8 (((t.source? q.src).bind (·.high)).getD 0) ++
        leBytes 8 t.dropReq ++ leBytes 8 t.unmapped ++ leBytes 4 t.evFill ++ leBytes 4 ((t.log.map List.length).foldl (· + ·) 0) ++
        t.panes.flatMap fun p => leBytes 4 (s.paneDesc p))
    else s)

/-- CONFIG (24 R371). -/
def execConfig (q : Datagram) (s : State) : Out :=
  .next (s.rpc q 16 (q.payload.length == 16) fun _ s =>
    let quantum := argOf q 4 4
    let nd := argOf q 8 4
    let nm := argOf q 12 4
    if (s.ten.pane? (argOf q 0 4)).isNone || quantum < 100 || 100000 < quantum || nd < 1 || nm < nd || 2 ^ 24 < nm then refuse s rBadreq
    else .reply (s.onTen fun t => { t with
      panes := changeBy (·.num) (argOf q 0 4) (fun p => { p with quantum := quantum, nd := nd, nm := nm }) t.panes }) rOk [])

/-- ATTEST (25 R397): nonce, version, digests of the firmware and of the newest images, signature. -/
def execAttest (q : Datagram) (s : State) : Out :=
  .next (s.rpc q 12 (q.payload.length == 32) fun _ s =>
    let fw := s.fwDigests
    let imgs := s.ten.images.map (·.digest)
    let imgs := imgs.drop (imgs.length - (118 - fw.length))
    let body := q.payload ++ leBytes 8 s.fwVersion ++ leBytes 4 fw.length ++ leBytes 4 imgs.length ++
      (fw ++ imgs).flatMap fun d => leBytes 64 d.toNat
    .reply s rOk (body ++ Config.sign body))

end Sys2Proof.Machine
end

