-- ==== Sys2Proof/Machine/Tenants.lean ====
section
/-!
DEFINITION. Panes from bays (24 R363, R364), tenants (R367), contexts (R368), windows and peer mappings (R372, R377, R378).
-/
namespace Sys2Proof.Machine

/-! ### Panes (R363, R364) -/

def Remap.join (a b : Remap) : Remap :=
  { cores := union a.cores b.cores, quarters := a.quarters ++ b.quarters, channels := union a.channels b.channels }
/-- What either table of a bay marks as not working. -/
def State.marked (s : State) (bay : Nat) : Remap := (look {} bay s.fuse).join (look {} bay s.fwTab)
/-- Working quarters of a physical core. -/
def Remap.quartersOf (m : Remap) (c : Nat) : Nat :=
  if m.cores.contains c then 0 else ((List.range 4).filter fun q => !m.quarters.contains (c, q)).length
/-- Usable cores in physical order, at most 12. -/
def Remap.usable (m : Remap) : List Nat := ((List.range Config.physCores).filter fun c => decide (2 ≤ m.quartersOf c)).take Config.coresPerPane
/-- Does the bay yield a pane? -/
def State.yields (s : State) (bay : Nat) : Bool :=
  decide (bay < 32) && !(s.marked bay).usable.isEmpty && decide (15 ≤ s.channels bay)

/-- The cores of pane `p` built from a bay, all their state at reset (10 R218). -/
def State.buildCores (s : State) (p bay : Nat) : List Core :=
  let us := (s.marked bay).usable
  (List.range us.length).map fun j =>
    { there := true, num := 12 * p + j, pane := p, die := bay / 8, bay := bay, phys := us.getD j 0, quarters := (s.marked bay).quartersOf (us.getD j 0) }

/-! ### Tenants (R367) -/

def State.allTens (s : State) : List Tenant := if s.ten.live then s.ten :: s.tens else s.tens
def State.bayUsed (s : State) (bay : Nat) : Bool := s.allTens.any fun t => t.panes.any fun p => p.bay == bay

/-! ### The slot calendar (16 R292, R293)

Routes and their ring stops are not stated; DESIGN CHOICE, log 53. -/

/-- A shared port: the lane group from die `a` to die `b` (4: the I/O die), the ring stop of a die link towards the ports or towards the
dies, an Ethernet port, a CXL port, the request queue of a service core. -/
inductive Port where
  | lane (a b : Nat)
  | ring (up : Bool) (d : Nat)
  | eth (n : Nat)
  | cxl (n : Nat)
  | service (n : Nat)
  deriving DecidableEq, Repr

def Port.num : Port → Nat
  | .lane a b => 5 * a + b
  | .ring up d => 25 + 2 * d + if up then 1 else 0
  | .eth n => 29 + n
  | .cxl n => 37 + n
  | .service n => 41 + n

/-- Lanes between two compute dies; CD2 and CD3 reach the I/O die through CD0 and CD1 (00 R1). -/
def lanesBetween (a b : Nat) : List Port :=
  if a % 2 == b % 2 then (if a == b then [] else [.lane a b])
  else if a / 2 == b / 2 then [.lane a b]
  else
    let via := if a < 2 then a + 2 else a - 2
    [.lane a via, .lane via b]
/-- Lanes from a compute die to the I/O die, and back. -/
def lanesUp (d : Nat) : List Port := (if 2 ≤ d then [.lane d (d - 2)] else []) ++ [.lane (d % 2) 4, .ring true (d % 2)]
def lanesDown (d : Nat) : List Port := [.ring false (d % 2), .lane 4 (d % 2)] ++ if 2 ≤ d then [.lane (d - 2) d] else []
/-- Ports at which requests leave and enter the module or reach a service core. -/
def endPorts : List Port :=
  (List.range 8).map Port.eth ++ (List.range 4).map Port.cxl ++ (List.range 32).map Port.service

/-- How far a port lies behind the first one of its routes: along each of these routes it rises by 1 from port to port. -/
def Port.phase : Port → Nat
  | .lane a b =>
    if b == 4 then 1
    else if a == 4 then 5
    else if 2 ≤ a then (if b < 2 then 0 else 7)
    else if b < 2 then 1 else 6
  | .ring up _ => if up then 2 else 4
  | _ => 3

/-- The routes of a tenant whose panes stand on some dies. -/
def routesOf (dies : List Nat) : List (List Port) :=
  dies.flatMap fun d =>
    endPorts.map (fun e => lanesUp d ++ [e]) ++ endPorts.map (fun e => e :: lanesDown d) ++ dies.map (lanesBetween d)
/-- The ports that it uses, without repetition. -/
def portsOf (dies : List Nat) : List Port :=
  (dies.flatMap fun d => lanesUp d ++ lanesDown d ++ dies.flatMap (lanesBetween d)).eraseDups ++ endPorts

/-- The entry of slot `k` at a port, and its owner. -/
def State.slotAt (s : State) (p : Port) (k : Nat) : Byte := look 0 (128 * p.num + k % 128) s.cal
def slotOwner (b : Byte) : Option Nat := if b.getLsbD 7 then some (b.toNat % 32) else none

/-- Slots at the start of the routes that are free all along them, from a free place on. -/
def State.freeSlots (s : State) (ps : List Port) : List Nat :=
  let k := Config.freeNat s.ctr 9200 % 128
  ((List.range 128).map fun i => (i + k) % 128).filter fun i => ps.all fun p => (slotOwner (s.slotAt p (i + p.phase))).isNone
/-- The calendar with some slots of ports given to tenant `n`, phased by R293. -/
def grantSlots (n : Nat) (ks : List Nat) (ps : List Port) (cal : Sparse Byte) : Sparse Byte :=
  ps.foldl (fun c p => ks.foldl (fun c k => put 0 (128 * p.num + (k + p.phase) % 128) (BitVec.ofNat 8 (128 + n)) c) c) cal
/-- The calendar without a tenant. -/
def freeCal (n : Nat) (cal : Sparse Byte) : Sparse Byte := cal.filter fun e => slotOwner e.2 != some n

/-- Prefixes of 20 bytes each from offset `o` on: an address and a length. -/
def readPrefixes (q : Datagram) (o n : Nat) : List (Ip × Nat) :=
  (List.range n).map fun i => (BitVec.ofNat 128 (argOf q (o + 20 * i) 16), argOf q (o + 20 * i + 16) 4)

def allDistinct : List Nat → Bool
  | [] => true
  | x :: xs => !xs.contains x && allDistinct xs

/-- A new tenant: its panes in the order given, context 0, an empty scratchpad on each of its dies. -/
def State.newTenant (s : State) (n slots : Nat) (bays : List Nat) (pfx : List (Ip × Nat)) : Tenant :=
  let ps := (List.range bays.length).map fun p => (p, bays.getD p 0)
  { num := n, live := true, pfx := pfx, slots := slots, ctxs := [{ num := 0, frames := Config.saveFrames }]
    panes := ps.map fun p => { num := p.1, bay := p.2 }
    cores := ps.flatMap fun p => s.buildCores p.1 p.2
    birth := (Config.ownAddr, s.ctr)
    scratch := bays.foldl (fun l b => put none (b / 8) (some {}) l) [] }

def tenantLayout (q : Datagram) : Bool :=
  decide (24 ≤ q.payload.length) && q.payload.length == 24 + 4 * argOf q 8 4 + 20 * argOf q 16 4

/-- TENANT create; an OP above 1 is refused here. -/
def execTenantCreate (q : Datagram) (s : State) : Out :=
  .next (if argOf q 0 4 == 1 then s
    else s.operator q (tenantLayout q) fun s =>
      let n := argOf q 4 4
      let np := argOf q 8 4
      let slots := argOf q 12 4
      let bays := (List.range np).map fun i => argOf q (24 + 4 * i) 4
      let pfx := readPrefixes q (24 + 4 * np) (argOf q 16 4)
      if argOf q 0 4 != 0 || 31 < n || np == 0 || slots < 1 || 128 < slots || argOf q 20 4 != 0 || pfx.any (fun p => decide (128 < p.2)) ||
          s.allTens.any (fun t => t.num == n) then (s, rBadreq, [])
      else
        let ps := portsOf (distinct (bays.map (· / 8)))
        if !allDistinct bays || bays.any (fun b => s.bayUsed b || !s.yields b) || decide ((s.freeSlots ps).length < slots) then (s, rNospace, [])
        else
          let s := s.stowAll
          ({ s with
            tens := addBy (·.num) (s.newTenant n slots bays pfx) s.tens
            cal := grantSlots n ((s.freeSlots ps).take slots) ps s.cal }, rOk, []))

/-- The tenant leaves the module: its panes, slots and state. -/
def State.removeTenant (s : State) (n : Nat) : State :=
  let s := s.stowAll
  { s with tens := removeBy (·.num) n s.tens, cal := freeCal n s.cal }

/-- TENANT, remove (24 R369, R372). SLOTS, bays and prefixes, which it does not use, may hold anything (DESIGN CHOICE, log 87). -/
def execTenantRemove (q : Datagram) (s : State) : Out :=
  .next (if argOf q 0 4 != 1 then s
    else s.operator q (tenantLayout q) fun s =>
      if argOf q 20 4 != 0 then (s, rBadreq, [])
      else if s.allTens.any fun t => t.num == argOf q 4 4 then (s.removeTenant (argOf q 4 4), rOk, []) else (s, rBadreq, []))

/-! ### Contexts (R368) -/

/-- CONTEXT create, number 1 to 7; an OP above 1 is refused here. -/
def execContextCreate (q : Datagram) (s : State) : Out :=
  .next (if argOf q 0 4 == 1 then s
    else s.rpc q 20 (q.payload.length == 8) fun _ s =>
      if argOf q 0 4 != 0 || argOf q 4 4 != 0 then refuse s rBadreq
      else match (List.range 8).filter fun n => (s.ten.ctx? n).isNone with
        | [] => refuse s rNospace
        | n :: ns =>
          if s.framesFree < Config.saveFrames then refuse s rNospace
          else
            let n := pick n (Config.freeNat s.ctr 9300) (n :: ns)
            .reply (s.onTen fun t => { t with ctxs := addBy (·.num) { num := n, frames := Config.saveFrames } t.ctxs }) rOk (leBytes 4 n))

/-- CONTEXT destroy: panes that the context has go to context 0. -/
def execContextDestroy (q : Datagram) (s : State) : Out :=
  .next (if argOf q 0 4 != 1 then s
    else s.rpc q 20 (q.payload.length == 8) fun _ s =>
      let n := argOf q 4 4
      if n == 0 || (s.ten.ctx? n).isNone then refuse s rBadreq
      else if s.ten.launches.any fun l => l.ctx == n then refuse s rBusy
      else .reply (s.onTen fun t =>
        let t := (t.panes.filter fun p => p.ctx == n).foldl (fun t p => t.switchPane p.num n 0) t
        { t with ctxs := removeBy (·.num) n t.ctxs }) rOk (leBytes 4 n))

/-! ### Windows and peer mappings -/

def windowLayout (q : Datagram) : Bool :=
  decide (32 ≤ q.payload.length) && decide (argOf q 28 4 ≤ 16) && q.payload.length == 32 + 20 * argOf q 28 4

/-- WINDOW create; its id is a free choice among those not in use; an OP above 1 is refused here. -/
def execWindowCreate (q : Datagram) (s : State) : Out :=
  .next (if argOf q 0 4 == 1 then s
    else s.rpc q 17 (windowLayout q) fun _ s =>
      let va := argOf q 8 8
      let len := argOf q 16 8
      let perm := argOf q 24 4
      let pfx := readPrefixes q 32 (argOf q 28 4)
      if argOf q 0 4 != 0 || argOf q 4 4 != 0 || va % 65536 != 0 || len % 65536 != 0 || len == 0 || 2 ^ 56 < va + len || 7 < perm ||
          pfx.isEmpty || pfx.any (fun p => decide (128 < p.2)) then refuse s rBadreq
      else match (List.range 4096).filter fun i => 0 < i && (findBy (·.id) i s.ten.windows).isNone with
        | [] => refuse s rNospace
        | i :: is =>
          let i := pick i (Config.freeNat s.ctr 9400) (i :: is)
          let w : Window := { id := i, va := va, len := len, r := perm % 2 == 1, w := perm / 2 % 2 == 1, a := perm / 4 == 1, pfx := pfx }
          .reply (s.onTen fun t => { t with windows := addBy (·.id) w t.windows }) rOk (leBytes 4 i))

/-- WINDOW, remove (24 R372). VA, LEN and the prefixes, which it does not use, may hold anything (DESIGN CHOICE, log 87). -/
def execWindowRemove (q : Datagram) (s : State) : Out :=
  .next (if argOf q 0 4 != 1 then s
    else s.rpc q 17 (windowLayout q) fun _ s =>
      if 7 < argOf q 24 4 || (findBy (·.id) (argOf q 4 4) s.ten.windows).isNone then refuse s rBadreq
      else .reply (s.onTen fun t => { t with windows := removeBy (·.id) (argOf q 4 4) t.windows }) rOk (leBytes 4 (argOf q 4 4)))

/-- PEERMAP: REMOTE pages of 64 KiB over the range. -/
def execPeermap (q : Datagram) (s : State) : Out :=
  .next (s.rpc q 18 (q.payload.length == 48) fun _ s =>
    let win := argOf q 20 4
    let lva := argOf q 24 8
    let len := argOf q 32 8
    if 31 < argOf q 16 4 || win < 1 || 4095 < win || lva % 65536 != 0 || len % 65536 != 0 || len == 0 || 2 ^ 56 < lva + len ||
        s.ten.overlaps lva len then refuse s rBadreq
    else
      let i := (s.ten.peers.map (·.idx)).foldl max 0 + 1
      let m : PeerMap :=
        { idx := i, peer := BitVec.ofNat 128 (argOf q 0 16), pten := argOf q 16 4, win := win, lva := lva, len := len, rva := argOf q 40 8
          failed := false }
      .reply (s.onTen fun t =>
        { t.mapRange lva len 65536 { va := 0, size := 0, r := true, w := true, x := false, st := .remote, pin := false, peer := i } with
          peers := t.peers ++ [m] }) rOk [])

end Sys2Proof.Machine
end

