-- ==== Sys2Proof/Machine/Checkpoints.lean ====
section
/-!
DEFINITION. Migration (24 R382, R383) and checkpoints (25 R384 to R388).
-/
namespace Sys2Proof.Machine

/-! ### The frozen tenant -/

/-- Issue stops, open phases are discarded (R382 step 1). -/
def State.freeze (s : State) : State := s.dropTeams (s.ten.teams.map (·.key))
/-- Every queued batch has completed, every running world sync has retired, and nothing else is under way (R382 step 1). -/
def Tenant.still (t : Tenant) : Bool :=
  t.queued.isEmpty && t.quiet t.blocks && !t.launches.any fun l => l.rc.kind == 3 && (l.st == .released || l.st == .running)

/-- The tenant as the shutter would save it (21 R349): every block and macro in the contexts, cores empty; open requests stay behind. -/
def Tenant.packed (t : Tenant) : Tenant :=
  let t := t.blocks.foldl (fun t b => t.saveBlock (((t.core? b.core).map (·.pane)).getD 0) b) t
  let t := t.panes.foldl (fun t p => t.switchPane p.num p.ctx p.ctx) t
  { t with
    cores := t.cores.map fun c => { c with tlb := [], macs := noMacs, macGrp := (0, 0) }
    waits := [], inbox := [], pageReqs := [], take := none, mig := none, moved := none, frozen := false }

/-! ### Migration -/

/-- The answer MOVED to an open or waiting request. -/
def movedReply (ip : Ip) (q : Datagram) : OutMsg :=
  .reply q.src q.method.toNat q.tenant.toNat q.reqid rMoved (replyFlags q) (leBytes 16 ip.toNat)

/-- Steps 2 and 3: the contexts go to the target; every page that is here is STORED here, to be pulled or pushed. -/
def State.moveTenant (s : State) (m : Mig) : State :=
  let t := s.ten
  let here := t.pages.filter fun p => p.st != .remote
  let img := { t.packed with main := { lines := t.main.lines } }
  { s with
    out := s.out ++ [.migrate m.target m.tten img] ++ (t.waits.map (·.q) ++ t.inbox).map (movedReply m.target)
    ten :=
      { num := t.num, live := true, pfx := t.pfx, panes := t.panes.map (fun p => { p with tlb2 := [] }), slots := t.slots, windows := t.windows, main := t.main, done := t.done
        nextBatch := t.nextBatch, sources := t.sources, poison := t.poison, moved := some m.target
        pages := here.map fun p => { p with st := if p.st.resident then .stored else p.st }
        stage2 := t.stage2.map fun g => { g with pa := none }
        mig := some { m with moved := true, left := here.map (·.va) } } }

/-- The move, once everything queued has completed. -/
def State.tryMove (s : State) : State :=
  match s.ten.mig with
  | some m => if !m.moved && s.ten.still then s.moveTenant m else s
  | none => s

/-- Does the target offer each pane's cores, quarters by logical core, and channels (R382)? -/
def State.fitsTarget (s : State) (offer : List (List Nat × Nat)) : Bool :=
  decide (s.ten.panes.length ≤ offer.length) && s.ten.panes.all fun p =>
    let o := offer.getD p.num ([], 0)
    decide (s.channels p.bay ≤ o.2) &&
      s.ten.cores.all fun c => c.pane != p.num || decide (c.quarters ≤ o.1.getD (c.num - 12 * p.num) 0)

/-- Is a TAKE or a migration of the tenant in progress (25 R384): at the source, or at a target that has pages still to come? -/
def Tenant.engaged (t : Tenant) : Bool := t.take.isSome || t.mig.isSome || !t.away.isEmpty

/-- MIGRATE (24 R382): the tenant stops and its target is noted, if the target has the shape for it. -/
def execMigrate (q : Datagram) (s : State) : Out :=
  .next (s.rpc q 11 (q.payload.length == 24) fun _ s =>
    let target : Ip := BitVec.ofNat 128 (argOf q 0 16)
    if 31 < argOf q 16 4 || argOf q 20 4 != 0 then refuse s rBadreq
    else if s.ten.engaged then refuse s rBusy
    else if !s.fitsTarget (Config.targetPanes target (argOf q 16 4)) then refuse s rShape
    else
      let s := s.freeze
      .later (s.onTen fun t => { t with mig := some { target := target, tten := argOf q 16 4, q := q, moved := false, left := [] } }))

/-- A page goes to the target, and with it the ownership (R383). -/
def State.sendPage (s : State) (m : Mig) (va : Nat) : State :=
  let n := ((findBy (·.va) va s.ten.pages).map (·.size)).getD 0
  { s with
    out := s.out ++ [.page m.target m.tten va (s.ten.main.cells.filter fun c => inside va n c.1)]
    ten := { s.ten with mig := some { m with left := m.left.filter fun x => x != va } } }

/-- MIGRATE_PAGE_PUSH: the move if it is still to come, else the page of lowest VA goes to the target. -/
def execMigratePagePush (t : Nat) (s : State) : Out :=
  .next (s.atTenant t fun s =>
    match s.ten.mig with
    | none => s
    | some m =>
      if !m.moved then s.tryMove
      else match m.left with
        | [] => s
        | va :: _ => s.sendPage m va)

/-- MIGRATE_END: frames, panes and slots are free; MIGRATE is answered; requests go on being answered MOVED. -/
def execMigrateEnd (t : Nat) (s : State) : Out :=
  .next (s.atTenant t fun s =>
    match s.ten.mig with
    | none => s
    | some m =>
      if m.moved && m.left.isEmpty then
        let s := s.send m.q rOk []
        { s with
          cal := freeCal s.ten.num s.cal
          ten := { num := s.ten.num, live := true, pfx := s.ten.pfx, windows := s.ten.windows, moved := s.ten.moved } }
      else s)

/-! ### Shard requests and the manifest (R385, R387) -/

def shardAt (bs : List Byte) (i : Nat) : Nat × Nat × Nat := (field bs (24 * i) 4, field bs (24 * i + 8) 8, field bs (24 * i + 16) 8)
def shardOk (bs : List Byte) (i : Nat) : Bool :=
  let x := shardAt bs i
  field bs (24 * i + 4) 4 == 0 &&
    (if x.1 == 0 then x.2.1 % 65536 == 0 && x.2.2 % 65536 == 0 && decide (x.2.2 ≤ 2 ^ 30)
     else x.1 == 1 && x.2.1 == 0 && x.2.2 == 0)
def shardsOk (bs : List Byte) (n : Nat) : Bool :=
  (List.range n).all (shardOk bs) && ((List.range n).filter fun i => (shardAt bs i).1 == 1).length == 1

/-- The bytes of the STATE shard; the spec gives them no format. -/
opaque stateShard : Tenant → List Byte

def Tenant.shardBytes (t : Tenant) (x : Nat × Nat × Nat) : List Byte := if x.1 == 0 then t.main.gets x.2.1 x.2.2 else stateShard t

/-- The manifest up to its signature. -/
def manifestBody (img : Tenant) (step : Nat) (shards : List (Nat × Nat × Nat)) : List Byte :=
  leBytes 4 0x4B435244 ++ leBytes 4 1 ++ leBytes 4 img.num ++ leBytes 4 shards.length ++ leBytes 8 step ++ leBytes 8 Config.ownKeyId.toNat ++
    leBytes 32 0 ++ shards.flatMap fun x =>
      let bs := img.shardBytes x
      leBytes 4 x.1 ++ leBytes 4 0 ++ leBytes 8 x.2.1 ++ leBytes 8 bs.length ++ leBytes 8 0 ++ leBytes 64 (Config.sha512 bs).toNat

/-- SIG under the key that KEYID names, then every DIGEST (R388). -/
def Ckpt.verifies (c : Ckpt) : Bool :=
  let body := c.manifest.take (64 + 96 * c.shards.length)
  (match Config.keyOf (BitVec.ofNat 64 (field c.manifest 0x18 8)) with
   | some key => Config.verify key body (c.manifest.drop body.length)
   | none => false) &&
    (List.range c.shards.length).all fun k =>
      field c.manifest (0x60 + 96 * k) 64 == (Config.sha512 (c.image.shardBytes (c.shards.getD k (0, 0, 0)))).toNat

/-- What the shards record of a tenant: the bytes of MEMORY ranges, the pages that these touch, and REMOTE mappings (R386). -/
def Tenant.recordOf (t : Tenant) (shards : List (Nat × Nat × Nat)) : Tenant :=
  let covers (a : Nat) : Bool := shards.any fun x => x.1 == 0 && inside x.2.1 x.2.2 a
  let meets (p : Page) : Bool := shards.any fun x => x.1 == 0 && decide (x.2.1 < p.va + p.size) && decide (p.va < x.2.1 + x.2.2)
  let t := t.packed
  let pages := t.pages.filter fun p => p.st == .remote || meets p
  { t with
    pages := pages
    stage2 := t.stage2.filter fun g => pages.any fun p => inside p.gpa p.size g.gpa
    main := { cells := t.main.cells.filter fun c => covers c.1
              hist := t.main.hist.filter fun c => covers c.1
              lines := t.main.lines.filter fun c => covers (128 * c.1) }
    poison := t.poison.filter fun p => covers (32 * p) }

/-! ### TAKE -/

/-- A TAKE with its shard requests; with none while the pages of their table have still to come. -/
def newTake (q : Datagram) (tab : Option Nat) (shards : List (Nat × Nat × Nat)) : Take :=
  { step := argOf q 8 8, waitva := argOf q 16 8, waitv := argOf q 24 8, tab := tab, buddy := BitVec.ofNat 128 (argOf q 32 16)
    shards := shards, q := q, recorded := false }
/-- The shard requests of a table. -/
def readShards (bs : List Byte) (n : Nat) : List (Nat × Nat × Nat) := (List.range n).map (shardAt bs)

/-- A TAKE whose shard requests are at hand. -/
def State.takeWith (s : State) (q : Datagram) (bs : List Byte) : Done :=
  let n := argOf q 4 4
  if !shardsOk bs n then refuse s rShape
  else .later (s.onTen fun t => { t with take := some (newTake q none (readShards bs n)) })

/-- What a table that cannot be read draws: SHAPE where it is unmapped. -/
def tableStatus (st : Nat) : Nat := if st == rUnmapped then rShape else st

def takeLayout (q : Datagram) : Bool :=
  decide (56 ≤ q.payload.length) &&
    (if argOf q 48 8 == 0 then decide (337 < argOf q 4 4) || q.payload.length == 56 + 24 * argOf q 4 4 else q.payload.length == 56)

/-- CHECKPOINT TAKE (25 R384 to R386): the request is checked and stays open. -/
def execCheckpointTake (q : Datagram) (s : State) : Out :=
  .next (if argOf q 0 4 != 0 then s
    else s.rpc q 10 (takeLayout q) fun _ s =>
      let n := argOf q 4 4
      let tab := argOf q 48 8
      if argOf q 16 8 % 8 != 0 || tab % 8 != 0 then refuse s rBadreq
      else if s.ten.engaged then refuse s rBusy
      else if n < 1 || 4096 < n || (tab == 0 && decide (337 < n)) then refuse s rShape
      else if tab == 0 then s.takeWith q (q.payload.drop 56)
      else match s.ten.hostGate false tab (24 * n) with
        | .refused st => refuse s (tableStatus st)
        | .go => s.takeWith q (s.ten.main.gets tab (24 * n))
        -- the TAKE stays open, and keeps no other request waiting, while the table's pages come (R374)
        | .away _ => .later (s.onTen fun t => { t with take := some (newTake q (some tab) []) }))

/-- An open TAKE is answered before anything has been recorded. -/
def State.endTake (s : State) (k : Take) (st : Nat) : State := State.answer { s with ten := { s.ten with take := none } } k.q st []

/-- The shard table at `va` of an open TAKE is read once its pages are there. -/
def State.readTable (s : State) (k : Take) (va : Nat) : State :=
  let n := argOf k.q 4 4
  match s.ten.hostGate false va (24 * n) with
  | .refused st => s.endTake k (tableStatus st)
  | .away ps => match s.bring ps with
    | (s, true) => s
    | (s, false) => s.onTen fun t => t.request (t.missing ps)
  | .go =>
    let bs := s.ten.main.gets va (24 * n)
    if shardsOk bs n then s.onTen fun t => { t with take := some { k with tab := none, shards := readShards bs n } } else s.endTake k rShape

/-- Does the wait object hold its value (0: none is named)? -/
def Tenant.takeDue (t : Tenant) (k : Take) : Bool :=
  k.waitva == 0 || (t.objPage k.waitva == .here && decide (k.waitv ≤ t.main.num k.waitva 8))

/-- The number of the next checkpoint: above those of every checkpoint of the tenant's number that the module or its buddies hold, also of an
earlier tenant of that number (DEDUCED, log 86). -/
def State.takeNumber (s : State) : Nat :=
  1 + (((s.ckpts ++ s.buddies.map (·.2)).filter fun c => c.tenant == s.ten.num).map (·.seq)).foldl max s.ten.takes

/-- The record of the frozen tenant; shards and manifest go to NVMe and to the buddy (R386); the tenant thaws. -/
def State.recordTake (s : State) (k : Take) : State :=
  let n := s.takeNumber
  let img := { s.ten.recordOf k.shards with takes := n }
  let body := manifestBody img k.step k.shards
  let c : Ckpt := { tenant := s.ten.num, step := k.step, shards := k.shards, image := img, manifest := body ++ Config.sign body, complete := false, seq := n }
  { s with
    ckpts := s.ckpts ++ [c]
    out := s.out ++ [.shards k.buddy c]
    ten := { s.ten with frozen := false, take := some { k with recorded := true }, takes := n } }

/-- CHECKPOINT_FREEZE: once the wait object is satisfied the tenant is frozen; when its batches have completed it is recorded. -/
def execCheckpointFreeze (t : Nat) (s : State) : Out :=
  .next (s.atTenant t fun s =>
    match s.ten.take with
    | none => s
    | some k =>
      if k.recorded then s
      else if k.tab.isSome then s.readTable k (k.tab.getD 0)
      else if !s.ten.frozen && !s.ten.takeDue k then
        (match s.ten.objPage k.waitva with
         | .away va => s.onTen fun t => t.request [va]
         | _ => s)
      else
        let s := s.freeze.onTen fun t => { t with frozen := true }
        if s.ten.still then s.recordTake k else s)

/-- Are there two newer complete checkpoints of tenant `n` than `c` among some (R386)? -/
def superseded (n : Nat) (all : List Ckpt) (c : Ckpt) : Bool :=
  c.tenant == n && c.complete && decide (2 ≤ (all.filter fun x => x.tenant == n && x.complete && decide (c.seq < x.seq)).length)
/-- The two newest complete checkpoints of a tenant stay. -/
def twoNewest (n : Nat) (cs : List Ckpt) : List Ckpt := cs.filter fun c => !superseded n cs c
/-- Is `c` one of tenant `n` for a step? -/
def Ckpt.is (c : Ckpt) (n step : Nat) : Bool := c.tenant == n && c.step == step

/-- A checkpoint is complete, locally and at the buddy; both keep the two newest, and buddies drop what is older. -/
def State.completeCkpt (s : State) (buddy : Ip) (c : Ckpt) : State :=
  let c : Ckpt := { c with complete := true }
  let bud := (s.buddies.filter fun b => !b.2.is c.tenant c.step) ++ [(buddy, c)]
  let gone (b : Ip × Ckpt) : Bool := superseded c.tenant (bud.map (·.2)) b.2
  { s with
    ckpts := twoNewest c.tenant ((s.ckpts.filter fun x => !x.is c.tenant c.step) ++ [c])
    buddies := bud.filter fun b => !gone b
    out := s.out ++ [.settled buddy c.tenant c.seq true] ++ (bud.filter gone).map fun b => .settled b.1 c.tenant b.2.seq false }

/-- A TAKE that has been recorded fails, which leaves earlier checkpoints untouched on both modules. -/
def State.failTake (s : State) (k : Take) : State :=
  let mine (c : Ckpt) : Bool := c.tenant == s.ten.num && !c.complete
  State.answer
    { s with
      ckpts := s.ckpts.filter fun c => !mine c
      out := s.out ++ (s.ckpts.filter mine).map fun c => .settled k.buddy s.ten.num c.seq false
      ten := { s.ten with take := none, frozen := false } } k.q
    (pick rTimeout (Config.freeNat s.ctr 9500) [rTimeout, rNospace]) []

/-- CHECKPOINT_COMPLETE: both manifests are durable, or the TAKE fails. -/
def execCheckpointComplete (t : Nat) (durable : Bool) (s : State) : Out :=
  .next (s.atTenant t fun s =>
    match s.ten.take with
    | none => s
    | some k =>
      if durable then
        match s.ckpts.find? fun c => c.tenant == t && !c.complete with
        | none => s
        | some c => (State.completeCkpt { s with ten := { s.ten with take := none } } k.buddy c).answer k.q rOk []
      else s.failTake k)

/-! ### RESTORE and LIST -/

/-- Panes of the receiving module with the settings of the recorded ones. -/
def restorePanes (now old : List Pane) : List Pane :=
  now.map fun p => match findBy (·.num) p.num old with
    | some o => { o with bay := p.bay, tlb2 := [] }
    | none => p

/-! #### Panes on other dies

The scratchpad on a die is the panes' allotments in dense pane order (07 R154); a pane's allotment goes with it. What belongs to a die as a
whole, a bin's ring, a domain, goes to the die of the first pane that stood there (DESIGN CHOICE, log 77). -/

def Pane.die (p : Pane) : Nat := p.bay / 8
/-- The place of a pane among those of its die. -/
def rankOf (ps : List Pane) (p : Pane) : Nat := (ps.filter fun q => q.die == p.die && decide (q.num < p.num)).length
def shiftDie (old new : List Pane) (d : Nat) : Nat :=
  (((old.find? fun p => p.die == d).bind fun p => findBy (·.num) p.num new).map Pane.die).getD d
/-- Where the scratchpad location `x` of die `d` is afterwards. -/
def shiftPlace (old new : List Pane) (d x : Nat) : Nat × Nat :=
  match old.find? fun p => p.die == d && rankOf old p == x / Config.scratchBytes with
  | some p => match findBy (·.num) p.num new with
    | some q => (q.die, Config.scratchBytes * rankOf new q + x % Config.scratchBytes)
    | none => (d, x)
  | none => (d, x)
def Domain.shift (old new : List Pane) : Domain → Domain
  | .die d => .die (shiftDie old new d)
  | x => x
def LineRec.shift (old new : List Pane) (r : LineRec) : LineRec := { r with dom := r.dom.shift old new }

/-- The scratchpad of die `d` gathered from what the allotments held. -/
def shiftSpace (old new : List Pane) (scratch : Sparse (Option Space)) (d : Nat) : Space :=
  scratch.foldl (fun m e => match e.2 with
    | none => m
    | some x =>
      let at_ (a : Nat) : Option Nat := let p := shiftPlace old new e.1 a; if p.1 == d then some p.2 else none
      { cells := x.cells.foldl (fun l c => match at_ c.1 with | some a => put 0 a c.2 l | none => l) m.cells
        hist := x.hist.foldl (fun l c => match at_ c.1 with | some a => put [] a c.2 l | none => l) m.hist
        lines := x.lines.foldl (fun l c => match at_ (128 * c.1) with
          | some a => put none (a / 128) (c.2.map (LineRec.shift old new)) l
          | none => l) m.lines }) {}

/-- A returning atomic on a scratchpad. -/
def AtomReq.shift (old new : List Pane) (r : AtomReq) : AtomReq :=
  if r.sp == 0 then r
  else { r with
    sp := 1 + (shiftPlace old new (r.sp - 1) ((r.todo.headD (0, 0, 0, 0)).2.1)).1
    todo := r.todo.map fun x => (x.1, (shiftPlace old new (r.sp - 1) x.2.1).2, x.2.2) }
def Team.shift (old new : List Pane) (t : Team) : Team :=
  match t.wait with
  | .atom r => { t with wait := .atom (r.shift old new) }
  | _ => t
/-- A saved block: its teams, and the scratchpad buffers of its entries. -/
def Saved.shift (old new : List Pane) (d : Nat) (b : Saved) : Saved :=
  { b with
    teams := b.teams.map (Team.shift old new)
    ents := b.ents.map fun e => (e.1, if e.2.spad then { e.2 with base := (shiftPlace old new d e.2.base).2 } else e.2) }

/-- The state of a tenant whose panes stand on some other dies afterwards (DESIGN CHOICE, log 77). -/
def Tenant.shift (t : Tenant) (new : List Pane) : Tenant :=
  let old := t.panes
  if old.all fun p => (findBy (·.num) p.num new).all fun q => q.die == p.die then t
  else { t with
    scratch := (distinct (new.map Pane.die)).foldl (fun l d => put none d (some (shiftSpace old new t.scratch d)) l) []
    main := { t.main with lines := t.main.lines.map fun c => (c.1, c.2.map (LineRec.shift old new)) }
    done := t.done.map fun b => { b with dom := b.dom.shift old new }
    rings := t.rings.foldl (fun l r =>
      let k := ringKey (shiftDie old new (r.1 / 256)) (r.1 % 256)
      put [] k (look [] k l ++ r.2) l) []
    binWait := t.binWait.map fun w => (shiftDie old new w.1, w.2)
    launches := t.launches.map fun l => { l with bin := l.bin.map fun b => (b.1, shiftDie old new b.2) }
    ctxs := t.ctxs.map fun c => { c with saved := c.saved.map fun b => b.shift old new (t.dieOf b.blk.core) }
    orphans := t.orphans.map fun o => { o with die := shiftDie old new o.die, req := o.req.shift old new } }

/-- The tenant replaced by a recorded or moved one's state; its contexts wait to be restored, and each core holds the macro state that the
context of its pane had there (21 R351, 10 R217). The control registers of the cores stay: no pane is granted (10 R218,
09 R213; DESIGN CHOICE, log 83). -/
def Tenant.restoreFrom (t : Tenant) (img : Tenant) : Tenant :=
  let panes := restorePanes t.panes img.panes
  let ctx (c : Core) : Ctx := ((findBy (·.num) c.pane panes).bind fun p => img.ctx? p.ctx).getD {}
  { img.shift panes with
    num := t.num, live := true, pfx := t.pfx, slots := t.slots, panes := panes
    cores := t.cores.map fun c => { c.takeMacs (ctx c) with bt := [], tlb := [], wins := [] } }

/-- Checkpoints without those of tenant `n` that are newer than number `seq`, or incomplete. -/
def upTo (n seq : Nat) (cs : List Ckpt) : List Ckpt := cs.filter fun c => c.tenant != n || (c.complete && decide (c.seq ≤ seq))

/-- The tenant in the focus takes the state of checkpoint `c`. Its requests that are open or waiting stay so, a TAKE that has been recorded
fails: what it recorded is newer (DESIGN CHOICE, log 86). -/
def State.rollBack (s : State) (c : Ckpt) : State :=
  let s := match s.ten.take with | some k => if k.recorded then s.failTake k else s | none => s
  let s := s.stow
  let t := s.ten
  s.onTen fun t0 => { t0.restoreFrom c.image with waits := t.waits, inbox := t.inbox, take := t.take, mig := t.mig }

/-- The modules that may hold a newer copy of the tenant's checkpoints than the one restored: its buddies, and the one named. -/
def State.buddiesOf (s : State) (n : Nat) (named : List Ip) : List Ip :=
  ((s.buddies.filter fun b => b.2.tenant == n).map (·.1) ++ named).eraseDups

/-- CHECKPOINT RESTORE (25 R388): the tenant takes the state of a verified checkpoint; newer ones go, here and at the buddies. -/
def execCheckpointRestore (q : Datagram) (s : State) : Out :=
  .next (if argOf q 0 4 != 1 then s
    else s.rpc q 10 (q.payload.length == if argOf q 4 4 == 1 then 32 else 16) fun _ s =>
      let n := s.ten.num
      let step := argOf q 8 8
      if 1 < argOf q 4 4 then refuse s rBadreq
      else
        let buddy : Ip := BitVec.ofNat 128 (argOf q 16 16)
        let held := if argOf q 4 4 == 0 then s.ckpts else (s.buddies.filter fun b => b.1 == buddy).map (·.2)
        match held.find? fun c => c.tenant == n && c.step == step && c.complete with
        | none =>
          -- a spare fetches the buddy's copy (R388)
          if argOf q 4 4 == 0 || Config.freeNat s.ctr 9550 % 2 == 1 then refuse s rBadreq
          else .hold { s with out := s.out ++ [.fetch buddy n step] }
        | some c =>
          if !c.verifies then refuse s rBadimage
          else
            let keep (b : Ip × Ckpt) : Bool := !(upTo n c.seq [b.2]).isEmpty
            let s := s.rollBack c
            .reply (State.relay
              { s with
                ten := s.ten.track q.src
                ckpts := upTo n c.seq s.ckpts
                buddies := s.buddies.filter keep
                out := s.out ++ ((s.buddies.filter fun b => !keep b).map fun b => .settled b.1 n b.2.seq false) ++
                  (s.buddiesOf n (if argOf q 4 4 == 0 then [] else [buddy])).map fun b => .newer b n c.image.birth c.seq }) rOk [])

/-- LIST; an operation above 2 is refused here. -/
def execCheckpointList (q : Datagram) (s : State) : Out :=
  .next (if argOf q 0 4 < 2 then s
    else s.rpc q 10 (argOf q 0 4 != 2 || q.payload.length == 4) fun _ s =>
      if argOf q 0 4 != 2 then refuse s rBadreq
      else
        let steps := ((s.ckpts.filter fun c => c.tenant == s.ten.num && c.complete).map (·.step)).reverse
        .reply s rOk (leBytes 4 steps.length ++ leBytes 4 0 ++ steps.flatMap (leBytes 8)))

/-! ### Messages of other modules (R382, R383, R386, R388) -/

/-- A migrating tenant resumes here on the panes that the operator has prepared; its pages are STORED at the source until they come, its
REMOTE mappings hold, a MIGRATED event is queued. -/
def State.takeOver (s : State) (src : Ip) (img : Tenant) : State :=
  let s := State.reframe (s.onTen fun t =>
    let r := t.restoreFrom img
    { r with
      origin := if img.pages.any (fun p => p.st != .remote) then some src else none
      pulled := []
      away := (img.pages.filter fun p => p.st != .remote).map fun p => (p.va, p.st)
      pages := img.pages.map fun p => if p.st == .remote then p else { p with st := .stored } })
  s.report 4 (leBytes 16 Config.ownAddr.toNat) 0

/-- The bytes of a page, which start afresh here with their line records. -/
def Tenant.pageBytes (t : Tenant) (va n : Nat) (cells : List Host.Cell) : Tenant :=
  let old := t.main.cells.filter fun c => !inside va n c.1
  { t with main := { t.main with
      cells := (cells.filter fun c => inside va n c.1).foldl (fun m c => put 0 c.1 c.2 m) old
      hist := t.main.hist.filter fun c => !inside va n c.1 } }

/-- Where a page of `n` frames that was in state `st` goes at its arrival. -/
def State.placeFor (s : State) (st : PageSt) (pin : Bool) (n : Nat) : PageSt :=
  if st == .hbm && decide (n ≤ s.framesFree) then .hbm
  else if (st == .direct || pin) && decide (n ≤ s.tierFree) then .direct
  else if st != .stored && decide (n ≤ s.tierFree) then .tier else .stored

/-- A page from the source of the migration. -/
def State.gotPage (s : State) (va : Nat) (cells : List Host.Cell) : State :=
  match s.ten.away.find? fun a => a.1 == va, findBy (·.va) va s.ten.pages with
  | some a, some p =>
    let st := s.placeFor a.2 p.pin p.frames
    State.reframe (s.onTen fun t =>
      let t := (t.pageBytes va p.size cells).setPage va fun p => { p with st := st }
      let away := t.away.filter fun a => a.1 != va
      { t with away := away, pulled := t.pulled.filter fun x => x != va, origin := if away.isEmpty then none else t.origin })
  | _, _ => s

/-- An operation on a page at a peer that the peer's answer MOVED sends on to `target`: the peer's tenant, and the operation there. -/
def OutMsg.onTo (target : Ip) : OutMsg → Option (Nat × OutMsg)
  | .remotePart _ (o :: os) => some ((partKey o).toNat / 65536, .remotePart target (o :: os))
  | .remoteAtomic _ k va op ty a c => some (k / 65536, .remoteAtomic target k va op ty a c)
  | .remoteRead _ k va n => some (k / 65536, .remoteRead target k va n)
  | _ => none
/-- The mappings over a tenant that has moved are remapped to its new module, where it keeps its number (DESIGN CHOICE, log 84). -/
def Tenant.remap (t : Tenant) (src target : Ip) (n : Nat) : Tenant :=
  { t with peers := t.peers.map fun m => if m.peer == src && m.pten == n then { m with peer := target } else m }
/-- MOVED reaches this module as a peer: it remaps its windows and retries at the target (R383). -/
def State.retryAt (s : State) (src target : Ip) (op : OutMsg) : State :=
  match op.onTo target with
  | none => s
  | some (n, op) =>
    { s with out := s.out ++ [op], ten := s.ten.remap src target n, tens := s.tens.map fun t => t.remap src target n }

/-- Is `x` a checkpoint of tenant number `n` that module `src` has sent, or another module that held the same tenant before? -/
def sameTenant (src : Ip) (n : Nat) (births : List (Ip × Nat)) (x : Ip × Ckpt) : Bool :=
  x.2.tenant == n && (x.1 == src || births.contains x.2.image.birth)
/-- A buddy's list of checkpoints after one of them has been settled (R386): the two newest complete ones of a tenant stay, whichever module
has sent them (DEDUCED, log 86). -/
def settleHosted (src : Ip) (n seq : Nat) (ok : Bool) (hs : List (Ip × Ckpt)) : List (Ip × Ckpt) :=
  let this (x : Ip × Ckpt) : Bool := x.1 == src && x.2.tenant == n && x.2.seq == seq
  if !ok then hs.filter fun x => !this x
  else
    let cs := (hs.filter this).map (·.2)
    let mine := sameTenant src n (cs.map (·.image.birth))
    let hs := (hs.filter fun x => !(mine x && !this x && (cs.map (·.step)).contains x.2.step)).map fun x =>
      if this x then (x.1, { x.2 with complete := true }) else x
    hs.filter fun x => !(mine x && superseded n ((hs.filter mine).map (·.2)) x.2)
/-- The list without the copies of a restored tenant that are newer than the checkpoint restored (R388). -/
def dropNewer (src : Ip) (n : Nat) (birth : Ip × Nat) (seq : Nat) (hs : List (Ip × Ckpt)) : List (Ip × Ckpt) :=
  hs.filter fun x => !(sameTenant src n [birth] x && decide (seq < x.2.seq))

/-- A message of another module. -/
def State.deliver (m : InMsg) (s : State) : State :=
  if s.power != .up then s
  else match m with
  | .migrate src n img => s.atTenant n fun s =>
    let offer := s.ten.panes.map fun p =>
      ((List.range 12).map fun j => ((s.ten.core? (12 * p.num + j)).map (·.quarters)).getD 0, s.channels p.bay)
    let shape (p : Pane) : Bool := (img.cores.filter fun c => c.pane == p.num).all fun c =>
      decide (c.quarters ≤ (offer.getD p.num ([], 0)).1.getD (c.num - 12 * p.num) 0)
    if decide (img.panes.length ≤ s.ten.panes.length) && img.panes.all shape && s.ten.launches.isEmpty then s.takeOver src img else s
  | .page src n va cells => s.atTenant n fun s => if s.ten.origin == some src then s.gotPage va cells else s
  | .pull src n va =>
    match s.allTens.find? fun t => t.mig.any fun m => m.moved && m.target == src && m.tten == n && m.left.contains va with
    | none => s
    | some t => s.atTenant t.num fun s => match s.ten.mig with | some m => s.sendPage m va | none => s
  | .sourceLost src =>
    (s.allTens.filter fun t => t.origin == some src).foldl (fun s t => s.removeTenant t.num) s
  | .moved src target op => s.retryAt src target op
  | .shards src c => { s with hosted := s.hosted ++ [(src, { c with complete := false })], out := s.out ++ [.durable src c.tenant c.step] }
  | .settled src n seq ok => { s with hosted := settleHosted src n seq ok s.hosted }
  | .newer src n birth seq => { s with hosted := dropNewer src n birth seq s.hosted }
  | .fetch src n step =>
    match s.hosted.find? fun x => x.2.is n step && x.2.complete with
    | some x => { s with out := s.out ++ [.copy src x.2] }
    | none => s
  | .copy src c => { s with buddies := s.buddies.filter (fun b => !(b.1 == src && b.2.is c.tenant c.step)) ++ [(src, c)] }

end Sys2Proof.Machine
end

