-- ==== Sys2Proof/Machine/Convert.lean ====
section
/-!
DEFINITION. Conversions (06 R135 to R140) and block scales (04 R76).
-/
namespace Sys2Proof.Machine

/-- The overflow table of the team's context (04 R72). -/
def State.ovt (s : State) : Byte := ((s.ten.ctx? s.blk.ctx).map (·.ovt)).getD 0

def execVcvt (o : XOps) (s : State) : Out :=
  floatOp (.vcvt o) o [o.d, o.a] (fun s c k =>
    let dst := o.hiNib.toNat
    let src := o.loNib.toNat
    if src == 0 then
      let r := narrow s.ovt dst c.mode (c.draw k 0) false (f32 (s.opA o sg32 k))
      (word r.1, r.2)
    else
      let v := intOf (src == 12) (s.vreg o.a.toNat k)
      if dst == 0 then plain (c.r32 k 0 (intFv v))
      else let r := clampInt dst v
        (BitVec.ofInt 32 r.1, r.2)) s

def e4m3 (x : Word) : Fv := fE4M3.unpack (x.toNat % 256)

def execVcvtn (o : XOps) (s : State) : Out :=
  floatOp (.vcvtn o) o ([o.d, o.a] ++ if o.fn == 1 then [o.b] else []) (fun s c k =>
    let dst := o.hiNib.toNat
    let j := o.loNib.toNat
    let x := f32 (s.opA o sg32 k)
    let sc := e4m3 (s.vreg o.b.toNat k)
    let q := if o.fn == 1 then x.div sc else x
    let r := narrow s.ovt dst c.mode (c.draw k j) o.sat q
    (setElem (elemWidth dst) j r.1 (s.vreg o.d.toNat k), r.2 ||| (if o.fn == 1 then invalidOf [x, sc] q else 0))) s

/-- An element widened: its FP32 value, its integer, or its value times a scale (R138). -/
def widen (src fn : Nat) (x : Nat) (scale : Word) : Word × Word :=
  if fn == 1 then plain (BitVec.ofInt 32 (intVal src x))
  else if fn == 0 then plain (rne32 (codeVal src x))
  else
    let v := codeVal src x
    let p := v.mul (e4m3 scale)
    let r := rne32 p
    (r, invalidOf [v, e4m3 scale] p ||| (if (f32 r).isInf && !p.isInf then stOverflow else 0))

def execVcvtw (o : XOps) (s : State) : Out :=
  issue (.vcvtw o) .vector (vecs ([o.d, o.a] ++ if o.fn == 2 then [o.b] else [])) (fun s =>
    let src := o.hiNib.toNat
    s.perLane o.d fun k =>
      widen src o.fn.toNat (elemAt (elemWidth src) o.loNib.toNat (s.vreg o.a.toNat k)) (s.vreg o.b.toNat k)) s

def execVpk16 (o : XOps) (s : State) : Out :=
  floatOp (.vpk16 o) o [o.d, o.a, o.b] (fun s c k => both fun e =>
    narrow s.ovt o.lo8.toNat c.mode (c.draw k e) o.sat (f32 (if e == 0 then s.opA o sg32 k else s.opB o sg32 k))) s

/-- T_max of a target format (04 R76). -/
def tMax (t : Nat) : Nat :=
  if t == 3 then 448 else if t == 4 then 57344 else if t == 5 then 6 else if t == 6 then 7 else if t == 8 then 127 else 32767

/-- The magnitude of a value. -/
def Fv.abs : Fv → Fv
  | .nan => .nan
  | .inf _ => .inf false
  | .fin _ m e => .fin false m e

/-- The scale of a block with magnitudes `xs` for target `t`, as an E4M3 pattern, with its STATUS bits (04 R76): the smallest positive
one with amax ≤ T_max × s, and 448 where there is none. -/
def blockScale (t : Nat) (xs : List Fv) : Nat × Word :=
  if xs.isEmpty then (1, stEmpty)
  else if xs.any Fv.isNan then (0x7F, stInvalid)
  else
    let top : Fv := .fin false (tMax t) 0
    (((List.range 0x7E).map (· + 1)).find? (fun p =>
      xs.all fun x => decide (x.abs.cmp (top.mul (fE4M3.unpack p)) ≤ 0)) |>.getD 0x7E, 0)

def execVblksc (o : XOps) (s : State) : Out :=
  issue (.vblksc o) .vector (vecs [o.d, o.a]) (fun s =>
    let act := s.active
    let sc := (List.range s.team.spans).map fun j =>
      blockScale o.lo8.toNat ((act.filter fun k => k / 32 == j).map fun k => f32 (s.vreg o.a.toNat k))
    s.perLane o.d fun k => let r := sc.getD (k / 32) (1, 0)
      (word r.1, r.2)) s

end Sys2Proof.Machine
end

