-- ==== Sys2Proof/Machine/Matrix.lean ====
section
/-!
DEFINITION. Issue of matrix and relation instructions, and the start and the completion of their operations (10 R216, 11 R230 to R243).
-/
namespace Sys2Proof.Machine

/-! ### Issue (R230) -/

/-- The checks of a handle operand: unbound, FILLING and unsealed, too small; then a stall until FULL. The offset that EINFO gives for a
buffer that is too small is not stated: a free value. -/
def matHandle (h need : Nat) (s : State) : Option Stop :=
  match s.slotEntry h with
  | none => unbound
  | some (_, e) =>
    if e.st == .filling && !e.sealed then badState
    else if e.size < need then some (.trap cLsbounds 0 noLane (Config.freeWord s.ctr 1))
    else if e.isFull then none else some .stall

/-- What an instruction of the family brings into the sequencer: vector destinations, captured scalars, its handle. -/
structure MatForm where
  vdst : List Nat := []
  sc : List Word := []
  handle : Option Nat := none

/-- The operation enters the queues; MC rises; Active(), scalars and buffer are those of the issue. -/
def State.enqueueOp (s : State) (i : Instr) (f : MatForm) : State :=
  let e := (f.handle.bind s.slotEntry).map (·.2)
  let id := s.ten.nextMop
  let act := maskOf s.active
  let m : MatOp :=
    { id := id, team := s.team.key, core := s.core.num, ins := i, va := s.here, act := act, sc := f.sc
      base := (e.map (·.base)).getD 0, spad := (e.map (·.spad)).getD false, fence := s.team.fence }
  State.await { s with ten := { s.ten with mops := s.ten.mops ++ [m], nextMop := id + 1 } }
    { kind := .mc, vdst := f.vdst.map fun r => (r, act &&& belowMask 64), mop := id }

/-- The issue of an instruction of the family: vector, relation and tile registers checked, then the rest. -/
def matIssue (i : Instr) (vs xs ts : List Nat) (chk : State → Option Stop) (f : State → MatForm) (s : State) : Out :=
  issue i .scalar (fun s => firstOf [counterFree s.team.mc, budget s vs xs ts, chk s]) (fun s => s.enqueueOp i (f s)) s

def execMldb (o : XOps) (s : State) : Out :=
  matIssue (.mldb o) [] [] [] (matHandle o.a.toNat 98304)
    (fun s => { handle := some o.a.toNat, sc := if o.mod.getLsbD 0 then [s.sreg o.b.toNat, s.sreg (o.b.toNat + 1)] else [] }) s

def execMma (o : XOps) (s : State) : Out :=
  let rows := o.c.toNat + 1
  matIssue (.mma o) [] [] [o.d.toNat]
    (matHandle o.b.toNat (384 * rows + if o.mod.getLsbD 0 then blocksOf o.fn.toNat * rows else 0))
    (fun _ => { handle := some o.b.toNat }) s

def execMoutl (o : XOps) (s : State) : Out :=
  matIssue (.moutl o) [] [] [o.d.toNat] (fun s => matHandle o.b.toNat (8 * (s.sval o.c).toNat) s)
    (fun s => { handle := some o.b.toNat, sc := [s.sval o.c] }) s

/-- Rounding mode, overflow table and SEED are read at issue (04 R67, 05 R90, 09 R212). LSBOUNDS gives c as the offset that failed, where
c + n − 1 is none of the 256 columns (DESIGN CHOICE, log 23). -/
def execMrd (o : XOps) (s : State) : Out :=
  let vs := span o.d.toNat (o.fn.toNat + 1)
  issue (.mrd o) .scalar
    (fun s => firstOf [counterFree s.team.mc, budget s vs [] [o.a.toNat],
      if 256 ≤ (s.sval o.b).toNat + o.fn.toNat then some (.trap cLsbounds 0 noLane (s.sval o.b)) else none])
    (fun s =>
      s.enqueueOp (.mrd o) { vdst := vs, sc := [s.sval o.b, s.sval o.c, word (s.rctx o.rm).mode, s.ovt.setWidth 32, s.team.seed] }) s

def execMzero (o : ROps) (s : State) : Out := matIssue (.mzero o) [] [] [o.d.toNat] noCheck (fun _ => {}) s

/-- MFENCE: every local-store access of the team has been performed; later operations see what was performed before it (08 R184). -/
def execMfence (o : ROps) (s : State) : Out :=
  issue (.mfence o) .scalar noCheck (fun s => s.onTeam fun t => { t with fence := s.blk.stamp }) s

def execXldb (o : XOps) (s : State) : Out := matIssue (.xldb o) [o.a.toNat] [] [] noCheck (fun s => { sc := [s.sval o.b] }) s
def execXcmp (o : XOps) (s : State) : Out := matIssue (.xcmp o) [o.b.toNat] [o.d.toNat] [] noCheck (fun _ => {}) s
def execXrow (o : XOps) (s : State) : Out :=
  matIssue (.xrow o) [o.d.toNat] [o.a.toNat] [] noCheck (fun _ => { vdst := [o.d.toNat] }) s
def execXcol (o : XOps) (s : State) : Out :=
  matIssue (.xcol o) [o.d.toNat] [o.a.toNat] [] noCheck (fun _ => { vdst := [o.d.toNat] }) s
def execXclos (o : XOps) (s : State) : Out := matIssue (.xclos o) [] [o.d.toNat, o.a.toNat] [] noCheck (fun _ => {}) s
def execXcomp (o : ROps) (s : State) : Out := matIssue (.xcomp o) [] [o.d.toNat, o.a.toNat, o.b.toNat] [] noCheck (fun _ => {}) s
def execXtrn (o : ROps) (s : State) : Out := matIssue (.xtrn o) [] [o.d.toNat, o.a.toNat] [] noCheck (fun _ => {}) s
def execXlog (o : XOps) (s : State) : Out := matIssue (.xlog o) [] [o.d.toNat, o.a.toNat, o.b.toNat] [] noCheck (fun _ => {}) s
def execXset (o : XOps) (s : State) : Out := matIssue (.xset o) [] [o.d.toNat] [] noCheck (fun _ => {}) s
def execXmov (o : XOps) (s : State) : Out :=
  if o.fn == 0 then matIssue (.xmov o) (group o.d 2) [o.a.toNat] [] noCheck (fun _ => { vdst := group o.d 2 }) s
  else matIssue (.xmov o) (group o.a 2) [o.d.toNat] [] noCheck (fun _ => {}) s

/-! ### The sequencer (10 R216, R231) -/

/-- What an operation occupies: macros of its core, tiles and relation registers of its team. -/
def MatOp.uses (m : MatOp) : List (Nat × Nat × Nat) :=
  let mac (k : Byte) : Nat × Nat × Nat := (0, m.core, k.toNat)
  let tile (k : Byte) : Nat × Nat × Nat := (1, m.team, k.toNat)
  let rel (k : Byte) : Nat × Nat × Nat := (2, m.team, k.toNat)
  match m.ins with
  | .mldb o => [mac o.d]
  | .mma o => [mac o.a, tile o.d]
  | .moutl o => [mac o.a, tile o.d]
  | .mrd o => [tile o.a]
  | .mzero o => [tile o.d]
  | .xldb o => [mac o.d]
  | .xcmp o => [mac o.a, rel o.d]
  | .xrow o => [rel o.a]
  | .xcol o => [rel o.a]
  | .xclos o => [rel o.d, rel o.a]
  | .xcomp o => [rel o.d, rel o.a, rel o.b]
  | .xtrn o => [rel o.d, rel o.a]
  | .xlog o => [rel o.d, rel o.a, rel o.b]
  | .xset o => [rel o.d]
  | .xmov o => [rel (if o.fn == 0 then o.a else o.d)]
  | _ => []

def MatOp.macs (m : MatOp) : List Nat := (m.uses.filter fun u => u.1 == 0).map fun u => u.2.2

/-- No earlier operation shares a unit with operation `id`. -/
def Tenant.opFree (t : Tenant) (m : MatOp) : Bool :=
  (t.mops.takeWhile fun x => x.id != m.id).all fun x => x.uses.all fun u => !m.uses.contains u

def Tenant.op? (t : Tenant) (id : Nat) : Option MatOp := t.mops.find? fun m => m.id == id
def Tenant.setOp (t : Tenant) (id : Nat) (g : MatOp → MatOp) : Tenant := { t with mops := t.mops.map fun m => if m.id == id then g m else m }

/-- The bytes of a scale fetch (11 R233). -/
def MatOp.fetch (m : MatOp) : List Nat :=
  match m.ins with
  | .mldb o =>
    if o.mod.getLsbD 0 then
      let a := ((m.sc.getD 1 0 ++ m.sc.getD 0 0).setWidth 56 : VA).toNat
      (List.range (256 * blocksOf o.fn.toNat)).map fun i => (a + i) % 2 ^ 56
    else []
  | _ => []

/-- The operation starts: its scale bytes are translated and loaded (10 R215); a load that meets an atomic of the team's queue waits. -/
def State.startOp (s : State) (m : MatOp) : State :=
  let as := m.fetch
  match s.pageStop { r := true, w := false, remote := false } as with
  | some (.access c u i _) => (s.touchPages as).endFault c u m.va i
  | some (.fault ps) => (s.touchPages as).pageFault ps m.va
  | _ =>
    let s := s.touchPages as
    match loadBytes s.ten s.ctr m.after 0 as s.team with
    | .error w => if w.isPoison then s.endFault cHwerr 0 m.va 0 else s.onTen fun t => t.setOp m.id fun m => { m with after := m.after ++ [w] }
    | .ok (bs, t) =>
      { s with ten := s.ten.setOp m.id fun m => { m with started := true, scales := bs }, team := t }

def execMatrixOpStart (t m : Nat) (s : State) : Out :=
  .next (s.atTenant t fun s0 => match s0.ten.op? m with
    | some x => if !x.started && s0.ten.opFree x then s0.atTeam t x.team (State.startOp · x) else s
    | none => s)

/-- Destinations that stay undefined until MC is zero (R230, 02 R35): an operation that is still outstanding holds them. -/
def holdMore (vs : List (Nat × Mask)) : List Pend → List Pend
  | [] => []
  | q :: qs => if q.kind == .mc then { q with vdst := q.vdst ++ vs } :: qs else q :: holdMore vs qs

/-- The result at position `i` is written and MC falls; other operations that are outstanding hold its destinations on. -/
def State.settleOp (s : State) : Option Nat → State
  | some i => match s.team.pend[i]? with
    | some p => (s.settlePend i p []).onTeam fun t => { t with pend := holdMore p.vdst t.pend }
    | none => s
  | none => s

/-- The operation has read its operands and writes every destination; MC falls (R230). -/
def State.completeOp (s : State) (m : MatOp) (mism : Nat) : State :=
  let r := s.matOut m mism
  let s := s.putMac r
  let s := { s with
    ten := { s.ten with mops := s.ten.mops.filter fun x => x.id != m.id }
    core := { s.core.count 4 r.reruns with fails := s.core.fails + r.fails }
    -- a logged FAIL asks for the self-test of the macro (10 R224, 25 R392)
    errors := if r.fails == 0 then s.errors else s.errors ++ m.macs.map fun k => HwUnit.mac s.core.bay s.core.phys k }
  let s := s.onTeam fun t =>
    let t := { (((t.putAcc r.acc).putX r.xs).putV r.vs).flag r.bits with spos := if m.draws then t.spos + 1 else t.spos }
    r.ms.foldl (fun t e => t.tileEvent e.1 e.2.1 e.2.2) t
  let s := s.taint (distinct (r.vs.map (·.1)))
  s.settleOp (s.team.pend.findIdx? fun p => p.mop == m.id && p.kind == .mc)

/-- Completion with `mism` checksum mismatches met (10 R224). -/
def execMatrixOpComplete (t m mism : Nat) (s : State) : Out :=
  .next (s.atTenant t fun s0 => match s0.ten.op? m with
    | some x => if x.started then s0.atTeam t x.team (State.completeOp · x (min mism 2)) else s
    | none => s)

end Sys2Proof.Machine
end

