-- ==== Sys2Proof/Machine/Waits.lean ====
section
/-!
DEFINITION. Barriers, service calls, sleeps and the deadline (08 R175, 09 R206 to R208, R211, 24 R372, R375, R376).
-/
namespace Sys2Proof.Machine

/-! ### BAR (08 R175) -/

/-- The batch that a team waiting at a `BAR` appended; none for a team that does not wait at one. -/
def Team.atBar (t : Team) : Option Nat :=
  match t.wait with
  | .bar b => some b
  | _ => none

/-- The teams of a block that take part in a `BAR`. -/
def Tenant.barTeams (t : Tenant) (b : Nat) : List Team := t.teams.filter fun x => x.blk == b && x.wait != .ended

/-- Every team of the block has arrived, and every batch appended at the `BAR` has completed. -/
def Tenant.barDone (t : Tenant) (b : Nat) : Bool :=
  (t.barTeams b).all fun x => match x.atBar with
    | some id => !t.queued.any fun q => q.id == id
    | none => false

def execBarRelease (t b : Nat) (s : State) : Out :=
  .next (s.atTenant t fun s =>
    if s.ten.barDone b then ((s.ten.barTeams b).map (·.key)).foldl (fun s k => s.atTeam t k fun s => s.openPhase 0) s else s)

/-! ### SYSC (09 R208) -/

/-- The lane mask and values that a request carries, as a record or a log entry holds them. -/
def SyscReq.vecBytes (r : SyscReq) : List Byte :=
  match r.vec with
  | some (m, xs) => leBytes 128 m.toNat ++ xs.flatMap leWord
  | none => []

def SyscReq.logEntry (r : SyscReq) (launch : Nat) : List Byte :=
  leBytes 4 r.vecBytes.length ++ leBytes 4 launch ++ leWord r.a0 ++ leBytes 4 0 ++ r.vecBytes

def SyscReq.notice (r : SyscReq) (launch : Nat) : List Byte :=
  leBytes 4 r.fn ++ leBytes 4 launch ++ leWord r.a0 ++ leWord r.a1 ++ r.vecBytes

def Tenant.logFill (t : Tenant) : Nat := t.log.foldl (fun n e => n + e.length) 0

/-- The module clock after some time has passed: the correction is slewed in, never stepped back. -/
def State.tickClock (s : State) : State :=
  let d : Int := (Config.freeNat s.ctr 20 : Int) + s.slew
  { s with timeNs := s.timeNs + d.toNat, slew := min d 0 }

/-- The service of a delivered request: the state after it and the reply. -/
def State.service (s : State) (r : SyscReq) (launch : Nat) : State × DWord :=
  if r.fn == 0 then (s, 0)
  else if r.fn == 1 then
    let e := r.logEntry launch
    if s.ten.logFill + e.length ≤ 65536 then (s.onTen fun t => { t with log := t.log ++ [e] }, 0) else (s, 1)
  else if r.fn == 2 then
    let s := s.tickClock
    let v := max s.ten.timeLast s.timeNs
    (s.onTen fun t => { t with timeLast := v }, BitVec.ofNat 64 v)
  else match s.pushRecord 0 (r.notice launch) evNotifyBytes with
    | some s => (s, 0)
    | none => (s, 1)

/-- SYSC_DELIVER, once every earlier batch of the team has completed. -/
def execSyscDeliver (t k : Nat) (s : State) : Out :=
  .next (s.atWaiter t k fun s x _ =>
    match x.wait with
    | .sysc r =>
      if r.reply.isSome || s.ten.hasQueued x.key then (s, x)
      else
        let q := s.service r x.launch
        (q.1, { x with wait := .sysc { r with reply := some q.2 } })
    | _ => (s, x))

/-- SYSC_REPLY: the reply is written, and a boundary opens the next phase. -/
def execSyscReply (t k : Nat) (s : State) : Out :=
  .next (s.atTeam t k fun s =>
    match s.team.wait with
    | .sysc r => match r.reply with
      | some v => (s.setPair r.dst v).openPhase 0
      | none => s
    | _ => s)

/-! ### SLEEP and DEADLINE -/

/-- SLEEP_EXPIRY: the hold ends (09 R211). -/
def execSleepExpiry (t k : Nat) (s : State) : Out :=
  .next (s.atTeam t k fun s =>
    match s.team.wait with
    | .sleep _ => s.onTeam fun x => { x with wait := .run }
    | _ => s)

/-- DEADLINE: the words of the next instruction exceed the count (09 R206). -/
def execDeadline (t k : Nat) (s : State) : Out :=
  .next (s.atTeam t k fun s =>
    match s.team.cl with
    | none => s
    | some c =>
      if s.ready && s.issues && decide (s.team.dl < wordsOf (opcOf ((c.words.drop c.pos).headD 0))) then
        s.wake.endFault cDeadline 0 c.va 0
      else s)

end Sys2Proof.Machine
end

