-- ==== Sys2Proof/Machine/Hardware.lean ====
section
/-!
DEFINITION. Errors, self-tests and retirement, the adaptive loops, power and bring-up, firmware images, the module clock (24 R363, R366,
25 R390 to R397, 09 R208).
-/
namespace Sys2Proof.Machine

/-! ### Errors (25 R390, R391) -/

/-- The tenant and logical core that stand on a physical core. -/
def State.coreAt (s : State) (bay phys : Nat) : Option (Nat × Nat) :=
  s.allTens.findSome? fun t =>
    let cores := if t.num == s.ten.num && s.core.there then s.core :: t.cores else t.cores
    (cores.find? fun c => c.bay == bay && c.phys == phys).map fun c => (t.num, c.num)

/-- One more corrected event in the arrays of a core (09 R213). -/
def Core.corrected (c : Core) : Core := { c with eccCor := if c.eccCor == 0xFFFFFFFF#32 then c.eccCor else c.eccCor + 1 }
def State.correctedOn (s : State) (n c : Nat) : State := s.atTenant n fun s => s.onTen fun t => t.onCore c Core.corrected

/-- The team-ending fault HWERR; IVA names the instruction at `iva`, or where none is known the clause that the team is in. -/
def State.hwerr (s : State) (n k : Nat) (iva : Option VA) : State :=
  s.atTeam n k fun s =>
    if s.team.wait == .ended then s
    else s.endFault cHwerr 0 (iva.getD (match s.team.cl with | some c => c.va | none => s.team.pc)) 0

/-- The team that owns the operation on a macro, the first started one that uses it, and the operation's address (10 R224). -/
def State.macOwner (s : State) (bay phys mac : Nat) : Option (Nat × Nat × VA) :=
  match s.coreAt bay phys with
  | none => none
  | some (n, c) => (s.openTenant n).bind fun s =>
    (s.ten.mops.find? fun m => m.core == c && m.started && m.macs.contains mac).map fun m => (n, m.team, m.va)

/-- The core that holds a team's arrays. -/
def State.homeOf (s : State) (n k : Nat) : Option Nat := (s.openTenant n).bind fun s => (s.ten.team? k).map (·.core)

/-- A corrected event: silent, but counted for the core's arrays. -/
def State.corrected (s : State) (u : HwUnit) : State :=
  match u with
  | .core bay c | .quarter bay c _ | .mac bay c _ => match s.coreAt bay c with
    | some (n, k) => s.correctedOn n k
    | none => s
  | .regfile n k | .localStore n k | .tlb n k => match s.homeOf n k with
    | some c => s.correctedOn n c
    | none => s
  | _ => s

/-- A sector is poisoned; the pager moves a page in HBM to healthy frames (R391). -/
def Tenant.hurtSector (t : Tenant) (va : Nat) : Tenant :=
  let t := { t with poison := addNew (va / 32) t.poison }
  match t.pages.find? fun p => inside p.va p.size va with
  | some p => if p.st == .hbm then { t with unwell := addNew p.va t.unwell, pageReqs := addNew p.va t.pageReqs } else t
  | none => t

/-- An uncorrected event. -/
def State.uncorrected (s : State) (u : HwUnit) : State :=
  match u with
  | .regfile n k | .localStore n k | .scratchpad n k | .tlb n k => s.hwerr n k none
  | .mac bay c m => match s.macOwner bay c m with
    | some (n, k, va) => s.hwerr n k (some va)
    | none => s
  | .sector n va => s.atTenant n fun s => s.onTen fun t => t.hurtSector va
  | _ => s

/-- The working channels of a bay in ascending order, and the dense number of one of them in the tenant: panes in order, within a bay channels
in ascending order (R364; DESIGN CHOICE, log 89). -/
def State.workingOf (s : State) (bay : Nat) : List Nat :=
  (List.range 16).filter fun c => !(look {} bay s.fuse).channels.contains c && !(look {} bay s.fwTab).channels.contains c
def State.denseChannel (s : State) (bay ch : Nat) : Nat :=
  ((s.ten.panes.takeWhile fun p => p.bay != bay).map fun p => s.channels p.bay).foldl (· + ·) 0 + (s.workingOf bay).findIdx fun c => c == ch

/-- The bay and channel that have a dense number in the tenant in the focus. -/
def State.channelOn (s : State) : List Pane → Nat → Option (Nat × Nat)
  | [], _ => none
  | p :: ps, n => if n < s.channels p.bay then some (p.bay, (s.workingOf p.bay).getD n 0) else s.channelOn ps (n - s.channels p.bay)

/-- The unit that can be tested and marked: the quarter of a team's register file, the core of its local store and TLB, the channel that
holds a sector (24 R363). The scratchpad of a team's die is a unit too, but none that a table can mark (DESIGN CHOICE, log 85). -/
def State.unitOf (s : State) (u : HwUnit) : HwUnit :=
  let core (n k : Nat) (f : Team → Core → HwUnit) : HwUnit :=
    (((s.openTenant n).bind fun s => (s.ten.team? k).bind fun x => (s.ten.core? x.core).map (f x))).getD u
  match u with
  | .regfile n k => core n k fun x c =>
      .quarter c.bay c.phys (((List.range 4).filter fun q => !(s.marked c.bay).quarters.contains (c.phys, q)).getD x.quarter 0)
  | .localStore n k | .tlb n k => core n k fun _ c => .core c.bay c.phys
  | .scratchpad n k => core n k fun _ c => .spad c.die
  | .sector n va => (((s.openTenant n).bind fun s => (s.ten.paOf va).bind fun a =>
      s.channelOn s.ten.panes (channelOf s.tenChannels a)).map fun p => HwUnit.channel p.1 p.2).getD u
  | _ => u

/-- A corrected error in unit `w` is remembered with its time; a second one within 1 s asks for the self-test (R392). -/
def State.again (s : State) (w : HwUnit) : State :=
  let s := s.tickClock
  if s.once.any fun x => x.1 == w && decide (s.timeNs - x.2 ≤ 1000000000) then
    { s with errors := s.errors ++ [w], once := s.once.filter fun x => x.1 != w }
  else { s with once := s.once.filter (fun x => x.1 != w) ++ [(w, s.timeNs)] }

/-- ECC_ERROR. An uncorrected error asks for a self-test of the unit that it lies in at once (R392). -/
def execEccError (u : HwUnit) (corrected : Bool) (s : State) : Out :=
  .next (if s.power != .up then s
    else if corrected then (s.corrected u).again (s.unitOf u)
    else
      { s.uncorrected u with errors := s.errors ++ [s.unitOf u] })

/-- LINK_CRC_RETRY: a lane group that no retraining repairs takes the module out of service. -/
def execLinkCrcRetry (_port : Nat) (repaired : Bool) (s : State) : Out :=
  .next (if s.power != .up || repaired then s
    else { s with power := .outOfService, tens := [], ten := {}, core := {}, blk := {}, team := {}, cal := [] })

/-! ### Retirement (24 R366) -/

/-- A table with one more unit marked; a failing macro retires its core. -/
def Remap.retire (m : Remap) (u : HwUnit) : Remap :=
  match u with
  | .core _ c | .mac _ c _ => { m with cores := addNew c m.cores }
  | .quarter _ c q => { m with quarters := if m.quarters.contains (c, q) then m.quarters else m.quarters ++ [(c, q)] }
  | .channel _ ch => { m with channels := addNew ch m.channels }
  | _ => m
def bayOf : HwUnit → Option Nat
  | .core b _ | .quarter b _ _ | .mac b _ _ | .channel b _ => some b
  | _ => none
def isChannel : HwUnit → Bool
  | .channel _ _ => true
  | _ => false

/-- Every context saved from some panes of the tenant in the focus; false while a save has to wait. -/
def State.savePanes (s : State) : List Pane → State × Bool
  | [] => (s, true)
  | p :: ps =>
    match s.savePane p.ctx p.num false with
    | (s, false) => (s, false)
    | (s, true) => (s.onTen fun t => t.switchPane p.num p.ctx p.ctx).savePanes ps

/-- The cores of a pane built anew; the macros of its context come back (10 R217). -/
def State.rebuildPane (s : State) (p : Pane) : State :=
  let x := (s.ten.ctx? p.ctx).getD {}
  let cs := (s.buildCores p.num p.bay).map fun c =>
    match s.ten.cores.find? fun x => x.bay == c.bay && x.phys == c.phys with
    | some o => { c.takeMacs x with strCnt := o.strCnt, strHi := o.strHi, eccCor := o.eccCor, pmsel := o.pmsel, pmcnt := o.pmcnt, fails := o.fails }
    | none => c.takeMacs x
  s.onTen fun t => { t with cores := cs.foldl (fun l c => addBy (·.num) c l) (t.cores.filter fun c => c.pane != p.num) }

/-- Cooperative launches that can no longer fit are dropped, those of kind 0 before their release too (R366, 16 R290). -/
def Tenant.dropUnfit (t : Tenant) : Tenant :=
  t.dropLaunches fun l => l.rc.coop && l.placed == 0 &&
    ((l.waiting && !t.coopFits l.rc l.nblk) || (l.rc.kind == 0 && !t.coopFits l.rc l.rc.blocks))

/-- Pages moved to the interleave of fewer channels: what no longer fits becomes TIER, pinned pages DIRECT; `State.relay` then gives what
stays in HBM its new places. -/
def State.shrink : List Page → State → State × Option Nat
  | [], s => (s, none)
  | p :: ps, s =>
    if s.ten.framesUsed ≤ s.tenChannels * 32768 then (s, none)
    else if p.pin then
      if p.frames ≤ s.tierFree then State.shrink ps (s.onTen fun t => t.setPage p.va fun x => { x with st := .direct }) else (s, some p.va)
    else State.shrink ps (s.onTen fun t => t.setPage p.va fun x => { x with st := if p.frames ≤ s.tierFree then .tier else .stored })

/-- Sectors that a channel about to be retired gives up no more: any of those that it holds (16 R295). -/
def State.unreadable (s : State) (bay ch : Nat) : List Nat :=
  ((List.range (Config.freeNat s.ctr 9600)).map fun i => Config.freeIx s.ctr 9601 i).filter fun x =>
    (s.ten.paOf (32 * x)).any fun a => channelOf s.tenChannels a == s.denseChannel bay ch

/-- Pages in HBM that lie on a channel, all of them for a page as large as a row of channels. -/
def State.pagesOn (s : State) (bay ch : Nat) : List Page :=
  s.ten.pages.filter fun p => p.st == .hbm &&
    (List.range (p.size / 1024)).any fun i => (s.ten.paOf (p.va + 1024 * i)).any fun a => channelOf s.tenChannels a == s.denseChannel bay ch

/-- Pages are invalidated; false while a closed phase still uses one (21 R346). -/
def State.vacate (s : State) (ps : List Page) : State × Bool :=
  let s := ps.foldl (fun s p => s.invalidate p.va p.size) s
  (s, !ps.any fun p => s.ten.inUse p.va p.size)

/-- Pages that have been invalidated move to other frames (R392): each that is neither pinned nor retained goes to the tier or to NVMe, or gets
new frames in HBM, by a free choice; the others get new frames (DESIGN CHOICE, log 85). -/
def State.moveOff (s : State) (ps : List Page) : State :=
  let out (p : Page) : Bool := !p.pin && !p.meets s.ten.kept && Config.freeIx s.ctr 9700 p.va % 2 == 1
  let s := (ps.filter out).foldl (fun s p => s.onTen fun t => t.setPage p.va fun x => { x with st := if p.frames ≤ s.tierFree then .tier else .stored }) s
  State.reframe (s.onTen fun t => { t with
    stage2 := t.stage2.map fun g => if ps.any (fun p => inside p.gpa p.size g.gpa) then { g with pa := none } else g })
/-- The pages of a channel that has passed its test. -/
def State.moveFor (s : State) (u : HwUnit) : State :=
  match u with
  | .channel b ch => s.moveOff (s.pagesOn b ch)
  | _ => s

/-- A bay that yields no pane any more takes its pane from the tenant (R363; DESIGN CHOICE, log 60). The calendar stays as it is, also at
ports of a die where the tenant has no pane left: 16 R292 does not say what firmware writes then (DESIGN CHOICE, log 82). -/
def State.losePane (s : State) (p : Pane) : State :=
  if s.yields p.bay then s
  else s.onTen fun t => { t with
    panes := removeBy (·.num) p.num t.panes
    cores := t.cores.filter fun c => c.pane != p.num }

/-- The firmware table of a bay changes under the tenant in the focus, whose contexts have been saved, and whose pages have been
invalidated where a channel goes. -/
def State.reshape (s : State) (p : Pane) (u : HwUnit) : State :=
  let lost := match u with | .channel b ch => s.unreadable b ch | _ => []
  let s := { s with fwTab := put ({} : Remap) p.bay ((look ({} : Remap) p.bay s.fwTab).retire u) s.fwTab }
  let s := (s.rebuildPane p).losePane p
  let s := if s.yields p.bay && !isChannel u then s
    else
      let s := s.onTen fun t => { t with poison := union t.poison lost }
      let hbm := s.ten.pages.filter fun x => x.st == .hbm
      match State.shrink (hbm.filter (fun x => !x.pin) ++ hbm.filter (·.pin)) s with
      | (s, none) => s.relay
      | (s, some va) =>
        let s := s.relay
        let s := (s.ten.ctxs.map (·.num)).foldl (fun s c =>
          let s := s.endTeams ((s.ten.teamsIn (s.ten.blocks.filter fun b => b.ctx == c)).map (·.key))
          s.onTen fun t => Tenant.dropLaunches ((t.orphanSaved fun x => x.num == c).onCtx c fun x => { x with saved := [], macs := [], macGrps := [], stalled := [], saving := [], lost := true })
            fun (l : Launch) => l.ctx == c) s
        s.report 1 (faultBytes cLost 0 0 0 0 0xFFFF 0 va) 0
  s.onTen Tenant.dropUnfit

/-- Does the loss of unit `u` take the pane from the tenant, and its channels with it? -/
def State.panelessWithout (s : State) (p : Pane) (u : HwUnit) : Bool :=
  !State.yields { s with fwTab := put ({} : Remap) p.bay ((look ({} : Remap) p.bay s.fwTab).retire u) s.fwTab } p.bay

/-- The test of a unit in a bay: the contexts on its pane are saved first, where channels go those on every pane; the pages of a channel
are invalidated and moved. A save or an invalidation that has to wait puts the test off. -/
def State.testBay (s : State) (bay : Nat) (u : HwUnit) (pass : Bool) : State × Bool :=
  match s.allTens.find? fun t => t.panes.any fun p => p.bay == bay with
  | none =>
    (if pass then s else { s with fwTab := put ({} : Remap) bay ((look ({} : Remap) bay s.fwTab).retire u) s.fwTab }, true)
  | some t => match s.openTenant t.num with
    | none => (s, true)
    | some s => match s.ten.panes.find? fun p => p.bay == bay with
      | none => (s, true)
      | some p =>
        let all := !pass && (isChannel u || s.panelessWithout p u)
        match s.savePanes (if all then s.ten.panes else if isChannel u then [] else [p]) with
        | (s, false) => (s, false)
        | (s, true) =>
          match s.vacate (match u with
            | .channel b ch => if pass then s.pagesOn b ch else s.ten.pages.filter fun x => x.st == .hbm
            | _ => if all then s.ten.pages.filter fun x => x.st == .hbm else []) with
          | (s, false) => (s, false)
          | (s, true) => (if pass then s.moveFor u else s.reshape p u, true)

/-- SELF_TEST of a unit whose error asks for one: a transient error is logged; a lasting one marks the unit, and the pane is reshaped. -/
def execSelfTest (u : HwUnit) (pass : Bool) (s : State) : Out :=
  .next (if s.power != .up || !s.errors.contains u then s
    else
      let log (s : State) : State := { s with errors := s.errors.filter fun x => x != u, hwLog := s.hwLog ++ [u] }
      match bayOf u with
      | none => log s
      | some b => match s.testBay b u pass with
        | (s, true) => log s
        | (s, false) => s)

/-! ### Loops that change timing only (R393) -/

/-- HBM_RETRAIN: nothing that a program sees (25 R390). -/
def execHbmRetrain (_ch : Nat) (s : State) : Out := .next s

/-- DROOP_STRETCH of `n` cycles, counted in STRLO and STRHI (09 R213). -/
def execDroopStretch (t c n : Nat) (s : State) : Out :=
  .next (s.atTenant t fun s => s.onTen fun ten => ten.onCore c fun x => { x with strCnt := (x.strCnt + n) % 2 ^ 64 })

/-! ### Power and bring-up (R394 to R396) -/

/-- Supplies lost: fuses and NVMe contents stay, which hold the checkpoints and the firmware in service. -/
def State.powerDown (s : State) : State :=
  { fuse := s.fuse, fwVersion := s.fwVersion, rollback := s.rollback, fwDigests := s.fwDigests, ckpts := s.ckpts.filter (·.complete)
    buddies := s.buddies, hosted := s.hosted, ctr := s.ctr, agenda := s.agenda, out := s.out }

/-- POWER_LOSS (25 R394). -/
def execPowerLoss (s : State) : Out := .next s.powerDown

/-- Above 95 °C the arithmetic clock falls by 50 MHz. -/
def execThermalThrottle (celsius : Nat) (s : State) : Out :=
  .next (if s.power != .off && decide (95 < celsius) then { s with clockMHz := s.clockMHz - 50 } else s)
/-- At 105 °C the module cuts its own supplies. -/
def execThermalShutdown (celsius : Nat) (s : State) : Out :=
  .next (if s.power != .off && decide (105 ≤ celsius) then s.powerDown else s)

/-- The root of trust's test of a firmware image (R397): its signature verifies under the vendor key whose digest is fused, and its version
is not below the rollback counter. -/
def State.trusts (s : State) (w : FwImage) : Bool :=
  Config.sha512 w.key == Config.vendorKeyDigest && Config.verify w.key (leBytes 64 (Config.sha512 w.body).toNat) w.sig &&
    decide (s.rollback ≤ w.version)
/-- An image that passes is in service; a rejected one leaves the previous image there. -/
def State.boot (s : State) (w : FwImage) : State :=
  if s.trusts w then { s with fwVersion := w.version, fwDigests := [Config.sha512 w.body] } else s

/-- BRING_UP with boot firmware `w`: with an image in service the module comes up, and units that fail their self-test enter the firmware
tables; with none it stays down. -/
def execBringUp (failed : List HwUnit) (w : FwImage) (s : State) : Out :=
  .next (if s.power != .off || (s.boot w).fwDigests.isEmpty || decide ((s.boot w).fwVersion < s.rollback) then s
    else { s.boot w with
      power := .up
      fwTab := failed.foldl (fun t u => match bayOf u with
        | some b => put ({} : Remap) b ((look ({} : Remap) b t).retire u) t
        | none => t) s.fwTab })

/-- FIRMWARE_IMAGE_CHECK (R397), where the supplies are on (R394). -/
def execFirmwareImageCheck (w : FwImage) (s : State) : Out := .next (if s.power == .off then s else s.boot w)

/-- PRECISION_TIME_PROTOCOL: a correction in nanoseconds that the module clock takes in by slewing (09 R208). -/
def execPrecisionTimeProtocol (slew : Int) (s : State) : Out := .next (if s.power == .up then { s with slew := slew } else s)

end Sys2Proof.Machine
end

