-- ==== Sys2Proof/Machine/Loader.lean ====
section
/-!
DEFINITION. DRX images and their loading (23 R361, R362, 24 R371).
-/
namespace Sys2Proof.Machine

/-! ### The tables of an image (R361) -/

structure DrxSec where
  kind : Nat
  align : Nat
  bytes : List Byte
  deriving DecidableEq, Repr

structure DrxSym where
  sec : Nat
  global : Bool
  value : Nat
  deriving DecidableEq, Repr

structure DrxRel where
  sec : Nat
  kind : Nat
  sym : Nat
  add : Int
  post : Int
  woff : Nat
  deriving DecidableEq, Repr

structure Drx where
  secs : List DrxSec
  syms : List DrxSym
  rels : List DrxRel
  trap : Option Nat
  deriving DecidableEq, Repr

def signed (bits n : Nat) : Int := (BitVec.ofNat bits n).toInt
/-- Entries of `size` bytes of a table. -/
def tableAt (f : List Byte) (off n size : Nat) : List (List Byte) := (List.range n).map fun i => (f.drop (off + i * size)).take size
/-- A name lies in the string table and ends there. -/
def nameOk (f : List Byte) (stroff name : Nat) : Bool := (f.drop (stroff + name)).contains 0

def readSec (f e : List Byte) : DrxSec := { kind := field e 4 1, align := field e 5 1, bytes := (f.drop (field e 16 8)).take (field e 8 8) }
def secOk (f : List Byte) (stroff : Nat) (e : List Byte) : Bool :=
  decide (field e 4 1 ≤ 1) && decide (2 ≤ field e 5 1) && decide (field e 5 1 ≤ 30) && field e 6 2 == 0 && field e 24 8 == 0 &&
    decide (field e 16 8 + field e 8 8 ≤ f.length) && nameOk f stroff (field e 0 4)
def readSym (e : List Byte) : DrxSym := { sec := field e 4 2, global := field e 6 2 == 1, value := field e 8 8 }
def symOk (f : List Byte) (stroff nsec : Nat) (e : List Byte) : Bool :=
  decide (field e 6 2 ≤ 1) && (field e 4 2 == 0xFFFF || decide (field e 4 2 < nsec)) && nameOk f stroff (field e 0 4)
def readRel (e : List Byte) : DrxRel :=
  { sec := field e 0 2, kind := field e 2 1, sym := field e 4 4, add := signed 64 (field e 8 8), post := signed 32 (field e 16 4), woff := field e 20 4 }
def relOk (secs : List DrxSec) (nsym : Nat) (e : List Byte) : Bool :=
  decide (field e 2 1 ≤ 2) && field e 3 1 == 0 && decide (field e 4 4 < nsym) &&
    (match secs[field e 0 2]? with | some x => decide (field e 20 4 + 4 ≤ x.bytes.length) | none => false)

/-- Step 1: MAGIC, VERSION, the table bounds and every reserved field; none for a bad image. -/
def readDrx (f : List Byte) : Option Drx :=
  let nsec := field f 8 4
  let nsym := field f 12 4
  let nrel := field f 16 4
  let trap := field f 20 4
  let secs := tableAt f (field f 24 8) nsec 32
  let syms := tableAt f (field f 32 8) nsym 16
  let rels := tableAt f (field f 40 8) nrel 24
  let stroff := field f 48 8
  if decide (64 ≤ f.length) && field f 0 4 == 0x31585244 && field f 4 4 == 1 && decide (1 ≤ nsec) && decide (nsec ≤ 16) &&
      field f 56 8 == 0 && (trap == 0xFFFFFFFF || decide (trap < nsym)) &&
      decide (field f 24 8 + 32 * nsec ≤ f.length) && decide (field f 32 8 + 16 * nsym ≤ f.length) &&
      decide (field f 40 8 + 24 * nrel ≤ f.length) && decide (stroff ≤ f.length) &&
      secs.all (secOk f stroff) && syms.all (symOk f stroff nsec) && rels.all (relOk (secs.map (readSec f)) nsym)
  then some { secs := secs.map (readSec f), syms := syms.map readSym, rels := rels.map readRel, trap := if trap == 0xFFFFFFFF then none else some trap }
  else none

/-! ### Placement (R362 step 2) -/

def DrxSec.span (x : DrxSec) : Nat := roundUp x.bytes.length 65536
/-- A VA for a section in fresh pages: a free choice, or the first fresh one after a mapping; none where there is none. -/
def Tenant.placeSec (t : Tenant) (ctr n : Nat) (x : DrxSec) : Option Nat :=
  let a := max 65536 (2 ^ x.align)
  let wish := a * (Config.freeIx ctr 9000 n % (2 ^ 56 / a))
  (wish :: (t.pages.map fun (p : Page) => roundUp (p.va + p.size) a) ++ [0]).find? fun (va : Nat) =>
    decide (va < 2 ^ 56) && decide (va + x.span ≤ 2 ^ 56) && !t.overlaps va (max x.span 1)

/-- Sections placed in turn: the tenant with their pages, and their VAs. -/
def Tenant.placeSecs (ctr : Nat) : List DrxSec → Nat → Tenant → Option (Tenant × List Nat)
  | [], _, t => some (t, [])
  | x :: xs, n, t =>
    match t.placeSec ctr n x with
    | none => none
    | some va =>
      let t := t.mapRange va x.span 65536
        { va := 0, size := 0, r := true, w := x.kind == 1, x := x.kind == 0, st := .hbm, pin := false, peer := 0 }
      (Tenant.placeSecs ctr xs (n + 1) t).map fun r => (r.1, va :: r.2)

/-! ### Symbols and relocations (R362 steps 3 and 4) -/

def Drx.symVA (d : Drx) (vas : List Nat) (i : Nat) : Nat :=
  match d.syms[i]? with
  | some x => vas.getD x.sec 0 + x.value
  | none => 0

/-- The value that a relocation writes; none where it does not fit. -/
def relocValue (kind : Nat) (s h : Int) (r : DrxRel) : Option Nat :=
  let fits (x : Int) : Option Nat := if 0 ≤ x ∧ x < 2 ^ 32 then some x.toNat else none
  if kind == 0 then fits ((s + r.add) % 2 ^ 32 + r.post)
  else if kind == 1 then fits ((s + r.add) / 2 ^ 32 + r.post)
  else
    let x := s + r.add - h
    if x % 4 = 0 ∧ -(2 ^ 31) ≤ x / 4 ∧ x / 4 < 2 ^ 31 then some (BitVec.ofInt 32 (x / 4)).toNat else none

def patch (bs : List Byte) (o v : Nat) : List Byte := bs.take o ++ leBytes 4 v ++ bs.drop (o + 4)

/-- Relocations in table order; the index and section of the first that does not fit. -/
def relocate (d : Drx) (vas : List Nat) : List DrxRel → Nat → List (List Byte) → Except (Nat × Nat) (List (List Byte))
  | [], _, bs => .ok bs
  | r :: rs, i, bs =>
    let b := bs.getD r.sec []
    let h : Int := ((vas.getD r.sec 0 + field b r.woff 4 : Nat) : Int)
    match relocValue r.kind ((d.symVA vas r.sym : Nat) : Int) h r with
    | some v => relocate d vas rs (i + 1) (bs.set r.sec (patch b r.woff v))
    | none => .error (i, r.sec)

/-- The reply: section VAs, and as many global symbols as fit. -/
def Drx.reply (d : Drx) (vas : List Nat) : List Byte :=
  let globs := (List.range d.syms.length).filter fun i => (d.syms[i]?).any (·.global)
  let head := leBytes 4 d.secs.length ++ leBytes 4 globs.length ++ vas.flatMap (leBytes 8)
  head ++ (globs.take ((8160 - head.length) / 16)).flatMap fun i => leBytes 4 i ++ leBytes 4 0 ++ leBytes 8 (d.symVA vas i)

/-- The load of an image; a failure leaves nothing mapped. -/
def State.load (s : State) (f : List Byte) : Done :=
  match readDrx f with
  | none => refuse s rBadimage
  | some d =>
    if !s.roomIn .hbm ((d.secs.map fun x => x.span / 65536).foldl (· + ·) 0) then refuse s rNospace
    else match Tenant.placeSecs s.ctr d.secs 0 s.ten with
      | none => refuse s rNospace
      | some (t, vas) =>
        match d.syms.findIdx? fun x => x.sec == 0xFFFF with
        | some i => .reply s rUndef (leBytes 4 i)
        | none =>
          match relocate d vas d.rels 0 (d.secs.map (·.bytes)) with
          | .error (i, sec) => .reply s rRelocRange (leBytes 4 i ++ leBytes 4 sec)
          | .ok bs =>
            let main := (vas.zip bs).foldl (fun m p => Space.inits m p.1 p.2) t.main
            let im : Image :=
              { secs := vas.zip (d.secs.map fun x => x.bytes.length)
                trap := match d.trap with | some i => BitVec.ofNat 56 (d.symVA vas i) | none => 0
                digest := Config.sha512 f }
            .reply (State.reframe { s with ten := { t with main := main, images := t.images ++ [im] } }) rOk (d.reply vas)

/-- LOAD. A remote image is read from the peer, so its bytes are free (R371). In MODE 0 the fields HOST, RKEY and RVA, which only MODE 1 uses, may
hold anything (DESIGN CHOICE, log 87). -/
def execLoad (q : Datagram) (s : State) : Out :=
  let mode := argOf q 0 4
  let size := argOf q 8 8
  .next (s.rpc q 1 (if mode == 0 then decide (size ≤ 8112) && q.payload.length == 48 + size else q.payload.length == 48) fun _ s =>
    if 1 < mode || argOf q 4 4 != 0 || argOf q 36 4 != 0 then refuse s rBadreq
    else if mode == 0 then s.load (q.payload.drop 48)
    else
      let s : State := { s with out := s.out ++ [OutMsg.remoteRead (BitVec.ofNat 128 (argOf q 16 16)) (argOf q 32 4) (argOf q 40 8) size] }
      s.load ((List.range size).map fun i => BitVec.ofNat 8 (Config.freeIx s.ctr 9001 i)))

end Sys2Proof.Machine
end

