-- ==== Sys2Proof/Machine/Register.lean ====
section
/-!
DEFINITION. REGISTER: worlds, queries, bins and textures (24 R371, 17 R296, R312, 12 R244, R246, R262).
-/
namespace Sys2Proof.Machine

/-- The payload of REGISTER: WHAT, NUM, QID, DVA. -/
def regLayout (q : Datagram) : Bool := q.payload.length == 24
/-- A REGISTER of kind `what`; its descriptor of `n` bytes is read when the request arrives, as a READ would. -/
def State.register (s : State) (q : Datagram) (what n : Nat) (fields : Bool) (f : Nat → List Byte → State → Done) : State :=
  s.rpc q 9 (regLayout q) fun ctx s =>
    if argOf q 12 4 != 0 || !fields then refuse s rBadreq
    else if argOf q 0 4 != what then refuse s rBadreq
    else s.hostAccess false (argOf q 16 8) n fun s => f ctx (s.ten.main.gets (argOf q 16 8) n) s

/-! ### Worlds -/

/-- The limits of R296 on a descriptor. -/
def worldOk (d : List Byte) : Bool :=
  field d 7 1 == 0 && field d 0 7 % 65536 == 0 && field d 8 8 % 65536 == 0 && decide (1 ≤ field d 16 4) && decide (field d 16 4 ≤ 2 ^ 28) &&
    decide (256 ≤ field d 20 4) && decide (field d 20 4 ≤ 2 ^ 20) && field d 31 1 == 0 && field d 39 1 == 0 && field d 32 7 % 64 == 0 &&
    field d 40 24 == 0

/-- A world with its empty directory in the pool, at a free place. -/
def newWorld (ctr n : Nat) (d types : List Byte) : World :=
  let cap := field d 16 4
  let slack := field d 8 8 - dirChunk * ((cap + 63) / 64)
  { num := n, pool := field d 0 7, poolsz := field d 8 8, cap := cap, qcap := field d 20 4, report := field d 32 7
    types := (List.range 256).filterMap fun k => if field types k 1 == 0 then none else some (k, field types k 1)
    dir0 := field d 0 7 + 64 * (Config.freeIx ctr 9100 n % (slack / 64 + 1))
    w := { num := 1 }, p := { num := 0 }, d := none, q := [], dropped := 0 }

/-- REGISTER of a world; a WHAT above 3 is refused here. -/
def execRegisterWorld (q : Datagram) (s : State) : Out :=
  .next (if 0 < argOf q 0 4 && argOf q 0 4 ≤ 3 then s
    else s.register q 0 64 (argOf q 8 4 == 0) fun _ d s =>
      let n := argOf q 4 4
      if 15 < n || (s.ten.world? n).isSome || !worldOk d then refuse s rBadreq
      else s.hostAccess false (field d 24 7) 256 fun s =>
        let types := s.ten.main.gets (field d 24 7) 256
        if types.any fun b => decide (64 < b.toNat) then refuse s rBadreq
        else
          let size := dirChunk * ((field d 16 4 + 63) / 64)
          if field d 8 8 < size then refuse s rNospace
          else
            let w := newWorld s.ctr n d types
            .reply (s.onTen fun t => { t.deviceWrite [(w.dir0, leBytes size 0)] with worlds := addBy (·.num) w t.worlds }) rOk [])

/-! ### Queries -/

def readSet256 (d : List Byte) (o : Nat) : BitVec 256 := BitVec.ofNat 256 (field d o 32)

def execRegisterQuery (q : Datagram) (s : State) : Out :=
  .next (if argOf q 0 4 != 1 then s
    else s.register q 1 96 true fun _ d s =>
      let n := argOf q 4 4
      let id := argOf q 8 4
      let req := readSet256 d 0
      let rd := readSet256 d 32
      let wr := readSet256 d 64
      match s.ten.world? n with
      | none => refuse s rBadreq
      | some w =>
        if id < 1 || 65535 < id || (s.ten.queries.any fun x => x.world == n && x.id == id) || req == 0 ||
            (List.range 256).any (fun k => req.getLsbD k && look 0 k w.types == 0) || req &&& ~~~(rd ||| wr) != 0
        then refuse s rBadreq
        else .reply (s.onTen fun t => { t with queries := t.queries ++ [{ world := n, id := id, req := req, rd := rd, wr := wr }] }) rOk [])

/-! ### Bins -/

/-- The field rules of R262. That the top bytes of ARG and DONE are zero and DONE is a multiple of 8, as 16 R282 asks of records, is the model's
rule (DESIGN CHOICE, log 90). -/
def binOk (d : List Byte) : Bool :=
  field d 7 1 == 0 && field d 0 7 % 4 == 0 && decide (1 ≤ field d 8 2) && decide (field d 8 2 ≤ 1024) && decide (4 ≤ field d 10 1) &&
    decide (field d 10 1 ≤ 16) && field d 11 1 / 4 == 0 && decide (1 ≤ field d 12 4) && decide (field d 12 4 ≤ 2 ^ 20) &&
    decide (field d 8 2 * 4 * field d 10 1 ≤ field d 20 4) && field d 28 4 == 0 && field d 48 4 % 32 == 0 &&
    decide (2 * field d 8 2 ≤ field d 52 4) && field d 56 8 == 0 && field d 39 1 == 0 && field d 47 1 == 0 && field d 40 7 % 8 == 0

def readBin (n ctx : Nat) (d : List Byte) : BinDesc :=
  { num := n, entry := field d 0 7, thr := field d 8 2, rsw := field d 10 1, pri := field d 11 1, age := field d 12 4, vb := field d 16 2
    ga := field d 18 1, gx := field d 19 1, lsb := field d 20 4, spb := field d 24 4, arg := field d 32 7, done := field d 40 7
    ring := field d 48 4, cap := field d 52 4, ctx := ctx }

/-- The smallest scratchpad that the tenant has on a die. -/
def Tenant.leastScratch (t : Tenant) : Nat :=
  let dies := distinct (t.panes.map fun p => p.bay / 8)
  (dies.map fun d => (t.panes.filter fun p => p.bay / 8 == d).length * Config.scratchBytes).foldl min (32 * Config.scratchBytes)

def execRegisterBin (q : Datagram) (s : State) : Out :=
  .next (if argOf q 0 4 != 2 then s
    else s.register q 2 64 (argOf q 8 4 == 0) fun ctx d s =>
      let n := argOf q 4 4
      let b := readBin n ctx d
      if 255 < n || (findBy (·.num) n s.ten.bins).isSome || !binOk d then refuse s rBadreq
      else if !s.ten.shapeOk (b.record b.thr) then refuse s rShape
      else if s.ten.leastScratch < b.ring + b.cap * 4 * b.rsw then refuse s rNospace
      else .reply (s.onTen fun t => { t with bins := addBy (·.num) b t.bins }) rOk [])

/-! ### Textures -/

/-- A texture's latent pages are made resident and pinned. -/
def execRegisterTexture (q : Datagram) (s : State) : Out :=
  .next (if argOf q 0 4 != 3 then s
    else s.register q 3 256 (argOf q 4 4 == 0 && argOf q 8 4 == 0) fun _ d s =>
      let dva := argOf q 16 8
      if dva % 256 != 0 || !texOk d then refuse s rBadreq
      else
        let t := readTex d
        let size := 16 * ((t.w + 15) / 16) * ((t.h + 15) / 16)
        s.hostAccess false t.lat size fun s =>
          .reply (s.onTen fun ten => { ten with
            pages := ten.pages.map fun p => if p.meets (span t.lat size) then { p with pin := true } else p
            textures := ten.textures ++ [(dva, t.lat, size)] }) rOk [])

end Sys2Proof.Machine
end

