-- ==== Sys2Proof/Machine/Again.lean ====
section
/-!
DEFINITION. The meaning that a request has when its turn comes again (24 R370, R374): METHOD, and OP where the method has several.
-/
namespace Sys2Proof.Machine

/-- A request that was held in the inbox comes up again (24 R374). -/
def execAgain (q : Datagram) : State → Out :=
  let op := argOf q 0 4
  match q.method.toNat with
  | 1 => execLoad q
  | 2 => execAlloc q
  | 3 => execFree q
  | 4 => execRead q
  | 5 => execWrite q
  | 6 => execRpcLaunch q
  | 7 => execWait q
  | 8 => execSync q
  | 9 => if op == 1 then execRegisterQuery q else if op == 2 then execRegisterBin q
    else if op == 3 then execRegisterTexture q else execRegisterWorld q
  | 10 => if op == 0 then execCheckpointTake q else if op == 1 then execCheckpointRestore q else execCheckpointList q
  | 11 => execMigrate q
  | 12 => execAttest q
  | 13 => execStatus q
  | 14 => execEvents q
  | 15 => execLog q
  | 16 => execConfig q
  | 17 => if op == 1 then execWindowRemove q else execWindowCreate q
  | 18 => execPeermap q
  | 19 => if op == 1 then execTenantRemove q else execTenantCreate q
  | 20 => if op == 1 then execContextDestroy q else execContextCreate q
  | _ => execUnassignedMethod q

end Sys2Proof.Machine
end

