-- ==== Sys2Proof/Machine/Bins.lean ====
section
/-!
DEFINITION. Bin pushes and flushes (12 R262, R263, 13 R274 to R276).
-/
namespace Sys2Proof.Machine

/-- The registered bin that a scalar names (R274, R275). -/
def Tenant.bin? (t : Tenant) (n : Word) : Option BinDesc := findBy (·.num) n.toNat t.bins

/-- Records of the open phase for a bin. -/
def Team.pushed (t : Team) (bin : Nat) : Nat :=
  (t.batch.map fun r => match r with | .push b rs => if b == bin then rs.length else 0 | _ => 0).foldl (· + ·) 0

def execBinpush (o : XOps) (s : State) : Out :=
  let w := o.lo8.toNat
  issue (.binpush o) .scalar
    (fun s => match s.ten.bin? (s.sval o.b) with
      | none => trapTeam cIllegal subReserved
      | some b =>
        firstOf [if b.rsw == w then none else trapTeam cIllegal subReserved, budget s (group o.a w) [] [],
          roomRec s (!s.active.isEmpty),
          if b.cap < s.team.pushed b.num + s.active.length then some (.ending cWrbuf 3 0) else none])
    (fun s => if s.active.isEmpty then s
      else s.addRec (.push (s.sval o.b).toNat (s.active.map fun k => (group o.a w).map fun r => s.vreg r k))) s

def execBinflush (o : ROps) (s : State) : Out :=
  issue (.binflush o) .scalar
    (fun s => if (s.ten.bin? (s.sval o.a)).isNone then trapTeam cIllegal subReserved else roomRec s true)
    (fun s => s.addRec (.flush (s.sval o.a).toNat)) s

end Sys2Proof.Machine
end

