-- ==== Sys2Proof/Machine/Complete.lean ====
section
/-!
DEFINITION. COMPLETE: all the writes of a queued batch in one step, its atomics performed, its queue, bin and launch records carried
out in their order (08 R172, R173, R181, 12 R263, 16 R284, 17 R305, 18 R322, R323, 24 R378, R379).
-/
namespace Sys2Proof.Machine

/-! ### Memory operations of completing batches -/

/-- One write or atomic on byte space `sp` (0 main memory, 1 + d the scratchpad of die d), with the batches that it belongs to. The
lanes or requests that an atomic combines stand as (issue stamp, a, c). -/
inductive MemOp where
  | write (sp a : Nat) (bytes : List Byte) (b : Nat)
  | atom (sp op ty a : Nat) (xs : List (Nat × DWord × DWord)) (bs : List Nat)
  deriving DecidableEq, Repr

/-- The lanes of one instruction that share an address, in ascending order: one request (09 R193). -/
def perAddress (xs : List (Nat × DWord × DWord)) : List (Nat × List (DWord × DWord)) :=
  (distinct (xs.map (·.1))).map fun a => (a, (xs.filter fun x => x.1 == a).map (·.2))

/-- Does the operation touch one of `n` bytes at `a`? -/
def MemOp.touches (o : MemOp) (sp a n : Nat) : Bool :=
  match o with
  | .write s x bs _ => s == sp && decide (x < a + n) && decide (a < x + bs.length)
  | .atom s _ ty x _ _ => s == sp && decide (x < a + n) && decide (a < x + atomBytes ty)

/-- An FP32 add to main memory: its word and its stamp. -/
def MemOp.add : MemOp → Option (Nat × Nat)
  | .atom 0 0 3 a (x :: _) _ => some (a, x.1)
  | _ => none
/-- Does an FP32 add to word `a` with stamp `st` go behind a later operation: one that does not touch its word, or an add to it that has no
later stamp? -/
def MemOp.before (a st : Nat) (o : MemOp) : Bool := !o.touches 0 a 4 || o.add.any fun p => p.1 == a && decide (p.2 ≤ st)
/-- An operation put behind those that it goes behind. -/
def addAmong (o : MemOp) (a st : Nat) : List MemOp → List MemOp
  | [] => [o]
  | x :: r => if x.before a st then x :: addAmong o a st r else o :: x :: r
/-- The operations of a batch with the FP32 adds to each word in the order of their stamps, as far as nothing else between them touches the
word. Stamps rise with issue, but those of gradient scatters are free values: scatters of different instructions are added in an
unspecified order (04 R80, 12 R253). -/
def byStamps : List MemOp → List MemOp
  | [] => []
  | o :: r => match o.add with
    | none => o :: byStamps r
    | some p => addAmong o p.1 p.2 (byStamps r)

/-- The stamp that the add of record `i` to word `a` acts with at COMPLETE. -/
def stampOf (ctr i a : Nat) (st : Option Nat) : Nat := st.getD (Config.freeIx (Config.freeIx ctr 1030 i) 1031 a)

/-- The local part of a batch; what lies on REMOTE pages has gone to the peers. -/
def Tenant.memOps (t : Tenant) (ctr : Nat) (b : Batch) : List MemOp :=
  byStamps ((List.zip (List.range b.recs.length) b.recs).flatMap fun p => match p.2 with
    | .store die ws => ws.map fun w => .write (1 + die) w.1 w.2 b.id
    | .atomSp die op ty xs st => xs.map fun x => .atom (1 + die) op ty x.1 [(st, x.2)] [b.id]
    | .copy ws => (ws.filter fun w => !t.remote w.1).map fun w => .write 0 w.1 w.2 b.id
    | .atomMm op ty xs _ st =>
      (perAddress (xs.filter fun x => !t.remote x.1)).map fun x => .atom 0 op ty x.1 (x.2.map fun y => (stampOf ctr p.1 x.1 st, y)) [b.id]
    | _ => [])

/-- Does a later write of batch `b` cover byte `x`, no atomic touching it before? Then the earlier byte does not land (07 R163). -/
def covered (b sp x : Nat) (r : List MemOp) : Bool :=
  match r.find? fun q => q.touches sp x 1 with
  | some (.write _ _ _ c) => c == b
  | _ => false
/-- The writes of each batch without the bytes that a later one of the batch covers: of overlapping lanes the highest one's bytes land,
of copy-outs or stores of one batch the later ones' (07 R163, 09 R188, R203). -/
def landed : List MemOp → List MemOp
  | [] => []
  | .write sp a v b :: r =>
    let keep := (List.range v.length).filter fun i => !covered b sp (a + i) r
    (if keep.length == v.length then [.write sp a v b] else keep.map fun i => .write sp (a + i) [v.getD i 0] b) ++ landed r
  | o :: r => o :: landed r

/-- A request among others of its address, in the order of issue. -/
def byStamp (x : Nat × DWord × DWord) : List (Nat × DWord × DWord) → List (Nat × DWord × DWord)
  | [] => [x]
  | y :: r => if x.1 < y.1 then x :: y :: r else y :: byStamp x r

/-- An FP32 add joined to the last operation on its word, if that is an FP32 add to it too (R181). -/
def joinAdd (sp a : Nat) (xs : List (Nat × DWord × DWord)) (bs : List Nat) : List MemOp → Option (List MemOp)
  | [] => none
  | o :: r =>
    match joinAdd sp a xs bs r with
    | some r => some (o :: r)
    | none =>
      if r.any fun q => q.touches sp a 4 then none
      else match o with
        | .atom s 0 3 y zs cs =>
          if s == sp && y == a then some (.atom s 0 3 y (xs.foldl (fun l x => byStamp x l) zs) (union cs bs) :: r) else none
        | _ => none

/-- Combining (R181): for FP32 adds a free choice at each; for the other operations it changes nothing. -/
def combineOps (ctr : Nat) : Nat → List MemOp → List MemOp → List MemOp
  | _, acc, [] => acc
  | i, acc, o :: r =>
    match o with
    | .atom sp 0 3 a xs bs =>
      match (if Config.freeIx ctr 6000 i % 2 == 1 then joinAdd sp a xs bs acc else none) with
      | some acc => combineOps ctr (i + 1) acc r
      | none => combineOps ctr (i + 1) (acc ++ [o]) r
    | _ => combineOps ctr (i + 1) (acc ++ [o]) r

/-- The memory value after a request: an FP32 add adds the sum of its contributions in issue order, RNE at each addition, with one
rounding; the operands of the others act in turn. None when nothing is written, every CAS having failed. -/
def requestOn (op ty : Nat) (m : DWord) (xs : List (Nat × DWord × DWord)) : Option DWord :=
  if op == 0 && ty == 3 then
    match xs with
    | [] => none
    | x :: r => atomOp 0 3 m (r.foldl (fun acc y => sumOf 3 acc y.2.1) x.2.1) 0
  else xs.foldl (fun acc x => match atomOp op ty (acc.getD m) x.2.1 x.2.2 with | some v => some v | none => acc) none

/-- The words that FP32 adds of a batch go to. -/
def Tenant.addWords (t : Tenant) (x : Batch) : List (Nat × Nat) :=
  (t.memOps 0 x).filterMap fun o => match o with | .atom sp 0 3 a _ _ => some (sp, a) | _ => none
def Rec.isDrain : Rec → Bool
  | .drain _ _ _ _ _ => true
  | _ => false
/-- Pages of status objects that have to be brought. -/
def Tenant.statusPages (t : Tenant) (b : Batch) : List Nat :=
  distinct (b.recs.filterMap fun r => match r with
    | .launch _ (some a) => (match t.objPage a with | .away va => some va | _ => none)
    | _ => none)

/-- May batch `x` join the completing ones `acc`: queued at their core (R181: of a team or the teams of a block; 04 R80: of blocks too), wholly local, with an FP32 add to a word of theirs, no status
page missing, every earlier batch of its team among them (R181, R173)? -/
def Tenant.joins (t : Tenant) (acc : List Batch) (x : Batch) : Bool :=
  acc.all (fun b => b.id != x.id && b.core == x.core) &&
    (t.partsOf x.recs).isEmpty && !x.recs.any Rec.isDrain && (t.statusPages x).isEmpty &&
    (t.addWords x).any (fun w => acc.any fun b => (t.addWords b).contains w) &&
    t.queued.all fun y => y.team != x.team || x.id ≤ y.id || acc.any fun b => b.id == y.id
/-- The queued batches that complete with `b`, by free choices (DEDUCED, log 42). -/
def Tenant.group (t : Tenant) (ctr : Nat) (b : Batch) : List Batch :=
  t.queued.foldl (fun acc x => if Config.freeIx ctr 6100 x.id % 2 == 1 && t.joins acc x then acc ++ [x] else acc) [b]

/-! ### Their effect -/

/-- The record that a line takes from batch `b` of the completing ones. -/
def lineOf (bs : List Batch) (b : Nat) : LineRec :=
  match findBy (·.id) b bs with
  | some x => { team := some x.team, dom := x.dom }
  | none => { team := none, dom := .system }

/-- Bytes written by the batches `ids`, each of which has an entry. The line record is that of the last batch that joined the request, where
the spec names none (08 R181; DESIGN CHOICE, log 81). -/
def State.putBytes (s : State) (bs : List Batch) (sp a : Nat) (v : List Byte) (ids : List Nat) : State :=
  let m := ids.foldl (fun m b => m.writes b a v) (s.ten.space sp)
  let m := m.mark (lineOf bs (ids.getLastD 0)) (span a v.length)
  { s with ten := s.ten.setSpace sp m }

/-- The launches of the completing batches `ids`. -/
def launchesOf (bs : List Batch) (ids : List Nat) : List Nat := ids.filterMap fun b => (findBy (·.id) b bs).map (·.launch)

def State.applyMem (s : State) (bs : List Batch) (o : MemOp) : State :=
  match o with
  | .write 0 a v b => (s.putBytes bs 0 a v [b]).wrote 0 (launchesOf bs [b]) (span a v.length) true
  | .write (die + 1) a v b =>
    let v' := (List.range v.length).map fun i =>
      if s.spOpen die (a + i) then BitVec.ofNat 8 (Config.freeIx s.ctr 6001 (a + i)) else v.getD i 0
    (s.putBytes bs (die + 1) a v' [b]).wrote (die + 1) [] (span a v.length) true
  | .atom sp op ty a xs ids =>
    let n := atomBytes ty
    let s := match sp with
      | 0 => s
      | die + 1 => s.freeOpen die a n
    match requestOn op ty (BitVec.ofNat 64 ((s.ten.space sp).num a n)) xs with
    | some v =>
      (s.putBytes bs sp a (leBytes n v.toNat) ids).wrote sp (launchesOf bs ids) (span a n) true
    | none => s

/-! ### Queue, bin and launch records -/

/-- Records join the structural queue; those beyond QCAP are dropped and counted, a dropped NEW gives up its reservation (17 R305). -/
def Tenant.joinQueue (t : Tenant) (ctr world : Nat) (rs : List QRec) : Tenant :=
  match t.world? world with
  | none => t
  | some w =>
    let n := w.qcap - w.q.length
    let lost := rs.drop n
    (t.setWorld { w with q := w.q ++ rs.take n, dropped := w.dropped + lost.length }).cancel
      ((lost.filter fun r => r.op == .new).map fun r => (world, handleIndex r.handle)) ctr

/-- The records of a batch in order; none where a launch record meets QFULL (16 R283). -/
def Tenant.carryOut (ctr : Nat) (b : Batch) : List Rec → Tenant → Option Tenant
  | [], t => some t
  | r :: rs, t =>
    match r with
    | .queue w qs => Tenant.carryOut ctr b rs (t.joinQueue ctr w qs)
    | .push bin ps => Tenant.carryOut ctr b rs (t.push b.die bin ps)
    | .flush bin => Tenant.carryOut ctr b rs (t.flush b.die bin)
    | .launch bytes stva =>
      let q := t.submit bytes b.ctx none
      if q.2.1 == 3 then none
      else
        let t := match stva with
          | none => q.1
          | some a => match q.1.objPage a with
            | .here => (q.1.deviceWrite [(a, leBytes 4 q.2.1 ++ leBytes 4 q.2.2)]).poolHit ctr none (span a 8)
            | _ => { q.1 with unmapped := q.1.unmapped + 1 }
        Tenant.carryOut ctr b rs t
    | _ => Tenant.carryOut ctr b rs t

/-- Records that a batch would push into a bin. -/
def Batch.pushes (b : Batch) (bin : Nat) : Nat :=
  (b.recs.map fun r => match r with | .push n rs => if n == bin then rs.length else 0 | _ => 0).foldl (· + ·) 0
/-- Do the pushes of batches of one core fit their rings (12 R263)? -/
def Tenant.roomFor (t : Tenant) (bs : List Batch) : Bool :=
  t.bins.all fun x =>
    let n := (bs.map fun b => b.pushes x.num).foldl (· + ·) 0
    n == 0 || bs.all fun b => decide ((t.ring b.die x.num).length + n ≤ x.cap)
/-- The atomics of a batch that read a poisoned sector; their team ends (25 R391). -/
def Batch.hurt (b : Batch) (t : Tenant) : Option VA :=
  b.recs.findSome? fun r => match r with
    | .atomMm _ ty xs va _ => if xs.any (fun x => !t.remote x.1 && (span x.1 (atomBytes ty)).any t.poisoned) then some va else none
    | _ => none

/-! ### COMPLETE -/

/-- The writes of some batches and their places in the completion order. -/
def State.performAll (s : State) (bs : List Batch) : State :=
  let n := s.ten.num
  let hurt := bs.filterMap fun b => (b.hurt s.ten).map fun va => (b.team, va)
  let s := (combineOps s.ctr 0 [] (bs.flatMap fun b => landed (s.ten.memOps s.ctr b))).foldl (fun s o => s.applyMem bs o) s
  let whole := bs.flatMap fun b => b.recs.flatMap fun r => match r with | .copy ws => [ws.flatMap fun w => span w.1 w.2.length] | _ => []
  let s := s.onTen fun t => whole.foldl Tenant.heal
    { t with
      done := t.done ++ bs.map fun b => { id := b.id, team := b.team, dom := b.dom }
      queued := t.queued.filter fun x => !bs.any fun b => b.id == x.id }
  hurt.foldl (fun s p => s.endAny n p.1 cHwerr p.2) s

/-- The completion of some batches together; none where a launch record meets QFULL. -/
def State.finish (s : State) (bs : List Batch) : Option State :=
  let s' := s.performAll bs
  (bs.foldl (fun t b => t.bind fun t => t.carryOut s.ctr b b.recs) (some s'.ten)).map fun t => { s' with ten := t }

/-- Batch `b`, first of its team and drained, completes, unless it has to wait: for room in a ring or among the launches, for the page
of a status object, or for peers, to whom it is sent first; it is sent once nothing else holds it, because no other batch completes
from then on (24 R379). -/
def State.complete (s : State) (b : Batch) : State :=
  let parts := s.ten.partsOf b.recs
  if !b.parts.isEmpty then s
  else if !(s.ten.statusPages b).isEmpty then s.onTen fun t => t.request (t.statusPages b)
  else if !parts.isEmpty && !b.sent then
    if s.ten.roomFor [b] && (s.finish [b]).isSome then
      { s with
        out := s.out ++ s.ten.remoteSends b.recs
        ten := { s.ten with queued := changeBy (·.id) b.id (fun b => { b with sent := true, parts := parts }) s.ten.queued } }
    else s
  else
    let bs := s.ten.group s.ctr b
    let bs := if s.ten.roomFor bs then bs else [b]
    if !s.ten.roomFor bs then s
    else match s.finish bs with
      | some s => s
      | none => (s.finish [b]).getD s

/-- COMPLETE: a team's batches in turn; none while another batch has been sent to peers and not completed (24 R379). -/
def execComplete (t b : Nat) (s : State) : Out :=
  .next (s.atTenant t fun s =>
    match findBy (·.id) b s.ten.queued with
    | none => s
    | some x =>
      if ((s.ten.queued.find? fun y => y.team == x.team).map (·.id)) != some b then s
      else if x.recs.any Rec.isDrain then s
      else if s.ten.queued.any fun y => y.id != b && y.sent then s
      else s.complete x)

end Sys2Proof.Machine
end

