-- ==== Sys2Proof/Machine/Cross.lean ====
section
/-!
DEFINITION. Cross-lane instructions (06 R141 to R149).
-/
namespace Sys2Proof.Machine

/-- A source lane of a cross-lane instruction; a lane that does not exist supplies 0 (R141). -/
def State.lane (s : State) (r k : Nat) : Word := if k < s.team.quadTop then s.vreg r k else 0

/-! ### Shuffles and broadcasts (R142, R143) -/

/-- The source lane of lane `k` in segments of `g` lanes: IDX, UP, DOWN, XOR (R142). -/
def shflLane (fn g k x : Nat) : Nat :=
  let base := k / g * g
  match fn with
  | 0 => base + x % g
  | 1 => if base + x ≤ k then k - x else k
  | 2 => if k + x < base + g then k + x else k
  | _ => base + ((k % g) ^^^ (x % g))

def execVshfl (o : XOps) (s : State) : Out :=
  laneOp (.vshfl o) o.d (o.a :: if o.fn == 0 then [o.b] else []) (fun s k =>
    let x := if o.fn == 0 then s.vreg o.b.toNat k else s.sval o.b
    s.lane o.a.toNat (shflLane o.fn.toNat (2 ^ o.lo8.toNat) k x.toNat)) s

def execVbcst (o : XOps) (s : State) : Out :=
  laneOp (.vbcst o) o.d [o.a] (fun s k =>
    let x := (s.sval o.b).toNat
    s.lane o.a.toNat (if o.fn == 0 then x else k / 32 * 32 + x % 32)) s

/-! ### Reductions and scans (R144 to R147) -/

/-- The identity of an operation (R144). -/
def redId (op : Nat) : Word :=
  match op with
  | 2 => 0x7F800000#32
  | 3 => 0xFF800000#32
  | 4 => 0x7FFFFFFF#32
  | 5 => 0x80000000#32
  | 6 => 0xFFFFFFFF#32
  | 8 => 0xFFFFFFFF#32
  | _ => 0

/-- `Combine`, the lower operand first; lane `i` and element `e` key an SR draw (R144, R145). -/
def combine (op : Nat) (c : RCtx) (i e : Nat) (x y : Word) : Word × Word :=
  match op with
  | 0 => plain (x + y)
  | 1 =>
    let r := fsum (rdnOf c) [f32 x, f32 y]
    (c.r32 i e r, invalidOf [f32 x, f32 y] r)
  | 2 => plain (minNum x y)
  | 3 => plain (maxNum x y)
  | 4 => plain (sminW x y)
  | 5 => plain (smaxW x y)
  | 6 => plain (uminW x y)
  | 7 => plain (umaxW x y)
  | 8 => plain (x &&& y)
  | 9 => plain (x ||| y)
  | 10 => plain (x ^^^ y)
  | _ => plain x

/-- A contributor: the lane that keys its draws, its value, its STATUS bits. -/
abbrev Contrib := Option (Nat × Word × Word)

/-- Two neighbours of the tree; a lone one is passed on (R145). -/
def join (op : Nat) (c : RCtx) (e : Nat) : Contrib → Contrib → Contrib
  | some x, some y => let r := combine op c x.1 e x.2.1 y.2.1
    some (x.1, r.1, x.2.2 ||| y.2.2 ||| r.2)
  | some x, none => some x
  | none, y => y

/-- One level: positions p and p + 2^k meet at p. -/
def joinLevel (op : Nat) (c : RCtx) (e : Nat) : List Contrib → List Contrib
  | x :: y :: r => join op c e x y :: joinLevel op c e r
  | l => l

/-- The tree over 32 positions, its levels numbered from `e` (R145). -/
def tree (op : Nat) (c : RCtx) (e : Nat) (xs : List Contrib) : Contrib :=
  ((List.range 5).foldl (fun l k => joinLevel op c (e + k) l) xs).headD none

/-- Before level `k` of the span level, the value at tree position p draws by i = 32p, wherever it was passed on from (R145). -/
def rekey (k : Nat) (l : List Contrib) : List Contrib := l.zipIdx.map fun q => q.1.map fun y => (32 * (q.2 * 2 ^ k), y.2)
/-- The tree over span results: levels 5 to 9, each draw keyed by the tree position. -/
def treeOfSpans (op : Nat) (c : RCtx) (xs : List Contrib) : Contrib :=
  ((List.range 5).foldl (fun l k => joinLevel op c (5 + k) (rekey k l)) xs).headD none

/-- The result of span `j` over the lanes of Active(). -/
def State.spanTree (s : State) (op : Nat) (c : RCtx) (r j : Nat) : Contrib :=
  let act := s.execv
  tree op c 0 ((List.range 32).map fun p =>
    if act.getLsbD (32 * j + p) && decide (32 * j + p < s.team.lanes) then some (32 * j + p, s.vreg r (32 * j + p), 0) else none)

/-- The span results combined; their draws are keyed by 32p. -/
def State.teamTree (s : State) (op : Nat) (c : RCtx) (r : Nat) : Contrib :=
  let spans := (List.range 32).map fun j => if j < s.team.spans then s.spanTree op c r j else none
  let top := treeOfSpans op c ((List.range 32).map fun j => (spans.getD j none).map fun x => (32 * j, x.2.1, 0))
  let bits := spans.foldl (fun acc x => match x with | some y => acc ||| y.2.2 | none => acc) 0
  top.map fun x => (x.1, x.2.1, x.2.2 ||| bits)

def execVred (o : XOps) (s : State) : Out :=
  issue (.vred o) .vector (vecs [o.a]) (fun s =>
    let op := o.fn.toNat
    (match s.teamTree op (s.rctx o.rm) o.a.toNat with
      | some x => (s.setS o.d.toNat x.2.1).flag x.2.2
      | none => (s.setS o.d.toNat (redId op)).flag stEmpty).drawn o.rm) s

def execVredsp (o : XOps) (s : State) : Out :=
  issue (.vredsp o) .vector (vecs [o.d, o.a]) (fun s =>
    let rs := (List.range s.team.spans).map fun j => s.spanTree o.fn.toNat (s.rctx o.rm) o.a.toNat j
    let s' := if s.active.isEmpty then s.flag stEmpty
      else s.perLane o.d fun k => match rs.getD (k / 32) none with
        | some x => (x.2.1, x.2.2)
        | none => plain 0
    s'.drawn o.rm) s

/-- The chain of a scan: the running value, whether it has started, the writes and the STATUS bits so far. -/
structure Chain where
  run : Word
  started : Bool
  out : List (Nat × Word)
  bits : Word

/-- One lane of R147. -/
def scanLane (op : Nat) (c : RCtx) (excl span : Bool) (act help : Mask) (val : Nat → Word) (st : Chain) (k : Nat) : Chain :=
  let st := if span && k % 32 == 0 then { st with run := redId op, started := false } else st
  if act.getLsbD k then
    let r := if st.started then combine op c k 0 st.run (val k) else plain (val k)
    { run := r.1, started := true, out := st.out ++ [(k, if excl then st.run else r.1)], bits := st.bits ||| r.2 }
  else if help.getLsbD k then { st with out := st.out ++ [(k, st.run)] }
  else st

def execVscan (o : XOps) (s : State) : Out :=
  issue (.vscan o) .vector (vecs [o.d, o.a]) (fun s =>
    let op := o.fn.toNat % 16
    let st := (List.range s.team.quadTop).foldl
      (scanLane op (s.rctx o.rm) (o.fn.getLsbD 4) (o.fn.getLsbD 5) (maskOf s.active) (maskOf s.helpers) (s.vreg o.a.toNat))
      { run := redId op, started := false, out := [], bits := 0 }
    ((s.setLanes o.d.toNat st.out).flag (if s.active.isEmpty then stEmpty else st.bits)).drawn o.rm) s

/-! ### The Hadamard rotation (R148) -/

/-- One stage of the butterfly over 32 values. A sum of zeros follows 04 R66: (−0) + (−0) and (−0) − (+0) are −0, which R148's "exact zero
sums" leaves open (DESIGN CHOICE, log 80). -/
def hadStage (t : List Word) (e : Nat) : List Word :=
  (List.range 32).map fun k =>
    if k.testBit e then rne32 (fsum false [f32 (t.getD (k - 2 ^ e) 0), (f32 (t.getD k 0)).negate])
    else rne32 (fsum false [f32 (t.getD k 0), f32 (t.getD (k + 2 ^ e) 0)])

/-- The rotation of one span, and its scale. -/
def hadSpan (scale : Option Word) (xs : List Word) : List Word :=
  let t := (List.range 5).foldl hadStage xs
  match scale with
  | some g => t.map fun x => rne32 ((f32 x).mul (f32 g))
  | none => t

def execHad32 (o : XOps) (s : State) : Out :=
  issue (.had32 o) .vector (vecs [o.d, o.a]) (fun s =>
    let scale := if o.fn == 1 then some (s.sval o.b) else none
    let ins := (List.range s.team.spans).map fun j => (List.range 32).map fun p => s.lane o.a.toNat (32 * j + p)
    let outs := ins.map fun xs => if s.passes == 0 then [] else hadSpan scale xs
    let nanIn (j : Nat) : Bool := (ins.getD j []).any (fun x => (f32 x).isNan) || (scale.any fun g => (f32 g).isNan)
    s.perLane o.d fun k =>
      let r := (outs.getD (k / 32) []).getD (k % 32) 0
      (r, if (f32 r).isNan && !nanIn (k / 32) then stInvalid else 0)) s

/-! ### Compaction (R149) -/

/-- The writing passes are passes besides those of R32. -/
def execVpackl (o : XOps) (s : State) : Out :=
  issue (.vpackl o) .vector (vecs [o.d, o.a]) (fun s =>
    let m := s.mval o.lo8
    let src := s.active.filter fun k => m.getLsbD k
    let xs := (List.range src.length).map fun k => (k, s.vreg o.a.toNat (src.getD k 0))
    ((s.count 0 ((src.length + 31) / 32)).setLanes o.d.toNat xs).setS o.c.toNat (word src.length)) s

end Sys2Proof.Machine
end

