-- ==== Sys2Proof/Machine/MaskOps.lean ====
section
/-!
DEFINITION. The mask instructions (05 R104 to R110) and `QHELP` (R114).
-/
namespace Sys2Proof.Machine

/-- A mask instruction whose only effect is to write `d`; the write is ANDed with LIVE (R104). -/
def maskOp (i : Instr) (d : Byte) (f : State → Mask) (s : State) : Out :=
  issue i .scalar noCheck (fun s => s.setM d.toNat (f s)) s

def execMand (o : ROps) (s : State) : Out := maskOp (.mand o) o.d (fun s => s.mval o.a &&& s.mval o.b) s
def execMor (o : ROps) (s : State) : Out := maskOp (.mor o) o.d (fun s => s.mval o.a ||| s.mval o.b) s
def execMxor (o : ROps) (s : State) : Out := maskOp (.mxor o) o.d (fun s => s.mval o.a ^^^ s.mval o.b) s
def execMandn (o : ROps) (s : State) : Out := maskOp (.mandn o) o.d (fun s => s.mval o.a &&& ~~~s.mval o.b) s
def execMnot (o : ROps) (s : State) : Out := maskOp (.mnot o) o.d (fun s => ~~~s.mval o.a) s
def execMmov (o : ROps) (s : State) : Out := maskOp (.mmov o) o.d (fun s => s.mval o.a) s

/-- The mask with every span word equal to `w`. -/
def everyWord (w : Word) : Mask := (List.range 32).foldl (fun m j => setSpanWord m j w) 0
def execMseti (o : IOps) (s : State) : Out := maskOp (.mseti o) o.d (fun _ => everyWord o.imm) s

/-- `EXENTER` (R107): md := EXEC, EXEC := EXEC ∧ ma, with ma read before md is written. -/
def execExenter (o : ROps) (s : State) : Out :=
  issue (.exenter o) .scalar noCheck (fun s =>
    let e := s.execv
    let m := s.mval o.a
    (s.setM o.d.toNat e).setM 16 (e &&& m)) s
def execExset (o : ROps) (s : State) : Out := maskOp (.exset o) 16#8 (fun s => s.mval o.a) s

/-- `MCNT`, `MFIRST` (R108) look at the lanes of ma ∧ LIVE only. -/
def execMcnt (o : ROps) (s : State) : Out :=
  issue (.mcnt o) .scalar noCheck (fun s => s.setS o.d.toNat (word (lanesOf (s.mval o.a) s.team.lanes).length)) s
def execMfirst (o : ROps) (s : State) : Out :=
  issue (.mfirst o) .scalar noCheck (fun s =>
    s.setS o.d.toNat (match lanesOf (s.mval o.a) s.team.lanes with | i :: _ => word i | [] => 0xFFFFFFFF#32)) s

/-- `MGETW`, `MPUTW` (R109). MPUTW reads no mask: the other span words stay as stored. -/
def execMgetw (o : ROps) (s : State) : Out :=
  issue (.mgetw o) .scalar noCheck (fun s =>
    let j := (s.sval o.b).toNat
    s.setS o.d.toNat (if j < 32 then spanWord (s.mval o.a) j else 0)) s
def execMputw (o : ROps) (s : State) : Out :=
  issue (.mputw o) .scalar noCheck (fun s =>
    let j := (s.sval o.a).toNat
    if j < s.team.spans then s.setM o.d.toNat (setSpanWord (s.team.mask o.d.toNat) j (s.sval o.b)) else s) s

/-- The mask `old` with the bits of the given lanes replaced. -/
def putLanes (old : Mask) (xs : List (Nat × Bool)) : Mask :=
  xs.foldl (fun m p => if p.2 then m ||| (BitVec.ofNat 1024 1 <<< p.1) else m &&& ~~~(BitVec.ofNat 1024 1 <<< p.1)) old

/-- `VTOM` writes the bits of Active() lanes only; the others stay as stored (R110). -/
def execVtom (o : ROps) (s : State) : Out :=
  issue (.vtom o) .vector (vecs [o.a]) (fun s =>
    s.setM o.d.toNat (putLanes (s.team.mask o.d.toNat) (s.active.map fun i => (i, s.vreg o.a.toNat i != 0)))) s
def execMtov (o : ROps) (s : State) : Out :=
  issue (.mtov o) .vector (vecs [o.d]) (fun s =>
    s.setLanes o.d.toNat (s.acting.map fun i => (i, if (s.mval o.a).getLsbD i then 1 else 0))) s

/-- Every live lane of a quad that has a lane in the mask (R114). -/
def quadsOf (m : Mask) (n : Nat) : Mask :=
  maskOf ((List.range n).filter fun i => (List.range 4).any fun k => m.getLsbD (i / 4 * 4 + k))
def execQhelp (o : ROps) (s : State) : Out := maskOp (.qhelp o) o.d (fun s => quadsOf (s.mval o.a) s.team.lanes) s

end Sys2Proof.Machine
end

