-- ==== Sys2Proof/Machine/Sync.lean ====
section
/-!
DEFINITION. The world sync (17 R308 to R311): the cut, the records in key order, compaction, publication, the report.
-/
namespace Sys2Proof.Machine

/-! ### Records in key order -/

def keyLe : List Nat → List Nat → Bool
  | [], _ => true
  | _ :: _, [] => false
  | a :: as, b :: bs => decide (a < b) || (a == b && keyLe as bs)
def addKey (r : QRec) : List QRec → List QRec
  | [] => [r]
  | x :: xs => if keyLe x.key r.key then x :: addKey r xs else r :: x :: xs
def sortRecs (rs : List QRec) : List QRec := rs.foldl (fun l r => addKey r l) []

/-- What the application of records has done so far: W's directory; the values that ADDs have set, as (column, index, value); the rows
that columns gained or lost, and those whose value was replaced, as (column, index); changed entries; the counts of R311. -/
structure SyncRun where
  dir : Sparse DirEnt
  vals : List (Nat × Nat × List Word) := []
  moved : List (Nat × Nat) := []
  replaced : List (Nat × Nat) := []
  changed : List Nat := []
  applied : Nat := 0
  absent : Nat := 0
  stale : List QRec := []

def typesOf (pres : BitVec 256) : List Nat := (List.range 256).filter fun k => pres.getLsbD k
def bit256 (k : Nat) : BitVec 256 := BitVec.ofNat 256 (2 ^ k)

/-- An entry changed; its STICK takes the tick's number. -/
def SyncRun.change (a : SyncRun) (num i : Nat) (e : DirEnt) : SyncRun :=
  { a with dir := put {} i { e with stick := num } a.dir, changed := addNew i a.changed, applied := a.applied + 1 }
/-- An ADD of a value for entity `i`; it changes the entry only where the component is new. -/
def SyncRun.add (a : SyncRun) (num i : Nat) (e : DirEnt) (r : QRec) : SyncRun :=
  let a := { a with vals := (r.ty, i, r.val) :: a.vals }
  if e.pres.getLsbD r.ty then { a with replaced := a.replaced ++ [(r.ty, i)], applied := a.applied + 1 }
  else { a.change num i { e with pres := e.pres ||| bit256 r.ty } with moved := a.moved ++ [(r.ty, i)] }

/-- One record (the table of R308). -/
def SyncRun.apply (num cap : Nat) (a : SyncRun) (r : QRec) : SyncRun :=
  let i := handleIndex r.handle
  let e := look {} i a.dir
  let known := decide (i < cap) && handleGen r.handle == e.gen
  match r.op with
  | .new => if known && e.st == 1 then a.change num i { e with st := 2, pres := 0 } else { a with stale := a.stale ++ [r] }
  | .del =>
    if known && e.st == 2 then
      { a.change num i { e with st := 0, pres := 0 } with moved := a.moved ++ (typesOf e.pres).map fun k => (k, i) }
    else { a with stale := a.stale ++ [r] }
  | .add =>
    if known && e.st == 2 then a.add num i e r else { a with stale := a.stale ++ [r] }
  | .rem =>
    if known && e.st == 2 then
      if e.pres.getLsbD r.ty then
        { a.change num i { e with pres := e.pres &&& ~~~(bit256 r.ty) } with moved := a.moved ++ [(r.ty, i)] }
      else { a with absent := a.absent + 1 }
    else { a with stale := a.stale ++ [r] }

/-! ### Rows -/

/-- A byte that the device reads on its own account; free from a poisoned sector (25 R391). -/
def Tenant.rawByte (t : Tenant) (ctr a : Nat) : Byte := if t.poisoned a then BitVec.ofNat 8 (Config.freeIx ctr 2 a) else t.main.get a
def Tenant.rawBytes (t : Tenant) (ctr a n : Nat) : List Byte := (span a n).map (t.rawByte ctr)

/-- The bytes of an element: what the last ADD set, or what W holds. -/
def Tenant.element (t : Tenant) (ctr : Nat) (w : World) (vals : List (Nat × Nat × List Word)) (k i : Nat) : List Byte :=
  match vals.find? fun v => v.1 == k && v.2.1 == i with
  | some v => v.2.2.flatMap leWord
  | none =>
    let e := 4 * look 0 k w.types
    match w.w.locate k i with
    | some (c, r) => t.rawBytes ctr (((w.w.col k).getD c { va := 0, rows := 0, first := 0, last := 0 }).va + 256 + e * r) e
    | none => []

/-- The chunk that an index falls into or directly follows. -/
def chunkOf (cs : List ChunkDesc) (i : Nat) : Nat := (cs.filter fun c => decide (c.first ≤ i)).length - 1

/-- The bytes of a chunk with these rows: keys with their filler, then the elements. What the pool held stays behind the last row (R300;
DESIGN CHOICE, log 90). -/
def chunkImage (is : List Nat) (es : List (List Byte)) : List Byte :=
  (List.range 64).flatMap (fun r => leBytes 4 (is.getD r 0xFFFFFFFF)) ++ es.flatMap id

/-- New chunks of 64 rows each: the world with their places taken, their descriptors and their writes; none without room. -/
def packChunks (t : Tenant) (ctr : Nat) (old : World) (vals : List (Nat × Nat × List Word)) (k : Nat) :
    List (List Nat) → Nat → List ChunkDesc → World → Option (World × List ChunkDesc × List (Nat × List Byte))
  | [], _, _, w => some (w, [], [])
  | is :: rest, n, before, w =>
    match w.alloc (before.map fun c => (c.va, chunkBytes (look 0 k w.types))) ctr (n * 256 + k) (chunkBytes (look 0 k w.types)) with
    | none => none
    | some va =>
      let c : ChunkDesc := { va := va, rows := is.length, first := is.headD 0, last := is.getLastD 0 }
      (packChunks t ctr old vals k rest (n + 1) (before ++ [c]) w).map fun r =>
        (r.1, c :: r.2.1, (va, chunkImage is (is.map (t.element ctr old vals k))) :: r.2.2)

/-- Column `k` rebuilt from its first changed chunk on (R309). -/
def compact (t : Tenant) (ctr : Nat) (old : World) (a : SyncRun) (k : Nat) (w : World) : Option (World × List (Nat × List Byte)) :=
  let cs := old.w.col k
  let k0 := ((a.moved.filter fun m => m.1 == k).map fun m => chunkOf cs m.2).foldl min cs.length
  let keep := cs.take k0
  let rows := (a.dir.filter fun p => p.2.st == 2 && p.2.pres.getLsbD k).map (·.1)
  let rest := rows.filter fun i => match keep.getLast? with | some c => decide (c.last < i) | none => true
  let news := packChunks t ctr old a.vals k (chunks rest.length 64 rest) 512 [] w
  news.map fun r => ({ r.1 with w := { r.1.w with cols := put [] k ((w.w.col k).take k0 ++ r.2.1) r.1.w.cols } }, r.2.2)

/-- A replaced value whose chunk is not rebuilt: the chunk is made W's own and the element written. -/
def replaceRow (t : Tenant) (ctr : Nat) (a : SyncRun) (k i : Nat) (w : World) : Option (World × List (Nat × List Byte)) :=
  match w.w.locate k i with
  | none => some (w, [])
  | some (c, r) =>
    (w.cow ctr k c).map fun q =>
      let e := 4 * look 0 k w.types
      let va := ((q.1.w.col k).getD c { va := 0, rows := 0, first := 0, last := 0 }).va
      (q.1, (q.2.map fun x => (x.2.1, t.rawBytes ctr x.1 x.2.2)) ++ [(va + 256 + e * r, t.element ctr w a.vals k i)])

/-- Steps in turn, each with its writes; none when one finds no room. -/
def inTurn {α : Type} (f : α → World → Option (World × List (Nat × List Byte))) : List α → World → Option (World × List (Nat × List Byte))
  | [], w => some (w, [])
  | x :: xs, w =>
    match f x w with
    | none => none
    | some r => (inTurn f xs r.1).map fun q => (q.1, r.2 ++ q.2)

/-- Space check, application and compaction: the world before publication and its writes; none when the pool cannot supply them. -/
def World.rebuild (w : World) (t : Tenant) (ctr : Nat) (a : SyncRun) : Option (World × List (Nat × List Byte)) :=
  let cols := distinct (a.moved.map (·.1))
  let stays (m : Nat × Nat) : Bool :=
    (look {} m.2 a.dir).pres.getLsbD m.1 &&
      (!cols.contains m.1 ||
        decide (chunkOf (w.w.col m.1) m.2 < ((a.moved.filter fun x => x.1 == m.1).map fun x => chunkOf (w.w.col m.1) x.2).foldl min (w.w.col m.1).length))
  match inTurn (fun (m : Nat × Nat) w => replaceRow t ctr a m.1 m.2 w) (a.replaced.filter stays) w with
  | none => none
  | some r =>
    match inTurn (fun k x => compact t ctr w a k x) cols r.1 with
    | none => none
    | some q =>
      match inTurn (fun k (x : World) => (x.ownDir ctr k).map fun y => (y.1, [])) (distinct (a.changed.map (· / 64))) q.1 with
      | none => none
      | some d =>
        let w' := { d.1 with w := { d.1.w with dir := a.dir } }
        some (w', r.2 ++ q.2 ++ w'.dirWrites (a.changed.map (· / 64)))

/-! ### Report and publication -/

def QOp.code : QOp → Nat
  | .new => 0
  | .del => 1
  | .add => 2
  | .rem => 3

/-- The report of R311. -/
def syncReport (tick applied absent dropped : Nat) (stale : List QRec) (nospace : Bool) : List Byte :=
  leBytes 8 tick ++ leBytes 4 applied ++ leBytes 4 stale.length ++ leBytes 4 absent ++ leBytes 4 dropped ++
    leBytes 4 (if nospace then 1 else 0) ++ leBytes 36 0 ++
    (List.range 64).flatMap fun m => match stale[m]? with
      | some r => leBytes 8 r.handle.toNat ++
          leBytes 4 ((if r.op == .add || r.op == .rem then 256 * r.ty else 0) + r.op.code) ++ leBytes 4 0
      | none => leBytes 16 0

/-- W becomes P, the former P becomes D, a new W opens (R302). -/
def World.publish (w : World) : World := { w with d := some w.p, p := w.w, w := { w.w with num := w.w.num + 1 }, q := [], dropped := 0 }

/-- The records of the cut applied in key order. -/
def World.applyAll (w : World) : SyncRun := (sortRecs w.q).foldl (SyncRun.apply w.w.num w.cap) { dir := w.w.dir }

/-- A sync's outcome: the world after it and its writes. -/
def World.sync (w : World) (t : Tenant) (ctr : Nat) : World × List (Nat × List Byte) :=
  let a := w.applyAll
  match w.rebuild t ctr a with
  | none => ({ w with dropped := 0 }, [(w.report, syncReport w.p.num 0 0 w.dropped [] true)])
  | some r => (r.1.publish, r.2 ++ [(w.report, syncReport w.w.num a.applied a.absent w.dropped a.stale false)])

/-- Pages that the sync's reads and writes wait for. -/
def Tenant.syncPages (t : Tenant) (as : List Nat) : List Nat :=
  distinct (as.filterMap fun a => match t.objPage a with | .away va => some va | _ => none)
def Tenant.usable (t : Tenant) (a : Nat) : Bool := t.objPage a == .here

/-- WORLD_SYNC: a released launch of kind 3, once no tick of its world drains. Bytes in unmapped pages are dropped. -/
def execWorldSync (t l : Nat) (s : State) : Out :=
  .next (s.atTenant t fun s => s.onTen fun ten =>
    match ten.launch? l with
    | none => ten
    | some x =>
      if x.rc.kind != 3 || x.st != .released then ten
      else match ten.world? x.rc.named with
        | none => ten
        | some w =>
          if w.d.isSome then ten
          else
            let r := w.sync ten s.ctr
            let ends (b : Nat × List Byte) : List Nat := [b.1, b.1 + (b.2.length - 1)]
            let a := w.applyAll
            let reads := (distinct ((a.moved ++ a.replaced).map (·.1))).flatMap fun k =>
              (w.w.col k).flatMap fun c => [c.va, c.va + (chunkBytes (look 0 k w.types) - 1)]
            let pages := ten.syncPages (reads ++ r.2.flatMap ends ++ if x.rc.done == 0 then [] else [x.rc.done])
            if !pages.isEmpty then ten.request pages
            else ((ten.setWorld r.1).deviceWrite (r.2.filter fun b => (ends b).all ten.usable)).retire s.ctr x)

end Sys2Proof.Machine
end

