-- ==== Sys2Proof/Machine/System.lean ====
section
/-!
DEFINITION. Boundaries, service calls, traps and control registers (09 R206 to R213).
-/
namespace Sys2Proof.Machine

/-! ### Boundaries -/

/-- YIELD closes the phase and opens the next one with a deadline of imm × 64 words (R206). -/
def execYield (o : IOps) (s : State) : Out :=
  issueT (.yield_ o) (fun s => boundaryOk s o.d.toNat) (fun _ s => s.boundary o.d.toNat o.imm.toNat) s

/-- BAR closes the phase; the team has arrived and waits (R207). -/
def execBar (o : ROps) (s : State) : Out :=
  issueT (.bar o) (fun s => boundaryOk s o.d.toNat)
    (fun _ s => (s.closePhase o.d.toNat).onTeam fun t => { t with wait := .bar (if s.team.batch.isEmpty then 0 else s.ten.nextBatch) }) s

def vecBit (o : XOps) : Bool := o.mod.getLsbD 0

/-- SYSC: a boundary of scope SYSTEM, then the request waits to be delivered (R208). -/
def execSysc (o : XOps) (s : State) : Out :=
  issueT (.sysc o)
    (fun s => firstOf [budget s (if vecBit o then [o.c.toNat] else []) [] [], boundaryOk s 4])
    (fun _ s =>
      let vec := if vecBit o then some (maskOf s.active, s.active.map fun k => s.vreg o.c.toNat k) else none
      (s.closePhase 4).onTeam fun t =>
        { t with wait := .sysc { fn := o.fn.toNat, a0 := s.sval o.a, a1 := s.sval o.b, vec := vec, dst := o.d.toNat, reply := none } }) s

/-! ### Traps -/

/-- TRAP at clause end; the return point is the next clause (R209). -/
def execTrap (o : ROps) (s : State) : Out :=
  issueT (.trap o) noCheck (fun c s => s.takeTrap cTrap o.d.toNat noLane 0 c.after c.va none) s

/-- BRK when it issues; the return point is the word after it (R209). As the last word of a clause with S = 1 it traps before the park, which
then does not come (DESIGN CHOICE, log 73). -/
def execBrk (o : ROps) (s : State) : Out :=
  match s.team.cl with
  | none => .refused .noTeam
  | some c =>
    if s.team.dl < words (.brk o) then .next (s.endFault cDeadline 0 c.va 0)
    else if (Instr.brk o).wf then .next (s.takeTrap cBrk o.d.toNat noLane 0 (c.va + 4#56) c.va (some (c.hdr, c.n)))
    else .next (s.stop c (.trap cIllegal subReserved noLane 0))

/-- ERET: ILLEGAL outside a handler; the return, a boundary of scope SYSTEM, and the next phase at EPC (R210, 21 R338). -/
def execEret (o : ROps) (s : State) : Out :=
  issueT (.eret o) (fun s => if s.team.priv then boundaryOk s 4 else trapTeam cIllegal subReserved)
    (fun _ s => ((s.closePhase 4).onTeam Team.returnTrap).openPhase 0) s

/-! ### Holds and control registers -/

/-- SLEEP holds the team unless its operand is 0; the hold ends at its expiry or, with EVWAKE, when the event queue holds a record (R211). -/
def execSleep (o : ROps) (s : State) : Out :=
  issue (.sleep o) .scalar noCheck
    (fun s => if s.sval o.a == 0 then s else s.onTeam fun t => { t with wait := .sleep (o.d.getLsbD 0) }) s

/-- No field holds the reserved value 3, and bits [31:8] are zero. -/
def ovtOk (x : Word) : Bool := decide (x.toNat < 256) && (List.range 4).all fun k => x.toNat / 4 ^ k % 4 != 3

/-- LDOVT loads the overflow table of the context (R212, 04 R72), which its other teams see at once (DESIGN CHOICE, log 74). -/
def execLdovt (o : ROps) (s : State) : Out :=
  issue (.ldovt o) .scalar
    (fun s => if ovtOk (s.sval o.a) then needPriv s else trapTeam cIllegal subReserved)
    (fun s => s.onTen fun t => t.onCtx s.blk.ctx fun c => { c with ovt := (s.sval o.a).setWidth 8 }) s

/-- CCFG: the core's number within its pane and one bit per working quarter (R213). -/
def Core.ccfg (c : Core) : Word := word ((c.num - 12 * c.pane) * 256 + (2 ^ c.quarters - 1))

/-- A control register. -/
def Core.control (c : Core) (k : Nat) : Word :=
  match k with
  | 0 => c.ccfg
  | 1 => word c.strCnt
  | 2 => c.strHi
  | 3 => c.eccCor
  | 4 => c.pmsel
  | _ => c.pmcnt

def execPrd (o : ROps) (s : State) : Out :=
  issue (.prd o) .scalar
    (fun s => if (s.sval o.a).toNat < 6 then needPriv s else trapTeam cIllegal subReserved)
    (fun s =>
      let k := (s.sval o.a).toNat
      let x := s.core.control k
      State.setS (if k == 1 then { s with core := { s.core with strHi := word (s.core.strCnt / 2 ^ 32) } } else s) o.d.toNat x) s

/-- The registers that PWR may write, and the values of PMSEL. -/
def ctlWritable (k : Nat) (x : Word) : Bool := k == 3 || (k == 4 && decide (x.toNat ≤ 5)) || k == 5

def Core.setControl (c : Core) (k : Nat) (x : Word) : Core :=
  match k with
  | 3 => { c with eccCor := x }
  | 4 => { c with pmsel := x }
  | 5 => { c with pmcnt := x }
  | _ => c

def execPwr (o : ROps) (s : State) : Out :=
  issue (.pwr o) .scalar
    (fun s => if ctlWritable (s.sval o.a).toNat (s.sval o.b) then needPriv s else trapTeam cIllegal subReserved)
    (fun s => { s with core := s.core.setControl (s.sval o.a).toNat (s.sval o.b) }) s

end Sys2Proof.Machine
end

