-- ==== Sys2Proof/Machine/Dispatch.lean ====
section
/-!
DEFINITION. One arm per instruction or step of the opcode table: each calls its meaning.
-/
namespace Sys2Proof.Machine

def exec (i : Instr) (s : State) : Host.Outcome State Fault Refusal :=
  match i with
  | .nop o => Sys2Proof.Machine.execNop o s
  | .smov o => Sys2Proof.Machine.execSmov o s
  | .smovi o => Sys2Proof.Machine.execSmovi o s
  | .sadd o => Sys2Proof.Machine.execSadd o s
  | .ssub o => Sys2Proof.Machine.execSsub o s
  | .smul o => Sys2Proof.Machine.execSmul o s
  | .smulh o => Sys2Proof.Machine.execSmulh o s
  | .smulhu o => Sys2Proof.Machine.execSmulhu o s
  | .sand o => Sys2Proof.Machine.execSand o s
  | .sor o => Sys2Proof.Machine.execSor o s
  | .sxor o => Sys2Proof.Machine.execSxor o s
  | .sshl o => Sys2Proof.Machine.execSshl o s
  | .sshr o => Sys2Proof.Machine.execSshr o s
  | .ssra o => Sys2Proof.Machine.execSsra o s
  | .scmp o => Sys2Proof.Machine.execScmp o s
  | .ssel o => Sys2Proof.Machine.execSsel o s
  | .saddi o => Sys2Proof.Machine.execSaddi o s
  | .sldk o => Sys2Proof.Machine.execSldk o s
  | .sminS o => Sys2Proof.Machine.execSminS o s
  | .sminU o => Sys2Proof.Machine.execSminU o s
  | .smaxS o => Sys2Proof.Machine.execSmaxS o s
  | .smaxU o => Sys2Proof.Machine.execSmaxU o s
  | .sbit o => Sys2Proof.Machine.execSbit o s
  | .srdsr o => Sys2Proof.Machine.execSrdsr o s
  | .swrsr o => Sys2Proof.Machine.execSwrsr o s
  | .brCond o => Sys2Proof.Machine.execBrCond o s
  | .brz o => Sys2Proof.Machine.execBrz o s
  | .brnz o => Sys2Proof.Machine.execBrnz o s
  | .call o => Sys2Proof.Machine.execCall o s
  | .callv o => Sys2Proof.Machine.execCallv o s
  | .calls o => Sys2Proof.Machine.execCalls o s
  | .ret o => Sys2Proof.Machine.execRet o s
  | .jmps o => Sys2Proof.Machine.execJmps o s
  | .endt o => Sys2Proof.Machine.execEndt o s
  | .waitc o => Sys2Proof.Machine.execWaitc o s
  | .mand o => Sys2Proof.Machine.execMand o s
  | .mor o => Sys2Proof.Machine.execMor o s
  | .mxor o => Sys2Proof.Machine.execMxor o s
  | .mandn o => Sys2Proof.Machine.execMandn o s
  | .mnot o => Sys2Proof.Machine.execMnot o s
  | .mmov o => Sys2Proof.Machine.execMmov o s
  | .mseti o => Sys2Proof.Machine.execMseti o s
  | .exenter o => Sys2Proof.Machine.execExenter o s
  | .exset o => Sys2Proof.Machine.execExset o s
  | .mcnt o => Sys2Proof.Machine.execMcnt o s
  | .mfirst o => Sys2Proof.Machine.execMfirst o s
  | .mgetw o => Sys2Proof.Machine.execMgetw o s
  | .mputw o => Sys2Proof.Machine.execMputw o s
  | .vtom o => Sys2Proof.Machine.execVtom o s
  | .mtov o => Sys2Proof.Machine.execMtov o s
  | .qswph o => Sys2Proof.Machine.execQswph o s
  | .qswpv o => Sys2Proof.Machine.execQswpv o s
  | .qswpd o => Sys2Proof.Machine.execQswpd o s
  | .qbcst o => Sys2Proof.Machine.execQbcst o s
  | .qddx o => Sys2Proof.Machine.execQddx o s
  | .qddy o => Sys2Proof.Machine.execQddy o s
  | .qhelp o => Sys2Proof.Machine.execQhelp o s
  | .vfadd o => Sys2Proof.Machine.execVfadd o s
  | .vfsub o => Sys2Proof.Machine.execVfsub o s
  | .vfmul o => Sys2Proof.Machine.execVfmul o s
  | .vfma o => Sys2Proof.Machine.execVfma o s
  | .vfmin o => Sys2Proof.Machine.execVfmin o s
  | .vfmax o => Sys2Proof.Machine.execVfmax o s
  | .vfdiv o => Sys2Proof.Machine.execVfdiv o s
  | .vfsqrt o => Sys2Proof.Machine.execVfsqrt o s
  | .vfrcp o => Sys2Proof.Machine.execVfrcp o s
  | .vfrsq o => Sys2Proof.Machine.execVfrsq o s
  | .vfexp2 o => Sys2Proof.Machine.execVfexp2 o s
  | .vflog2 o => Sys2Proof.Machine.execVflog2 o s
  | .vfsinpi o => Sys2Proof.Machine.execVfsinpi o s
  | .vfcospi o => Sys2Proof.Machine.execVfcospi o s
  | .vfcmp o => Sys2Proof.Machine.execVfcmp o s
  | .vfclass o => Sys2Proof.Machine.execVfclass o s
  | .vfrnd o => Sys2Proof.Machine.execVfrnd o s
  | .vsel o => Sys2Proof.Machine.execVsel o s
  | .vfldexp o => Sys2Proof.Machine.execVfldexp o s
  | .vfadds o => Sys2Proof.Machine.execVfadds o s
  | .vfmuls o => Sys2Proof.Machine.execVfmuls o s
  | .vfmas o => Sys2Proof.Machine.execVfmas o s
  | .vhadd o => Sys2Proof.Machine.execVhadd o s
  | .vhmul o => Sys2Proof.Machine.execVhmul o s
  | .vhfma o => Sys2Proof.Machine.execVhfma o s
  | .vhdot2 o => Sys2Proof.Machine.execVhdot2 o s
  | .vfdot4 o => Sys2Proof.Machine.execVfdot4 o s
  | .viadd o => Sys2Proof.Machine.execViadd o s
  | .visub o => Sys2Proof.Machine.execVisub o s
  | .vimul o => Sys2Proof.Machine.execVimul o s
  | .vimulh o => Sys2Proof.Machine.execVimulh o s
  | .vimad o => Sys2Proof.Machine.execVimad o s
  | .vimin o => Sys2Proof.Machine.execVimin o s
  | .vimax o => Sys2Proof.Machine.execVimax o s
  | .vand o => Sys2Proof.Machine.execVand o s
  | .vor o => Sys2Proof.Machine.execVor o s
  | .vxor o => Sys2Proof.Machine.execVxor o s
  | .vshl o => Sys2Proof.Machine.execVshl o s
  | .vshr o => Sys2Proof.Machine.execVshr o s
  | .vsra o => Sys2Proof.Machine.execVsra o s
  | .vicmp o => Sys2Proof.Machine.execVicmp o s
  | .vbit o => Sys2Proof.Machine.execVbit o s
  | .vbfe o => Sys2Proof.Machine.execVbfe o s
  | .vbfi o => Sys2Proof.Machine.execVbfi o s
  | .viadd64 o => Sys2Proof.Machine.execViadd64 o s
  | .vidot4 o => Sys2Proof.Machine.execVidot4 o s
  | .vidot8 o => Sys2Proof.Machine.execVidot8 o s
  | .viadds o => Sys2Proof.Machine.execViadds o s
  | .vmov o => Sys2Proof.Machine.execVmov o s
  | .vmovs o => Sys2Proof.Machine.execVmovs o s
  | .vmovi o => Sys2Proof.Machine.execVmovi o s
  | .vlane o => Sys2Proof.Machine.execVlane o s
  | .viaddi o => Sys2Proof.Machine.execViaddi o s
  | .vcvt o => Sys2Proof.Machine.execVcvt o s
  | .vcvtn o => Sys2Proof.Machine.execVcvtn o s
  | .vcvtw o => Sys2Proof.Machine.execVcvtw o s
  | .vpk16 o => Sys2Proof.Machine.execVpk16 o s
  | .vblksc o => Sys2Proof.Machine.execVblksc o s
  | .vshfl o => Sys2Proof.Machine.execVshfl o s
  | .vbcst o => Sys2Proof.Machine.execVbcst o s
  | .vred o => Sys2Proof.Machine.execVred o s
  | .vredsp o => Sys2Proof.Machine.execVredsp o s
  | .vscan o => Sys2Proof.Machine.execVscan o s
  | .had32 o => Sys2Proof.Machine.execHad32 o s
  | .vpackl o => Sys2Proof.Machine.execVpackl o s
  | .ldl o => Sys2Proof.Machine.execLdl o s
  | .stl o => Sys2Proof.Machine.execStl o s
  | .ldd o => Sys2Proof.Machine.execLdd o s
  | .std o => Sys2Proof.Machine.execStd o s
  | .atl o => Sys2Proof.Machine.execAtl o s
  | .atd o => Sys2Proof.Machine.execAtd o s
  | .atdR o => Sys2Proof.Machine.execAtdR o s
  | .spill o => Sys2Proof.Machine.execSpill o s
  | .fill o => Sys2Proof.Machine.execFill o s
  | .ldh o => Sys2Proof.Machine.execLdh o s
  | .sldl o => Sys2Proof.Machine.execSldl o s
  | .sstl o => Sys2Proof.Machine.execSstl o s
  | .cpyin o => Sys2Proof.Machine.execCpyin o s
  | .cpyout o => Sys2Proof.Machine.execCpyout o s
  | .cpyoutH o => Sys2Proof.Machine.execCpyoutH o s
  | .tcpyin o => Sys2Proof.Machine.execTcpyin o s
  | .tcpyout o => Sys2Proof.Machine.execTcpyout o s
  | .hopen o => Sys2Proof.Machine.execHopen o s
  | .hseal o => Sys2Proof.Machine.execHseal o s
  | .hfree o => Sys2Proof.Machine.execHfree o s
  | .hwaitFull o => Sys2Proof.Machine.execHwaitFull o s
  | .hwaitIdle o => Sys2Proof.Machine.execHwaitIdle o s
  | .hstat o => Sys2Proof.Machine.execHstat o s
  | .gatom o => Sys2Proof.Machine.execGatom o s
  | .gatomr o => Sys2Proof.Machine.execGatomr o s
  | .evpop o => Sys2Proof.Machine.execEvpop o s
  | .mldb o => Sys2Proof.Machine.execMldb o s
  | .mma o => Sys2Proof.Machine.execMma o s
  | .moutl o => Sys2Proof.Machine.execMoutl o s
  | .mrd o => Sys2Proof.Machine.execMrd o s
  | .mzero o => Sys2Proof.Machine.execMzero o s
  | .mfence o => Sys2Proof.Machine.execMfence o s
  | .xldb o => Sys2Proof.Machine.execXldb o s
  | .xcmp o => Sys2Proof.Machine.execXcmp o s
  | .xrow o => Sys2Proof.Machine.execXrow o s
  | .xcol o => Sys2Proof.Machine.execXcol o s
  | .xclos o => Sys2Proof.Machine.execXclos o s
  | .xcomp o => Sys2Proof.Machine.execXcomp o s
  | .xtrn o => Sys2Proof.Machine.execXtrn o s
  | .xlog o => Sys2Proof.Machine.execXlog o s
  | .xmov o => Sys2Proof.Machine.execXmov o s
  | .xset o => Sys2Proof.Machine.execXset o s
  | .tex o => Sys2Proof.Machine.execTex o s
  | .texld o => Sys2Proof.Machine.execTexld o s
  | .hgf o => Sys2Proof.Machine.execHgf o s
  | .hgs o => Sys2Proof.Machine.execHgs o s
  | .trace o => Sys2Proof.Machine.execTrace o s
  | .rnd o => Sys2Proof.Machine.execRnd o s
  | .tres o => Sys2Proof.Machine.execTres o s
  | .tview o => Sys2Proof.Machine.execTview o s
  | .tqnew o => Sys2Proof.Machine.execTqnew o s
  | .tqdel o => Sys2Proof.Machine.execTqdel o s
  | .tqadd o => Sys2Proof.Machine.execTqadd o s
  | .tqrem o => Sys2Proof.Machine.execTqrem o s
  | .binpush o => Sys2Proof.Machine.execBinpush o s
  | .binflush o => Sys2Proof.Machine.execBinflush o s
  | .launch o => Sys2Proof.Machine.execLaunch o s
  | .yield_ o => Sys2Proof.Machine.execYield o s
  | .bar o => Sys2Proof.Machine.execBar o s
  | .sysc o => Sys2Proof.Machine.execSysc o s
  | .trap o => Sys2Proof.Machine.execTrap o s
  | .ldovt o => Sys2Proof.Machine.execLdovt o s
  | .sleep o => Sys2Proof.Machine.execSleep o s
  | .brk o => Sys2Proof.Machine.execBrk o s
  | .prd o => Sys2Proof.Machine.execPrd o s
  | .pwr o => Sys2Proof.Machine.execPwr o s
  | .eret o => Sys2Proof.Machine.execEret o s
  | .clauseDecode t k => Sys2Proof.Machine.execClauseDecode t k s
  | .deadline t k => Sys2Proof.Machine.execDeadline t k s
  | .loadDataArrival t k n => Sys2Proof.Machine.execLoadDataArrival t k n s
  | .atomicOldValueArrival t k n => Sys2Proof.Machine.execAtomicOldValueArrival t k n s
  | .copySectorArrival t n => Sys2Proof.Machine.execCopySectorArrival t n s
  | .drainComplete t b n => Sys2Proof.Machine.execDrainComplete t b n s
  | .complete t b => Sys2Proof.Machine.execComplete t b s
  | .perform t k n => Sys2Proof.Machine.execPerform t k n s
  | .eventRecordPost t b e => Sys2Proof.Machine.execEventRecordPost t b e s
  | .matrixOpStart t m => Sys2Proof.Machine.execMatrixOpStart t m s
  | .matrixOpComplete t m mism => Sys2Proof.Machine.execMatrixOpComplete t m mism s
  | .engineReply t k n => Sys2Proof.Machine.execEngineReply t k n s
  | .tableReply t k n => Sys2Proof.Machine.execTableReply t k n s
  | .barRelease t b => Sys2Proof.Machine.execBarRelease t b s
  | .syscDeliver t k => Sys2Proof.Machine.execSyscDeliver t k s
  | .syscReply t k => Sys2Proof.Machine.execSyscReply t k s
  | .sleepExpiry t k => Sys2Proof.Machine.execSleepExpiry t k s
  | .launchRelease t l => Sys2Proof.Machine.execLaunchRelease t l s
  | .blockPlace t l c => Sys2Proof.Machine.execBlockPlace t l c s
  | .launchRetire t l => Sys2Proof.Machine.execLaunchRetire t l s
  | .binAgeExpiry t die bin => Sys2Proof.Machine.execBinAgeExpiry t die bin s
  | .worldSync t l => Sys2Proof.Machine.execWorldSync t l s
  | .quantumExpiry t p stall => Sys2Proof.Machine.execQuantumExpiry t p stall s
  | .contextRestore t b c => Sys2Proof.Machine.execContextRestore t b c s
  | .saveMapTimeout t p va => Sys2Proof.Machine.execSaveMapTimeout t p va s
  | .pagerRestart t k => Sys2Proof.Machine.execPagerRestart t k s
  | .framesTimeout t k => Sys2Proof.Machine.execFramesTimeout t k s
  | .invalidate t va len => Sys2Proof.Machine.execInvalidate t va len s
  | .ready t g rank => Sys2Proof.Machine.execReady t g rank s
  | .commit t g => Sys2Proof.Machine.execCommit t g s
  | .abort t g rank => Sys2Proof.Machine.execAbort t g rank s
  | .gangTimeout t g => Sys2Proof.Machine.execGangTimeout t g s
  | .gangDecisionQuery t g rank reached => Sys2Proof.Machine.execGangDecisionQuery t g rank reached s
  | .rdmaWrite q => Sys2Proof.Machine.execRdmaWrite q s
  | .rdmaRead q => Sys2Proof.Machine.execRdmaRead q s
  | .fetchAdd q => Sys2Proof.Machine.execFetchAdd q s
  | .compareSwap q => Sys2Proof.Machine.execCompareSwap q s
  | .peerUnsupportedOp q => Sys2Proof.Machine.execPeerUnsupportedOp q s
  | .peerAck t b p => Sys2Proof.Machine.execPeerAck t b p s
  | .peerfail t b p => Sys2Proof.Machine.execPeerfail t b p s
  | .migratePagePush t => Sys2Proof.Machine.execMigratePagePush t s
  | .migrateEnd t => Sys2Proof.Machine.execMigrateEnd t s
  | .checkpointFreeze t => Sys2Proof.Machine.execCheckpointFreeze t s
  | .checkpointComplete t durable => Sys2Proof.Machine.execCheckpointComplete t durable s
  | .eccError u corrected => Sys2Proof.Machine.execEccError u corrected s
  | .selfTest u pass => Sys2Proof.Machine.execSelfTest u pass s
  | .linkCrcRetry port repaired => Sys2Proof.Machine.execLinkCrcRetry port repaired s
  | .hbmRetrain ch => Sys2Proof.Machine.execHbmRetrain ch s
  | .droopStretch t c n => Sys2Proof.Machine.execDroopStretch t c n s
  | .thermalThrottle celsius => Sys2Proof.Machine.execThermalThrottle celsius s
  | .thermalShutdown celsius => Sys2Proof.Machine.execThermalShutdown celsius s
  | .bringUp failed w => Sys2Proof.Machine.execBringUp failed w s
  | .powerLoss => Sys2Proof.Machine.execPowerLoss s
  | .firmwareImageCheck w => Sys2Proof.Machine.execFirmwareImageCheck w s
  | .load q => Sys2Proof.Machine.execLoad q s
  | .alloc q => Sys2Proof.Machine.execAlloc q s
  | .free q => Sys2Proof.Machine.execFree q s
  | .read q => Sys2Proof.Machine.execRead q s
  | .write q => Sys2Proof.Machine.execWrite q s
  | .rpcLaunch q => Sys2Proof.Machine.execRpcLaunch q s
  | .wait q => Sys2Proof.Machine.execWait q s
  | .waitTimeout t n => Sys2Proof.Machine.execWaitTimeout t n s
  | .sync q => Sys2Proof.Machine.execSync q s
  | .registerWorld q => Sys2Proof.Machine.execRegisterWorld q s
  | .registerQuery q => Sys2Proof.Machine.execRegisterQuery q s
  | .registerBin q => Sys2Proof.Machine.execRegisterBin q s
  | .registerTexture q => Sys2Proof.Machine.execRegisterTexture q s
  | .checkpointTake q => Sys2Proof.Machine.execCheckpointTake q s
  | .checkpointRestore q => Sys2Proof.Machine.execCheckpointRestore q s
  | .checkpointList q => Sys2Proof.Machine.execCheckpointList q s
  | .migrate q => Sys2Proof.Machine.execMigrate q s
  | .attest q => Sys2Proof.Machine.execAttest q s
  | .status q => Sys2Proof.Machine.execStatus q s
  | .events q => Sys2Proof.Machine.execEvents q s
  | .log q => Sys2Proof.Machine.execLog q s
  | .config q => Sys2Proof.Machine.execConfig q s
  | .windowCreate q => Sys2Proof.Machine.execWindowCreate q s
  | .windowRemove q => Sys2Proof.Machine.execWindowRemove q s
  | .peermap q => Sys2Proof.Machine.execPeermap q s
  | .tenantCreate q => Sys2Proof.Machine.execTenantCreate q s
  | .tenantRemove q => Sys2Proof.Machine.execTenantRemove q s
  | .contextCreate q => Sys2Proof.Machine.execContextCreate q s
  | .contextDestroy q => Sys2Proof.Machine.execContextDestroy q s
  | .pageArrival t va => Sys2Proof.Machine.execPageArrival t va s
  | .unassignedMethod q => Sys2Proof.Machine.execUnassignedMethod q s
  | .precisionTimeProtocol slew => Sys2Proof.Machine.execPrecisionTimeProtocol slew s
  | .gangDecisionExpiry t g => Sys2Proof.Machine.execGangDecisionExpiry t g s

end Sys2Proof.Machine
end

