-- ==== Sys2Proof/Machine/Moves.lean ====
section
/-!
DEFINITION. What may happen next: the teams that can issue, the steps of the module's own units that something outstanding makes
possible, and the timers that something waits for. Steps that come from outside (requests, messages of other modules, operators,
errors) stand on the agenda. A move that turns out not to be enabled changes nothing.
-/
namespace Sys2Proof.Machine

/-- One move for each number below `n`. -/
def each (n : Nat) (f : Nat → Move) : List Move := (List.range n).map f
def only (b : Bool) (ms : List Move) : List Move := if b then ms else []

/-- The arrival that ends an outstanding result. -/
def CtrKind.arrival (k : CtrKind) (n key i : Nat) : Instr :=
  match k with
  | .lc => .loadDataArrival n key i
  | .ac => .atomicOldValueArrival n key i
  | .xc => .engineReply n key i
  | .tc => .tableReply n key i
  | .mc => .matrixOpComplete n 0 0

/-- Arrivals of the results of one counter, and the reads that may come before them. -/
def Team.arrivals (n : Nat) (t : Team) (k : CtrKind) : List Move :=
  let ps := t.pend.filter fun p => p.kind == k
  each ps.length (fun i => .event (k.arrival n t.key i)) ++
    (List.range ps.length).flatMap fun i => match (ps[i]?).bind (·.req) with
      | some q => q.left.map fun l => .capture (k.arrival n t.key i) l
      | none => []

/-- What a waiting team waits for. -/
def Team.waitMoves (n : Nat) (t : Team) : List Move :=
  match t.wait with
  | .atom r => each r.todo.length (fun i => .event (.perform n t.key i)) ++ only r.todo.isEmpty [.event (.atomicOldValueArrival n t.key 0)]
  | .sysc r => if r.reply.isSome then [.event (.syscReply n t.key)] else [.event (.syscDeliver n t.key)]
  | .sleep _ => [.event (.sleepExpiry n t.key)]
  | .pager _ => [.event (.pagerRestart n t.key), .event (.framesTimeout n t.key)]
  | _ => []

/-- The teams of the tenant in the focus that can issue. -/
def State.issueMoves (s : State) : List Move :=
  s.allTeams.filterMap fun t =>
    match s.toTeam s.ten.num t.key with
    | some x => if x.ready && x.issues then some (.issue s.ten.num t.key) else none
    | none => none

def State.teamMoves (s : State) : List Move :=
  s.allTeams.flatMap fun t =>
    [CtrKind.lc, .ac, .xc, .tc].flatMap (t.arrivals s.ten.num) ++ t.waitMoves s.ten.num

/-- Atomics and service calls of saved teams, and atomics of ended ones, go on (08 R182, 09 R197). -/
def Tenant.savedMoves (t : Tenant) : List Move :=
  t.orphans.flatMap (fun o => each o.req.todo.length fun i => .event (.perform t.num o.team i)) ++
  (t.ctxs.flatMap (·.saved)).flatMap fun b => b.teams.flatMap fun x => match x.wait with
    | .atom r => each r.todo.length fun i => .event (.perform t.num x.key i)
    | .sysc r => only r.reply.isNone [.event (.syscDeliver t.num x.key)]
    | _ => []

/-- Copies, batches, event records and barriers. -/
def Tenant.storeMoves (t : Tenant) (blocks : List Block) (cores : List Core) : List Move :=
  (List.range t.sectors.length).flatMap (fun i =>
    [.event (.copySectorArrival t.num i), .capture (.copySectorArrival t.num i) 0]) ++
  t.queued.flatMap (fun b =>
    .event (.complete t.num b.id) :: each b.recs.length fun i => .event (.drainComplete t.num b.id i)) ++
  blocks.flatMap (fun b =>
    only (!b.evw.isEmpty) [.event (.eventRecordPost t.num b.key 0)] ++ [.event (.barRelease t.num b.key)]) ++
  t.mops.map (fun m => if m.started then .event (.matrixOpComplete t.num m.id 0) else .event (.matrixOpStart t.num m.id)) ++
  t.launches.flatMap (fun l =>
    [.event (.launchRelease t.num l.id), .event (.launchRetire t.num l.id)] ++ only (l.rc.kind == 3) [.event (.worldSync t.num l.id)] ++
      cores.map fun c => .event (.blockPlace t.num l.id c.num))

/-- Panes, contexts and the pager. -/
def Tenant.paneMoves (t : Tenant) (cores : List Core) : List Move :=
  t.panes.flatMap (fun p => only (t.nextCtx p).isSome [.event (.quantumExpiry t.num p.num false)]) ++
  (t.ctxs.flatMap (·.saved)).flatMap (fun b => cores.map fun c => .event (.contextRestore t.num b.blk.key c.num)) ++
  t.pageReqs.map (fun va => .event (.pageArrival t.num va))

/-- Bins, gangs, open requests, checkpoints and migration. -/
def Tenant.restMoves (t : Tenant) : List Move :=
  t.rings.map (fun r => .event (.binAgeExpiry t.num (r.1 / 256) (r.1 % 256))) ++
  (t.launches.flatMap Launch.undecided ++ t.gangLeft).map (fun g =>
    .event (if g.2.rank == 0 then .gangTimeout t.num g.2.id.toNat else .gangDecisionQuery t.num g.2.id.toNat g.2.rank true)) ++
  t.gangDec.map (fun d => .event (.gangDecisionExpiry t.num d.1.toNat)) ++
  (t.inbox.take 1).map (.again ·) ++
  t.waits.map (fun w => .event (.wait w.q)) ++
  each t.waits.length (fun i => .event (.waitTimeout t.num i)) ++
  (match t.take with
    | some k => if k.recorded then [.event (.checkpointComplete t.num true), .event (.checkpointComplete t.num false)]
      else [.event (.checkpointFreeze t.num)]
    | none => []) ++
  (match t.mig with
    | some m => if m.moved && m.left.isEmpty then [.event (.migrateEnd t.num)] else [.event (.migratePagePush t.num)]
    | none => [])

/-- Every move that is possible in the tenant in the focus. -/
def State.tenantMoves (s : State) : List Move :=
  s.issueMoves ++ s.teamMoves ++ s.ten.savedMoves ++
    s.ten.storeMoves (if s.blk.key == 0 then s.ten.blocks else s.blk :: s.ten.blocks) s.allCores ++
    s.ten.paneMoves s.allCores ++ s.ten.restMoves

/-- Every move that is possible. -/
def State.moves (s : State) : List Move :=
  if s.power == .up then
    s.errors.flatMap (fun u => [.event (.selfTest u true), .event (.selfTest u false)]) ++
    (if s.ten.live then s.tenantMoves else []) ++
      s.tens.flatMap fun t => match s.toTenant t.num with | some x => x.tenantMoves | none => []
  else []

end Sys2Proof.Machine
end

