-- ==== Sys2Proof/Machine/Step.lean ====
section
/-!
DEFINITION. One step of the module. The agenda's head comes first; without one, some possible move, by a free choice where there are
several. `State.withFetchWord` places an instruction where the next step takes it.
-/
namespace Sys2Proof.Machine

/-- Free values of the next step differ from this step's. -/
def tick (o : Host.Outcome State Fault Refusal) : Host.Outcome State Fault Refusal :=
  match o with
  | .next s => .next { s with ctr := s.ctr + 1 }
  | .fault r => .fault r
  | .refused r => .refused r

/-- A team's turn. -/
def issueTurn (s : State) : Host.Outcome State Fault Refusal :=
  match s.turn with
  | .run i s => exec i s
  | .done s => .next s

/-- A move. An instruction of a team is no event: it comes only with its team's turn. -/
def act (m : Move) (s : State) : Host.Outcome State Fault Refusal :=
  match m with
  | .event i => if (encode i).isEmpty then exec i s else .next s
  | .issue t k => match s.toTeam t k with
    | some s => issueTurn s
    | none => .next s
  | .capture i n => .next (s.capture i n)
  | .deliver m => .next (s.deliver m)
  | .again q => execAgain q s

def step (s : State) : Host.Outcome State Fault Refusal :=
  match s.agenda with
  | m :: rest => tick (act m { s with agenda := rest })
  | [] =>
    match s.moves with
    | [] => tick (.next s)
    | [m] => tick (act m s)
    | ms => tick (act (pick (.issue 0 0) (Config.freeNat s.ctr 100) ms) s)

/-- The state in which the very next step issues the instruction whose bits are `w`: a placed team of one lane with every grant, its
clause decoded from a page at its program counter, and its turn on the agenda. -/
def State.withFetchWord (s : State) (nbits w : Nat) : State :=
  let ws0 := tableWords nbits w
  let ws := ws0.take (max 1 (wordsOf (opcOf (ws0.headD 0))))
  let e : Word := word (classOf (opcOf (ws.headD 0)))
  let n := ws.length
  let key := if s.team.key == 0 then s.ten.nextTeam else s.team.key
  let h := s.team.pc
  let hdr : Word := (word n <<< 28) ||| (e <<< 25)
  { s with
    power := .up
    ten := { s.ten with
      live := true, frozen := false, mig := none
      pages := { va := h.toNat / 65536 * 65536, size := 65536, r := true, w := false, x := true, st := .hbm, pin := false, peer := 0
                 gpa := h.toNat / 65536 * 65536 } :: s.ten.pages
      stage2 := { gpa := h.toNat / 65536 * 65536, size := 65536, r := true, w := true, pa := none } :: s.ten.stage2
      main := s.ten.main.inits h.toNat ((hdr :: ws).flatMap leWord) }
    core := { s.core with there := true }
    blk := { s.blk with key := if s.blk.key == 0 then s.ten.nextBlk else s.blk.key }
    team := { s.team with
      key := key, blk := if s.blk.key == 0 then s.ten.nextBlk else s.blk.key, core := s.core.num
      lanes := 1, budget := 256, gx := 8, ga := 8, exec := 1, dl := 64 * Config.defaultNd, wait := .run, park := false
      cl := some { hdr := h, n := n, words := ws, pos := 0, sw := false } }
    agenda := [.issue s.ten.num key] }

end Sys2Proof.Machine
end

