-- ==== Sys2Proof/Safety.lean ====
section
/-!
DEFINITION. What a safe run is: one whose step neither faults nor is refused.
-/
namespace Sys2Proof.Safety

open Sys2Proof.Machine

/-- The step of this state gives a next state. -/
def Goes (s : State) : Prop := ∃ t, step s = .next t

/-- Every step of a run of `n` steps gives a next state. -/
def SafeFor : Nat → State → Prop
  | 0, _ => True
  | n + 1, s => ∃ t, step s = .next t ∧ SafeFor n t

end Sys2Proof.Safety
end

