-- ==== Sys2Proof/Certificates/Slice0/Obligations.lean ====
section
/-!
DEFINITION. The statements for the provers. An instruction of a team issues when its clause is latched, its fields are in range
and the deadline holds its words (`Ready`); each group of instructions then completes with the result of its rule, and a frame
says what else may change.
-/

open Sys2Proof Sys2Proof.Machine

namespace Sys2Proof.Claims

/-! ### Issue and frame -/

/-- Instruction `i` can issue in state `s`: clause `c` is latched, every field of `i` is in the range of its kind, and the
phase's deadline holds its words (03 R36, R56; 09 R206). -/
def Ready (i : Instr) (c : Clause) (s : State) : Prop := s.team.cl = some c ∧ i.wf = true ∧ words i ≤ s.team.dl

/-- Where the team stands after `n` words of the clause: at the next word, or past the clause, at the next header (03 R37, R38);
the words count against the deadline (09 R206). -/
def Advanced (n : Nat) (c : Clause) (u t : Team) : Prop :=
  t.dl = u.dl - n ∧
    (if c.pos + n < c.n then t.cl = some { c with pos := c.pos + n } ∧ t.pc = u.pc ∧ t.hdr = u.hdr ∧ t.park = u.park
     else t.cl = none ∧ t.pc = c.hdr + BitVec.ofNat 56 (4 * (c.n + 1)) ∧ t.hdr = none ∧ t.park = c.sw)

/-- The team `u` at the place in its clause where `t` stands. -/
def movedTo (t u : Team) : Team := { u with cl := t.cl, pc := t.pc, hdr := t.hdr, park := t.park, dl := t.dl }

/-- The core with `n` events of kind `ev` counted, if PMSEL selects that kind (09 R213). -/
def counted (ev n : Nat) (c : Core) : Core := { c with pmcnt := if c.pmsel.toNat = ev then c.pmcnt + BitVec.ofNat 32 n else c.pmcnt }

/-- Every byte of main memory, of every scratchpad and of the block's local store reads as before. -/
def SameBytes (s t : State) : Prop :=
  (∀ sp a, (t.ten.space sp).get a = (s.ten.space sp).get a) ∧ ∀ a, t.blk.ls.get a = s.blk.ls.get a

/-- Outside the issuing team only the core's counter changes. -/
def OnlyTeam (ev n : Nat) (s t : State) : Prop := t = { s with team := t.team, core := counted ev n s.core } ∧ SameBytes s t

/-- Outside the issuing team only the core's counter changes, and the sequencer notes that vector registers `rs` were written
(08 R184). -/
def OnlyTeamV (rs : List Nat) (s t : State) : Prop :=
  t = { s with
    team := t.team, core := counted 0 s.passes s.core
    ten := { s.ten with mops := s.ten.mops.map (MatOp.noteWrite s.team.key rs) } } ∧ SameBytes s t

/-- Every vector register named is granted (02 R20). -/
def Granted (rs : List Nat) (s : State) : Prop := ∀ r ∈ rs, r < s.team.budget

/-- Word 0 of an instruction by its layout (03 R44): the opcode in [31:24], D in [23:16], A in [15:8], B in [7:0]. -/
def wordOf (opc : Nat) (d a b : Byte) : Word := BitVec.ofNat 32 (opc * 2 ^ 24 + d.toNat * 2 ^ 16 + a.toNat * 2 ^ 8 + b.toNat)

/-! ### Scalar results (05 R84 to R86) -/

/-- Destination and result of moves and arithmetic on the values of the scalar sources. -/
inductive Arith (s : State) : Instr → Nat → Word → Prop
  | smov (o : ROps) : Arith s (.smov o) o.d.toNat (s.sval o.a)
  | smovi (o : IOps) : Arith s (.smovi o) o.d.toNat o.imm
  | saddi (o : IOps) : Arith s (.saddi o) o.d.toNat (BitVec.ofNat 32 ((s.sval o.a).toNat + o.imm.toNat))
  | sadd (o : ROps) : Arith s (.sadd o) o.d.toNat (BitVec.ofNat 32 ((s.sval o.a).toNat + (s.sval o.b).toNat))
  | ssub (o : ROps) : Arith s (.ssub o) o.d.toNat (BitVec.ofInt 32 ((s.sval o.a).toInt - (s.sval o.b).toInt))
  | smul (o : ROps) : Arith s (.smul o) o.d.toNat (BitVec.ofNat 32 ((s.sval o.a).toNat * (s.sval o.b).toNat))
  | smulh (o : ROps) : Arith s (.smulh o) o.d.toNat (BitVec.ofInt 32 ((s.sval o.a).toInt * (s.sval o.b).toInt / 2 ^ 32))
  | smulhu (o : ROps) : Arith s (.smulhu o) o.d.toNat (BitVec.ofNat 32 ((s.sval o.a).toNat * (s.sval o.b).toNat / 2 ^ 32))
  | sand (o : ROps) : Arith s (.sand o) o.d.toNat (s.sval o.a &&& s.sval o.b)
  | sor (o : ROps) : Arith s (.sor o) o.d.toNat (s.sval o.a ||| s.sval o.b)
  | sxor (o : ROps) : Arith s (.sxor o) o.d.toNat (s.sval o.a ^^^ s.sval o.b)

/-- The condition numbered `fn` of R86 on two words. -/
def Cond (fn : Nat) (a b : Word) : Prop :=
  match fn with
  | 0 => a = b
  | 1 => a ≠ b
  | 2 => a.toInt < b.toInt
  | 3 => a.toInt ≤ b.toInt
  | 4 => a.toInt > b.toInt
  | 5 => a.toInt ≥ b.toInt
  | 6 => a.toNat < b.toNat
  | 7 => a.toNat ≤ b.toNat
  | 8 => a.toNat > b.toNat
  | _ => a.toNat ≥ b.toNat

/-- What `SBIT` leaves (R86): the number of ones; of leading and of trailing zeros, 32 for 0; the bits in reverse order. -/
def BitResult (fn : Nat) (a v : Word) : Prop :=
  match fn with
  | 0 => v.toNat = ((List.range 32).filter fun k => a.getLsbD k).length
  | 1 => v.toNat ≤ 32 ∧ (∀ k, 32 - v.toNat ≤ k → k < 32 → a.getLsbD k = false) ∧ (v.toNat < 32 → a.getLsbD (31 - v.toNat) = true)
  | 2 => v.toNat ≤ 32 ∧ (∀ k, k < v.toNat → a.getLsbD k = false) ∧ (v.toNat < 32 → a.getLsbD v.toNat = true)
  | _ => ∀ k, k < 32 → v.getLsbD k = a.getLsbD (31 - k)

/-- Destination and result of shifts (by the whole count), compares, selections and bit operations. -/
inductive Shift (s : State) : Instr → Nat → Word → Prop
  | sshl (o : ROps) (v : Word) : v.toNat = (s.sval o.a).toNat * 2 ^ (s.sval o.b).toNat % 2 ^ 32 → Shift s (.sshl o) o.d.toNat v
  | sshr (o : ROps) (v : Word) : v.toNat = (s.sval o.a).toNat / 2 ^ (s.sval o.b).toNat → Shift s (.sshr o) o.d.toNat v
  | ssra (o : ROps) (v : Word) : v.toInt = (s.sval o.a).toInt / 2 ^ (s.sval o.b).toNat → Shift s (.ssra o) o.d.toNat v
  | scmp (o : XOps) (v : Word) : (Cond o.fn.toNat (s.sval o.a) (s.sval o.b) ∧ v = 1 ∨ ¬ Cond o.fn.toNat (s.sval o.a) (s.sval o.b) ∧ v = 0) →
      Shift s (.scmp o) o.d.toNat v
  | ssel (o : XOps) : Shift s (.ssel o) o.d.toNat (if s.sval o.c = 0 then s.sval o.b else s.sval o.a)
  | sminS (o : XOps) (v : Word) : v.toInt = min (s.sval o.a).toInt (s.sval o.b).toInt → Shift s (.sminS o) o.d.toNat v
  | sminU (o : XOps) (v : Word) : v.toNat = min (s.sval o.a).toNat (s.sval o.b).toNat → Shift s (.sminU o) o.d.toNat v
  | smaxS (o : XOps) (v : Word) : v.toInt = max (s.sval o.a).toInt (s.sval o.b).toInt → Shift s (.smaxS o) o.d.toNat v
  | smaxU (o : XOps) (v : Word) : v.toNat = max (s.sval o.a).toNat (s.sval o.b).toNat → Shift s (.smaxU o) o.d.toNat v
  | sbit (o : XOps) (v : Word) : BitResult o.fn.toNat (s.sval o.a) v → Shift s (.sbit o) o.d.toNat v

/-- The state `t` after an instruction that writes scalar register `d` := `v` and nothing else: every other scalar register, every
other field of the team, every other part of the machine and every byte of memory is as before. -/
def WroteScalar (i : Instr) (c : Clause) (d : Nat) (v : Word) (s t : State) : Prop :=
  (∀ k, look 0 k t.team.s = if k = d then v else look 0 k s.team.s) ∧
    t.team = { movedTo t.team s.team with s := t.team.s } ∧ Advanced (words i) c s.team t.team ∧ OnlyTeam 1 1 s t

end Sys2Proof.Claims

open Sys2Proof.Claims

/-- R84, R85: scalar moves and arithmetic. -/
def Sys2Proof.Claims.ScalarArithmeticCompletes : Prop :=
  ∀ (i : Instr) (c : Clause) (s : State) (d : Nat) (v : Word), Ready i c s → Arith s i d v →
    ∃ t, exec i s = .next t ∧ WroteScalar i c d v s t

/-- R84, R86: scalar shifts, comparisons, minima, maxima, selection and bit operations. -/
def Sys2Proof.Claims.ScalarShiftCompareCompletes : Prop :=
  ∀ (i : Instr) (c : Clause) (s : State) (d : Nat) (v : Word), Ready i c s → Shift s i d v →
    ∃ t, exec i s = .next t ∧ WroteScalar i c d v s t

/-- R84 to R86: scalar moves, arithmetic, shifts, comparisons, extremes, selection and bit operations. -/
def Obligations.ScalarResultsComplete : Prop := ScalarArithmeticCompletes ∧ ScalarShiftCompareCompletes

/-- R85: SMOVI and SADDI are I forms of opcodes 0x02 and 0x10 with a scalar destination, the immediate in word 1 and B 0; A is 0 for SMOVI and a scalar
source for SADDI. SMOVI sets d := imm32, SADDI d := (a + imm32) mod 2^32. -/
def Obligations.ImmediateScalarRule : Prop :=
  (∀ (d a b : Byte) (imm : Word) (rest : List Word), d.toNat < 128 → a.toNat < 216 →
    decode (wordOf 0x02 d 0 0 :: imm :: rest) = .ok (.smovi { d := d, a := 0, b := 0, imm := imm }, rest) ∧
    decode (wordOf 0x10 d a 0 :: imm :: rest) = .ok (.saddi { d := d, a := a, b := 0, imm := imm }, rest) ∧
    (a ≠ 0 ∨ b ≠ 0 → decode (wordOf 0x02 d a b :: imm :: rest) = .error .reserved) ∧
    (b ≠ 0 → decode (wordOf 0x10 d a b :: imm :: rest) = .error .reserved)) ∧
  ∀ (o : IOps) (c : Clause) (s : State),
    (Ready (.smovi o) c s → ∃ t, exec (.smovi o) s = .next t ∧ WroteScalar (.smovi o) c o.d.toNat o.imm s t) ∧
    (Ready (.saddi o) c s → ∃ t, exec (.saddi o) s = .next t ∧
      WroteScalar (.saddi o) c o.d.toNat (BitVec.ofNat 32 (((s.sval o.a).toNat + o.imm.toNat) % 2 ^ 32)) s t)

namespace Sys2Proof.Claims

/-! ### Special registers, control flow, waits -/

/-- The write of `x` to special register `k` (02 R28, R29, 21 R335), where the code and the value are allowed. -/
inductive WriteSpecial (u : Team) (x : Word) : Nat → Team → Prop
  | status : x.toNat < 64 → WriteSpecial u x 12 { u with status := x }
  | rm : x.toNat ≤ 4 → WriteSpecial u x 13 { u with rm := x }
  | seed : WriteSpecial u x 30 { u with seed := x, spos := 0 }
  | epcLo : u.priv = true → x.toNat % 4 = 0 →
      WriteSpecial u x 32 { u with epc := BitVec.ofNat 56 (u.epc.toNat / 2 ^ 32 * 2 ^ 32 + x.toNat) }
  | epcHi : u.priv = true → x.toNat < 2 ^ 24 →
      WriteSpecial u x 33 { u with epc := BitVec.ofNat 56 (x.toNat * 2 ^ 32 + u.epc.toNat % 2 ^ 32) }

/-- The register or field behind each special-register code but CLKLO (02 R28, 21 R335). DEADLINE counts in units of 64 words, rounded up,
and the reading instruction's own word as used (assumption 72). -/
inductive SpecialValue (s : State) : Nat → Word → Prop
  | lanes : SpecialValue s 0 (BitVec.ofNat 32 s.team.lanes)
  | spans : SpecialValue s 1 (BitVec.ofNat 32 ((s.team.lanes + 31) / 32))
  | team : SpecialValue s 2 (BitVec.ofNat 32 s.team.idx)
  | teams : SpecialValue s 3 (BitVec.ofNat 32 s.blk.teams)
  | block : SpecialValue s 4 (BitVec.ofNat 32 s.blk.idx)
  | blocks (l : Launch) : s.launch? = some l → SpecialValue s 5 (BitVec.ofNat 32 l.nblk)
  | launch : SpecialValue s 6 (BitVec.ofNat 32 s.team.launch)
  | pane : SpecialValue s 7 (BitVec.ofNat 32 s.core.pane)
  | core : SpecialValue s 8 (BitVec.ofNat 32 s.core.num)
  | quarter : SpecialValue s 9 (BitVec.ofNat 32 s.team.quarter)
  | clkhi : SpecialValue s 11 s.team.clkhi
  | status : SpecialValue s 12 s.team.status
  | rm : SpecialValue s 13 s.team.rm
  | deadline : SpecialValue s 14 (BitVec.ofNat 32 ((s.team.dl - 1 + 63) / 64))
  | arglo (l : Launch) : s.launch? = some l → SpecialValue s 15 (BitVec.ofNat 32 l.rc.arg)
  | arghi (l : Launch) : s.launch? = some l → SpecialValue s 16 (BitVec.ofNat 32 (l.rc.arg % 2 ^ 56 / 2 ^ 32))
  | qworld (l : Launch) : s.launch? = some l → SpecialValue s 17 (if l.rc.kind = 1 then BitVec.ofNat 32 (l.rc.blocks % 256) else 0)
  | qchunk (l : Launch) : s.launch? = some l → SpecialValue s 18 (if l.rc.kind = 1 then BitVec.ofNat 32 s.blk.idx else 0)
  | qrows (l : Launch) : s.launch? = some l → SpecialValue s 19 (if l.rc.kind = 1 then BitVec.ofNat 32 (l.rows.getD s.blk.idx 0) else 0)
  | tick (l : Launch) (w n : Nat) : s.launch? = some l → w = (if l.rc.kind = 1 then l.rc.blocks % 256 else 0) →
      l.pins.find? (fun p => p.1 == w) = some (w, n) → SpecialValue s 20 (BitVec.ofNat 32 n)
  | noTick (l : Launch) : s.launch? = some l → (∀ p ∈ l.pins, p.1 ≠ if l.rc.kind = 1 then l.rc.blocks % 256 else 0) → SpecialValue s 20 0
  | bincount (l : Launch) : s.launch? = some l → SpecialValue s 21 (if l.rc.kind = 2 then BitVec.ofNat 32 l.recs.length else 0)
  | mstat (k : Nat) : k < 8 → SpecialValue s (22 + k) (look 0 k s.team.mstat)
  | seed : SpecialValue s 30 s.team.seed
  | cause : SpecialValue s 31 s.team.cause
  | epclo : SpecialValue s 32 (BitVec.ofNat 32 s.team.epc.toNat)
  | epchi : SpecialValue s 33 (BitVec.ofNat 32 (s.team.epc.toNat / 2 ^ 32))
  | eialo : SpecialValue s 34 (BitVec.ofNat 32 s.team.eia.toNat)
  | eiahi : SpecialValue s 35 (BitVec.ofNat 32 (s.team.eia.toNat / 2 ^ 32))
  | elane : SpecialValue s 36 s.team.elane
  | einfo : SpecialValue s 37 s.team.einfo

/-- The trap `code`, `sub` at the instruction that clause `c` issues next (21 R336). -/
def trapAt (s : State) (c : Clause) (code sub : Nat) (lane info : Word) : State := s.takeTrap code sub lane info c.va c.va (some (c.hdr, c.n))

/-- A condition of 05 R91 on mask `m` and EXEC. -/
def MaskCond (cond : Nat) (m e : Mask) : Prop :=
  match cond with
  | 0 => True
  | 1 => ∀ k, m.getLsbD k = false
  | 2 => ∃ k, m.getLsbD k = true
  | 3 => ∀ k, e.getLsbD k = true → m.getLsbD k = true
  | _ => ∃ k, e.getLsbD k = true ∧ m.getLsbD k = false

/-- The header of the clause plus 4 × the signed offset (03 R47). -/
def target (c : Clause) (imm : Word) : VA := BitVec.ofInt 56 (c.hdr.toNat + 4 * imm.toInt)
/-- The header after the clause (03 R37). -/
def nextHeader (c : Clause) : VA := BitVec.ofNat 56 (c.hdr.toNat + 4 * (c.n + 1))

/-- Where execution goes on after a branch or jump (05 R91, R92, R101). -/
inductive Goes (s : State) (c : Clause) : Instr → VA → Prop
  | brTaken (o : IOps) : MaskCond o.a.toNat (s.mval o.d) s.execv → Goes s c (.brCond o) (target c o.imm)
  | brNot (o : IOps) : ¬ MaskCond o.a.toNat (s.mval o.d) s.execv → Goes s c (.brCond o) (nextHeader c)
  | brzTaken (o : IOps) : s.sval o.d = 0 → Goes s c (.brz o) (target c o.imm)
  | brzNot (o : IOps) : s.sval o.d ≠ 0 → Goes s c (.brz o) (nextHeader c)
  | brnzTaken (o : IOps) : s.sval o.d ≠ 0 → Goes s c (.brnz o) (target c o.imm)
  | brnzNot (o : IOps) : s.sval o.d = 0 → Goes s c (.brnz o) (nextHeader c)
  | jmps (o : ROps) : Goes s c (.jmps o) (BitVec.ofNat 56 (s.spair o.a.toNat).toNat)

/-- The team after a terminator that sends execution to the header `va`: the clause has ended (03 R40). -/
def ended (i : Instr) (c : Clause) (va : VA) (u : Team) : Team :=
  { u with pc := va, hdr := none, cl := none, park := c.sw, dl := u.dl - words i }

/-- The target of a call that is made (05 R98), with the kind of record it pushes (R96). -/
inductive Calls (s : State) (c : Clause) : Instr → Nat → VA → Prop
  | call (o : IOps) : MaskCond o.a.toNat (s.mval o.d) s.execv → Calls s c (.call o) 0 (target c o.imm)
  | calls (o : ROps) : Calls s c (.calls o) 1 (BitVec.ofNat 56 (s.spair o.a.toNat).toNat)

/-- A call target passes (03 R52): its function word can be fetched, has the mark 0xA5, no more than 128 scalars and vector
registers within the grant. -/
def TargetOk (s : State) (va : VA) : Prop :=
  s.ten.fetchCheck (codeBytes (va - 4#56) 1) = .ok ∧ (s.fnWord va).toNat / 2 ^ 24 = 0xA5 ∧
    (s.fnWord va).toNat / 2 ^ 8 % 256 ≤ 128 ∧ 8 * ((s.fnWord va).toNat / 2 ^ 16 % 256) ≤ s.team.budget

/-- The traps of a call target whose function word can be fetched, in their order (03 R52): no mark, too many scalars, too many vector
registers for the grant. -/
inductive TargetTraps (s : State) (va : VA) : Nat → Nat → Prop
  | tag : (s.fnWord va).toNat / 2 ^ 24 ≠ 0xA5 → TargetTraps s va 1 7
  | scalars : (s.fnWord va).toNat / 2 ^ 24 = 0xA5 → 128 < (s.fnWord va).toNat / 2 ^ 8 % 256 → TargetTraps s va 1 7
  | budget : (s.fnWord va).toNat / 2 ^ 24 = 0xA5 → (s.fnWord va).toNat / 2 ^ 8 % 256 ≤ 128 →
      s.team.budget < 8 * ((s.fnWord va).toNat / 2 ^ 16 % 256) → TargetTraps s va 2 0

/-- Spill bytes of the callee's frame: 64 × the low byte of its function word (03 R52). -/
def frameBytes (s : State) (va : VA) : Nat := 64 * ((s.fnWord va).toNat % 256)

/-- What stops a call to `va` that pushes `size` bytes at `base` (03 R52, 05 R97): a page of the function word that no fetch may use ends the
team with FETCH, an absent one is asked for and the call waits; then the traps of the target; then those of depth and space. EINFO of the
last is the end of the frame (assumption 73). -/
def CallStops (i : Instr) (c : Clause) (s : State) (va : VA) (base size : Nat) : Prop :=
  (∀ sub p, s.ten.fetchCheck (codeBytes (va - 4#56) 1) = .bad sub p → exec i s = .next (s.endFault 21 sub c.va p)) ∧
    (∀ ps, s.ten.fetchCheck (codeBytes (va - 4#56) 1) = .absent ps →
      exec i s = .next { s with ten := { s.ten with pageReqs := union s.ten.pageReqs ps } }) ∧
    (∀ code sub, s.ten.fetchCheck (codeBytes (va - 4#56) 1) = .ok → TargetTraps s va code sub →
      exec i s = .next (trapAt s c code sub 0xFFFFFFFF#32 0)) ∧
    (TargetOk s va → s.team.depth = 64 → exec i s = .next (trapAt s c 6 0 0xFFFFFFFF#32 0)) ∧
    (TargetOk s va → s.team.depth ≠ 64 → s.team.z < base + size + frameBytes s va →
      exec i s = .next (trapAt s c 6 1 0xFFFFFFFF#32 (BitVec.ofNat 32 (base + size + frameBytes s va))))

/-- The spill area of `t` is that of `u` with the bytes `bs` at `a`. -/
def SpillPut (a : Nat) (bs : List Byte) (u t : Team) : Prop :=
  ∀ x, look 0 x t.spill = if a ≤ x ∧ x < a + bs.length then bs.getD (x - a) 0 else look 0 x u.spill

/-- The 16-byte head of a call record (05 R96): 7 bytes of address, the kind, LINK, TOP. -/
def head (kind : Nat) (va : VA) (link top : Nat) : List Byte := leBytes 7 va.toNat ++ [BitVec.ofNat 8 kind] ++ leBytes 4 link ++ leBytes 4 top
/-- The current record as LINK holds it: all ones for none (R96). -/
def linkNow (u : Team) : Nat := match u.crec with | some r => r | none => 0xFFFFFFFF

end Sys2Proof.Claims

/-- R89: SRDSR of a special register that may be read. CLKLO latches CLKHI; MSTATk is cleared. -/
def Sys2Proof.Claims.SpecialReadCompletes : Prop :=
  ∀ (o : ROps) (c : Clause) (s : State), Ready (.srdsr o) c s → (o.a.toNat < 32 ∨ s.team.priv = true ∧ o.a.toNat < 38) →
    (22 ≤ o.a.toNat → o.a.toNat ≤ 29 → o.a.toNat - 22 < s.team.ga) →
    ∃ t v, exec (.srdsr o) s = .next t ∧ ((∀ x, SpecialValue s o.a.toNat x → v = x)) ∧ (o.a.toNat ≠ 10 → t.clk = s.clk ∧ t.team.clkhi = s.team.clkhi) ∧
      (o.a.toNat = 10 → s.clk ≤ t.clk ∧ v.toNat = t.clk % 2 ^ 32 ∧ t.team.clkhi.toNat = t.clk / 2 ^ 32 % 2 ^ 32) ∧
      (∀ k, look 0 k t.team.s = if k = o.d.toNat then v else look 0 k s.team.s) ∧
      (∀ k, look 0 k t.team.mstat = if k + 22 = o.a.toNat ∧ k < 8 then 0 else look 0 k s.team.mstat) ∧
      t.team = { movedTo t.team s.team with s := t.team.s, clkhi := t.team.clkhi, mstat := t.team.mstat } ∧
      Advanced 1 c s.team t.team ∧
      t = { s with clk := t.clk, team := t.team, core := counted 1 1 s.core } ∧ SameBytes s t

/-- An MRD of the team that is still to round stochastically, with the SEED of its issue and no stream position yet. -/
def Sys2Proof.Claims.StillToDraw (key : Nat) (m : MatOp) : Bool :=
  (match m.ins with
    | .mrd _ => m.sc.getD 2 0 == 4
    | _ => false) && m.team == key && m.pos == none
/-- The outstanding MRDs that a write of SEED does not reach keep the stream positions that they would have drawn at, in order of issue: the
model's reading of R90 (assumption 20). -/
def Sys2Proof.Claims.DrawsKept (u : Team) (ms ns : List MatOp) : Prop :=
  ns.length = ms.length ∧ ∀ i m, ms[i]? = some m → ns[i]? = some (if StillToDraw u.key m then
    { m with pos := some (u.spos + BitVec.ofNat 32 ((ms.take i).filter (StillToDraw u.key)).length) } else m)

/-- R89, R90: SWRSR of a special register that may be written, with a value that it may take. -/
def Sys2Proof.Claims.SpecialWriteCompletes : Prop :=
  ∀ (o : ROps) (c : Clause) (s : State) (w : Team), Ready (.swrsr o) c s → WriteSpecial s.team (s.sval o.a) o.d.toNat w →
    ∃ t, exec (.swrsr o) s = .next t ∧ t.team = movedTo t.team w ∧ Advanced 1 c s.team t.team ∧
      t = { s with team := t.team, core := counted 1 1 s.core, ten := { s.ten with mops := t.ten.mops } } ∧ SameBytes s t ∧
      (o.d.toNat ≠ 30 → t.ten.mops = s.ten.mops) ∧ (o.d.toNat = 30 → DrawsKept s.team s.ten.mops t.ten.mops)

/-- R51, R89: outside privileged mode a special-register field of 32 to 255 traps with PRIV and changes no register; in
privileged mode a code without a register traps with ILLEGAL RESERVED. A write that its register does not take traps so in
any mode. -/
def Sys2Proof.Claims.SpecialRegisterTraps : Prop :=
  ∀ (o : ROps) (c : Clause) (s : State),
    (Ready (.srdsr o) c s → 32 ≤ o.a.toNat → s.team.priv = false →
      exec (.srdsr o) s = .next (s.takeTrap 3 0 0xFFFFFFFF#32 0 c.va c.va (some (c.hdr, c.n)))) ∧
    (Ready (.swrsr o) c s → 32 ≤ o.d.toNat → s.team.priv = false →
      exec (.swrsr o) s = .next (s.takeTrap 3 0 0xFFFFFFFF#32 0 c.va c.va (some (c.hdr, c.n)))) ∧
    (Ready (.srdsr o) c s → 38 ≤ o.a.toNat → s.team.priv = true →
      exec (.srdsr o) s = .next (s.takeTrap 1 6 0xFFFFFFFF#32 0 c.va c.va (some (c.hdr, c.n)))) ∧
    (Ready (.swrsr o) c s → (o.d.toNat < 32 ∨ s.team.priv = true) → (∀ w, ¬ WriteSpecial s.team (s.sval o.a) o.d.toNat w) →
      exec (.swrsr o) s = .next (s.takeTrap 1 6 0xFFFFFFFF#32 0 c.va c.va (some (c.hdr, c.n))))

/-- R28: SRDSR of the status word of a tile that is not granted traps with BUDGET. -/
def Sys2Proof.Claims.StatusReadTraps : Prop :=
  ∀ (o : ROps) (c : Clause) (s : State), Ready (.srdsr o) c s → 22 ≤ o.a.toNat → o.a.toNat ≤ 29 → s.team.ga ≤ o.a.toNat - 22 →
    exec (.srdsr o) s = .next (trapAt s c 2 0 0xFFFFFFFF#32 0)

/-- R88: SLDK of an aligned word inside the 4,096-byte window; outside, the traps ALIGN and LSBOUNDS. -/
def Obligations.ArgumentLoadCompletes : Prop :=
  ∀ (o : ROps) (c : Clause) (s : State) (off : Nat), Ready (.sldk o) c s →
    off = ((s.sval o.a).toNat + (s.sval o.b).toNat) % 2 ^ 32 →
    (off % 4 = 0 → off < 4096 →
      ∃ t, exec (.sldk o) s = .next t ∧
        WroteScalar (.sldk o) c o.d.toNat
          (look 0 (off + 3) s.window ++ look 0 (off + 2) s.window ++ look 0 (off + 1) s.window ++ look 0 off s.window) s t) ∧
    (off % 4 ≠ 0 →
      exec (.sldk o) s = .next (s.takeTrap 4 0 0xFFFFFFFF#32 (BitVec.ofNat 32 off) c.va c.va (some (c.hdr, c.n)))) ∧
    (off % 4 = 0 → 4096 ≤ off →
      exec (.sldk o) s = .next (s.takeTrap 5 0 0xFFFFFFFF#32 (BitVec.ofNat 32 off) c.va c.va (some (c.hdr, c.n))))

/-- R84, R103, R211: NOP changes nothing; WAITC holds the team's later words until the counters of its set are at or below the
operand; SLEEP holds them unless its operand is 0. -/
def Sys2Proof.Claims.NopAndHoldsComplete : Prop :=
  ∀ (o : ROps) (c : Clause) (s : State),
    (Ready (.nop o) c s →
      ∃ t, exec (.nop o) s = .next t ∧ t.team = movedTo t.team s.team ∧ Advanced 1 c s.team t.team ∧ OnlyTeam 1 1 s t) ∧
    (Ready (.waitc o) c s →
      ∃ t, exec (.waitc o) s = .next t ∧
        t.team = { movedTo t.team s.team with wait := .counters o.d (s.sval o.a).toNat } ∧ Advanced 1 c s.team t.team ∧ OnlyTeam 1 1 s t) ∧
    (Ready (.sleep o) c s →
      ∃ t, exec (.sleep o) s = .next t ∧
        t.team = { movedTo t.team s.team with wait := if s.sval o.a = 0 then s.team.wait else .sleep (o.d.getLsbD 0) } ∧
        Advanced 1 c s.team t.team ∧ OnlyTeam 1 1 s t)

/-- R91, R92, R101: branches and jumps end their clause and change nothing but where execution goes on. -/
def Sys2Proof.Claims.BranchesComplete : Prop :=
  ∀ (i : Instr) (c : Clause) (s : State) (va : VA), Ready i c s → Goes s c i va →
    ∃ t, exec i s = .next t ∧ t.team = ended i c va s.team ∧ OnlyTeam 1 1 s t

/-- R97, R98: a call whose target passes and whose record and frame fit pushes its record at the larger of CTOP and PTOP and goes
to the target, one level deeper; a CALL whose condition fails only ends its clause. -/
def Sys2Proof.Claims.CallsComplete : Prop :=
  (∀ (i : Instr) (c : Clause) (s : State) (kind : Nat) (va : VA) (base : Nat), Ready i c s → Calls s c i kind va → TargetOk s va →
    base = max s.team.ctop s.team.ptop → s.team.depth ≠ 64 → base + 16 + frameBytes s va ≤ s.team.z →
    ∃ t, exec i s = .next t ∧
      t.team = { ended i c va s.team with
        depth := s.team.depth + 1, crec := some base, ctop := base + 16 + frameBytes s va, spill := t.team.spill } ∧
      SpillPut base (head kind (nextHeader c) (linkNow s.team) s.team.ctop) s.team t.team ∧ OnlyTeam 1 1 s t) ∧
  ∀ (o : IOps) (c : Clause) (s : State), Ready (.call o) c s → ¬ MaskCond o.a.toNat (s.mval o.d) s.execv →
    ∃ t, exec (.call o) s = .next t ∧ t.team = ended (.call o) c (nextHeader c) s.team ∧ OnlyTeam 1 1 s t

/-- R52, R97, R98: where a CALL that is taken, or a CALLS, stops. -/
def Sys2Proof.Claims.CallTraps : Prop :=
  ∀ (i : Instr) (c : Clause) (s : State) (kind : Nat) (va : VA) (base : Nat), Ready i c s → Calls s c i kind va →
    base = max s.team.ctop s.team.ptop → CallStops i c s va base 16

/-- R28, R89, R335: SRDSR and SWRSR of the special registers that may be read and written, with values that they may take; MSTATk of a tile
that is not granted traps. The model's own: a reading of CLKLO moves the count on by a free amount (assumption 24), a reading of DEADLINE counts
its own word as used (assumption 72), and outstanding MRDs keep the stream positions of the old SEED (assumption 20). -/
def Obligations.SpecialRegistersComplete : Prop := SpecialReadCompletes ∧ SpecialWriteCompletes ∧ StatusReadTraps

/-- R84, R91, R92, R101, R103, R211: NOP, WAITC, SLEEP, branches and jumps. -/
def Obligations.HoldsAndBranchesComplete : Prop := NopAndHoldsComplete ∧ BranchesComplete

namespace Sys2Proof.Claims

/-! ### Vector calls, returns, the end of a team -/

/-- The target that lane `k` of a vector call names: base plus its offset, modulo 2^56 (05 R99). -/
def laneTarget (s : State) (o : ROps) (k : Nat) : VA := BitVec.ofNat 56 ((s.spair o.b.toNat).toNat + (s.vreg o.a.toNat k).toNat)

/-- The size of a group record for the team's spans, a multiple of 16 (05 R96). -/
def groupBytes (u : Team) : Nat := (32 + 132 * u.spans + 15) / 16 * 16

/-- A group record (05 R96): head, base VA, 8 zero bytes, EXEC by spans, every lane's offset; zeros for lanes that the team does not have and to
its size, by the model's choice (assumption 73). -/
def groupRecord (s : State) (c : Clause) (o : ROps) : List Byte :=
  let bs := head 2 (nextHeader c) (linkNow s.team) s.team.ctop ++ leBytes 8 ((s.spair o.b.toNat).toNat % 2 ^ 56) ++ leBytes 8 0 ++
    (List.range s.team.spans).flatMap (fun j => leBytes 4 (spanWord s.execv j).toNat) ++
    (List.range (32 * s.team.spans)).flatMap fun k => leBytes 4 (s.vreg o.a.toNat k).toNat
  bs ++ List.replicate (groupBytes s.team - bs.length) 0

/-- Number in `n` bytes of the team's spill area at `a`. -/
def spillNum (u : Team) (a n : Nat) : Nat := getNum u.spill a n
/-- Lane `k` is in the EXEC that group record `g` saved. -/
def savedLane (u : Team) (g k : Nat) : Prop := k < u.lanes ∧ k < 1024 ∧ (spillNum u (g + 32 + 4 * (k / 32)) 4).testBit (k % 32) = true
/-- The target that group record `g` holds for lane `k`. -/
def savedTarget (u : Team) (g k : Nat) : VA := BitVec.ofNat 56 (spillNum u (g + 16) 7 + spillNum u (g + 32 + 4 * u.spans + 4 * k) 4)
/-- Lane `j` names a target of group `g` that no lower saved lane names, and lies above lane `f`. -/
def newTarget (u : Team) (g f j : Nat) : Prop :=
  savedLane u g j ∧ f < j ∧ ∀ k, k < j → savedLane u g k → savedTarget u g k ≠ savedTarget u g j
/-- LINK as a record holds it (05 R96). -/
def linkFrom (n : Nat) : Option Nat := if n = 0xFFFFFFFF then none else some n

end Sys2Proof.Claims

/-- R99: CALLV with EXEC empty only ends its clause. Otherwise, where the checks pass, it saves a group record, pushes an entry record
for the target of the lowest active lane, and runs the lanes that share this target. -/
def Sys2Proof.Claims.VectorCallCompletes : Prop :=
  ∀ (o : ROps) (c : Clause) (s : State), Ready (.callv o) c s → Granted [o.a.toNat] s →
    (s.active = [] → ∃ t, exec (.callv o) s = .next t ∧ t.team = ended (.callv o) c (nextHeader c) s.team ∧ OnlyTeam 1 1 s t) ∧
    ∀ (f base : Nat) (va : VA), s.active.head? = some f → va = laneTarget s o f → base = max s.team.ctop s.team.ptop →
      (∀ k ∈ s.active, (s.vreg o.a.toNat k).toNat % 4 = 0) → TargetOk s va → s.team.depth ≠ 64 →
      base + groupBytes s.team + 16 + frameBytes s va ≤ s.team.z →
      ∃ t, exec (.callv o) s = .next t ∧
        t.team = { ended (.callv o) c va s.team with
          depth := s.team.depth + 1, crec := some (base + groupBytes s.team)
          ctop := base + groupBytes s.team + 16 + frameBytes s va, spill := t.team.spill, exec := t.team.exec } ∧
        SpillPut base (groupRecord s c o ++ head 3 va base f) s.team t.team ∧
        (∀ k, t.team.exec.getLsbD k = true ↔ k ∈ s.active ∧ laneTarget s o k = va) ∧ OnlyTeam 1 1 s t

/-- R99: where CALLV stops: the lowest active lane whose offset is no multiple of 4 traps with ALIGN; then the target of the lowest active
lane, and the depth and space for both records. -/
def Sys2Proof.Claims.VectorCallTraps : Prop :=
  ∀ (o : ROps) (c : Clause) (s : State), Ready (.callv o) c s → Granted [o.a.toNat] s →
    (∀ k ∈ s.active, (s.vreg o.a.toNat k).toNat % 4 ≠ 0 → (∀ j ∈ s.active, j < k → (s.vreg o.a.toNat j).toNat % 4 = 0) →
      exec (.callv o) s = .next (trapAt s c 4 0 (BitVec.ofNat 32 k) (s.vreg o.a.toNat k))) ∧
    ∀ (f base : Nat), s.active.head? = some f → (∀ k ∈ s.active, (s.vreg o.a.toNat k).toNat % 4 = 0) →
      base = max s.team.ctop s.team.ptop → CallStops (.callv o) c s (laneTarget s o f) base (groupBytes s.team + 16)

/-- R100: RET with an empty call stack traps with SPILL, subcode 2. From a simple record it goes to the record's return address, one
level up. From an entry record it serves the group's next target, or, after the last one, restores EXEC and goes to the group's
return address. From a record of no such kind what it restores is free. What RET makes of a record that a program has overwritten is the
model's reading (assumption 19), EINFO 0 of the trap its choice (assumption 73). Where the next target of a group does not pass or its frame does
not fit, RET traps as a call does (R52, R97): that is left out here. -/
def Obligations.ReturnsComplete : Prop :=
  ∀ (o : ROps) (c : Clause) (s : State), Ready (.ret o) c s →
    (s.team.depth = 0 → exec (.ret o) s = .next (s.takeTrap 6 2 0xFFFFFFFF#32 0 c.va c.va (some (c.hdr, c.n)))) ∧
    (s.team.depth ≠ 0 → (∀ r, s.team.crec = some r → spillNum s.team (r + 7) 1 = 2 ∨ 3 < spillNum s.team (r + 7) 1) →
      ∃ t, exec (.ret o) s = .next t ∧ t.team.cl = none ∧ t.team.depth ≤ s.team.depth ∧
        t.team = { ended (.ret o) c t.team.pc s.team with
          ctop := t.team.ctop, crec := t.team.crec, depth := t.team.depth, exec := t.team.exec } ∧ OnlyTeam 1 1 s t) ∧
    ∀ r, s.team.depth ≠ 0 → s.team.crec = some r →
      (spillNum s.team (r + 7) 1 ≤ 1 → ∃ t, exec (.ret o) s = .next t ∧
        t.team = { ended (.ret o) c (BitVec.ofNat 56 (spillNum s.team r 7)) s.team with
          ctop := spillNum s.team (r + 12) 4, crec := linkFrom (spillNum s.team (r + 8) 4), depth := s.team.depth - 1 } ∧
        OnlyTeam 1 1 s t) ∧
      ∀ g f, spillNum s.team (r + 7) 1 = 3 → spillNum s.team (r + 8) 4 = g → spillNum s.team (r + 12) 4 = f →
        (∀ j base, newTarget s.team g f j → (∀ k, k < j → ¬ newTarget s.team g f k) → base = max (g + groupBytes s.team) s.team.ptop →
          TargetOk s (savedTarget s.team g j) → base + 16 + frameBytes s (savedTarget s.team g j) ≤ s.team.z →
          ∃ t, exec (.ret o) s = .next t ∧
            t.team = { ended (.ret o) c (savedTarget s.team g j) s.team with
              crec := some base, ctop := base + 16 + frameBytes s (savedTarget s.team g j), spill := t.team.spill, exec := t.team.exec } ∧
            SpillPut base (head 3 (savedTarget s.team g j) g j) s.team t.team ∧
            (∀ k, t.team.exec.getLsbD k = true ↔ savedLane s.team g k ∧ savedTarget s.team g k = savedTarget s.team g j) ∧
            OnlyTeam 1 1 s t) ∧
        ((∀ k, ¬ newTarget s.team g f k) → ∃ t, exec (.ret o) s = .next t ∧
          t.team = { ended (.ret o) c (BitVec.ofNat 56 (spillNum s.team g 7)) s.team with
            ctop := spillNum s.team (g + 12) 4, crec := linkFrom (spillNum s.team (g + 8) 4), depth := s.team.depth - 1
            exec := t.team.exec } ∧
          (∀ k, t.team.exec.getLsbD k = true ↔ savedLane s.team g k) ∧ OnlyTeam 1 1 s t)

/-- What becomes of the handles of a team that ends (05 R102): a DRAINING one, or one with a drain pending, stays until its drain completes, a
FILLING one until its sectors have arrived; every other one of the team is FREE; the entries of other teams are as before. -/
def Sys2Proof.Claims.HandlesLeft (s : State) (k : Core) : Prop :=
  ∀ n, (s.core.entry? n = none → k.entry? n = none) ∧ ∀ e, s.core.entry? n = some e →
    (e.team ≠ s.team.key → k.entry? n = some e) ∧
    (e.team = s.team.key → e.st = .draining ∨ e.st = .full ∧ e.drain = true → ∃ x, k.entry? n = some x ∧ x.st = .draining ∧ x.freed = true) ∧
    (e.team = s.team.key → e.st = .filling → s.ten.flying s.core.num n = true → ∃ x, k.entry? n = some x ∧ x.st = .filling ∧ x.freed = true) ∧
    (e.team = s.team.key → e.st ≠ .draining → ¬ (e.st = .full ∧ e.drain = true) → s.ten.flying s.core.num n = false → k.entry? n = none)

/-- R102: ENDT, with no matrix operation outstanding and no gang decision open, publishes the phase's records as a batch of SYSTEM
scope and ends the team, whose handles return; its block has one ended team more; every other team and every byte of main memory and
scratchpad are as before. -/
def Obligations.EndOfTeamCompletes : Prop :=
  ∀ (o : ROps) (c : Clause) (s : State), Ready (.endt o) c s → s.team.mc = 0 →
    (∀ l g, s.launch? = some l → l.gang = some g → g.decided = some true) →
    s.team.key ≠ 0 → s.blk.key ≠ 0 → (∀ x ∈ s.ten.teams, x.key ≠ s.team.key) → (∀ b ∈ s.ten.blocks, b.key ≠ s.blk.key) →
    s.core.there = true → (∀ k ∈ s.ten.cores, k.num ≠ s.core.num) → (s.core.bt.map (·.1)).Pairwise (· < ·) →
    ∃ t, exec (.endt o) s = .next t ∧ t.team = {} ∧
      (∀ x ∈ t.ten.teams, x.key = s.team.key → x.wait = .ended ∧ x.h = [] ∧ x.pend = []) ∧
      (∀ x ∈ t.ten.teams, x.key ≠ s.team.key → x ∈ s.ten.teams) ∧ (∀ x ∈ s.ten.teams, x.wait ≠ .ended → x ∈ t.ten.teams) ∧
      (∃ k, t.ten.core? s.core.num = some k ∧ HandlesLeft s k) ∧
      (∀ b ∈ t.ten.blocks, b.key = s.blk.key → b.ended = s.blk.ended + 1 ∧ b.ls = s.blk.ls) ∧
      (s.team.batch = [] → t.ten.queued = s.ten.queued) ∧
      (s.team.batch ≠ [] → ∃ b, t.ten.queued = s.ten.queued ++ [b] ∧ b.recs = s.team.batch ∧ b.dom = .system ∧ b.team = s.team.key) ∧
      (∀ sp a, (t.ten.space sp).get a = (s.ten.space sp).get a)

/-- R52, R97 to R99: CALL, CALLS and CALLV whose targets pass and whose records fit; a CALL not taken and a CALLV of no lane only end the
clause; and where they stop. The zeros that a group record holds for absent lanes and in its padding, and EINFO of the SPILL traps, are the
model's choice (assumption 73). -/
def Obligations.CallsAndVectorCallsComplete : Prop := CallsComplete ∧ VectorCallCompletes ∧ CallTraps ∧ VectorCallTraps

namespace Sys2Proof.Claims

/-! ### Masks (05 R104 to R110, R114) -/

/-- Mask register `d` of a team as stored, 16 being EXEC. -/
def maskNow (u : Team) (d : Nat) : Mask := if d = 16 then u.exec else look 0 d u.m

/-- Destination and lanes of an instruction whose result is one whole mask. -/
inductive MaskRule (s : State) : Instr → Nat → (Nat → Prop) → Prop
  | mand (o : ROps) : MaskRule s (.mand o) o.d.toNat fun k => (s.mval o.a).getLsbD k = true ∧ (s.mval o.b).getLsbD k = true
  | mor (o : ROps) : MaskRule s (.mor o) o.d.toNat fun k => (s.mval o.a).getLsbD k = true ∨ (s.mval o.b).getLsbD k = true
  | mxor (o : ROps) : MaskRule s (.mxor o) o.d.toNat fun k => (s.mval o.a).getLsbD k ≠ (s.mval o.b).getLsbD k
  | mandn (o : ROps) : MaskRule s (.mandn o) o.d.toNat fun k => (s.mval o.a).getLsbD k = true ∧ (s.mval o.b).getLsbD k = false
  | mnot (o : ROps) : MaskRule s (.mnot o) o.d.toNat fun k => (s.mval o.a).getLsbD k = false
  | mmov (o : ROps) : MaskRule s (.mmov o) o.d.toNat fun k => (s.mval o.a).getLsbD k = true
  | mseti (o : IOps) : MaskRule s (.mseti o) o.d.toNat fun k => o.imm.getLsbD (k % 32) = true
  | exset (o : ROps) : MaskRule s (.exset o) 16 fun k => (s.mval o.a).getLsbD k = true
  | qhelp (o : ROps) : MaskRule s (.qhelp o) o.d.toNat fun k => ∃ q, q < 4 ∧ (s.mval o.a).getLsbD (k / 4 * 4 + q) = true

/-- The state after mask `d` took the lanes of `P` below L, and nothing else changed. -/
def WroteMask (i : Instr) (c : Clause) (slot n : Nat) (d : Nat) (P : Nat → Prop) (s t : State) : Prop :=
  (∀ k, (maskNow t.team d).getLsbD k = true ↔ k < s.team.lanes ∧ k < 1024 ∧ P k) ∧
    (∀ e, e ≠ d → maskNow t.team e = maskNow s.team e) ∧
    t.team = { movedTo t.team s.team with m := t.team.m, exec := t.team.exec } ∧ Advanced (words i) c s.team t.team ∧ OnlyTeam slot n s t

/-- Destination and result of the instructions that reduce a mask (05 R108): the number of lanes in ma ∧ LIVE; the lowest of them. -/
inductive MaskCount (s : State) : Instr → Nat → Word → Prop
  | mcnt (o : ROps) : MaskCount s (.mcnt o) o.d.toNat
      (BitVec.ofNat 32 ((List.range s.team.lanes).filter fun k => (s.mval o.a).getLsbD k).length)
  | mfirst (o : ROps) (k : Nat) : k < s.team.lanes → (s.mval o.a).getLsbD k = true → (∀ j, j < k → (s.mval o.a).getLsbD j = false) →
      MaskCount s (.mfirst o) o.d.toNat (BitVec.ofNat 32 k)
  | mfirstNone (o : ROps) : (∀ k, k < s.team.lanes → (s.mval o.a).getLsbD k = false) → MaskCount s (.mfirst o) o.d.toNat 0xFFFFFFFF#32

end Sys2Proof.Claims

/-- R104 to R107, R114: an instruction with a mask as its result writes exactly the lanes of its rule that are live. -/
def Sys2Proof.Claims.MaskResultsComplete : Prop :=
  ∀ (i : Instr) (c : Clause) (s : State) (d : Nat) (P : Nat → Prop), Ready i c s → MaskRule s i d P →
    ∃ t, exec i s = .next t ∧ WroteMask i c 1 1 d P s t

/-- R107, R109, R110: EXENTER saves EXEC and narrows it; MPUTW replaces one span word of a mask, if it is a span of the team; VTOM
replaces the bits of active lanes. -/
def Sys2Proof.Claims.MaskUpdatesComplete : Prop :=
  ∀ (o : ROps) (c : Clause) (s : State),
    (Ready (.exenter o) c s → ∃ t, exec (.exenter o) s = .next t ∧
      (o.d.toNat ≠ 16 → ∀ k, (maskNow t.team o.d.toNat).getLsbD k = true ↔ k < s.team.lanes ∧ s.execv.getLsbD k = true) ∧
      (∀ k, t.team.exec.getLsbD k = true ↔ k < s.team.lanes ∧ s.execv.getLsbD k = true ∧ (s.mval o.a).getLsbD k = true) ∧
      (∀ e, e ≠ o.d.toNat → e ≠ 16 → maskNow t.team e = maskNow s.team e) ∧
      t.team = { movedTo t.team s.team with m := t.team.m, exec := t.team.exec } ∧ Advanced 1 c s.team t.team ∧ OnlyTeam 1 1 s t) ∧
    (Ready (.mputw o) c s → (s.sval o.a).toNat < s.team.spans → ∃ t, exec (.mputw o) s = .next t ∧
      WroteMask (.mputw o) c 1 1 o.d.toNat (fun k =>
        if k / 32 = (s.sval o.a).toNat then (s.sval o.b).getLsbD (k % 32) = true else (maskNow s.team o.d.toNat).getLsbD k = true) s t) ∧
    (Ready (.mputw o) c s → s.team.spans ≤ (s.sval o.a).toNat → ∃ t, exec (.mputw o) s = .next t ∧
      t.team = movedTo t.team s.team ∧ Advanced 1 c s.team t.team ∧ OnlyTeam 1 1 s t) ∧
    (Ready (.vtom o) c s → Granted [o.a.toNat] s → ∃ t, exec (.vtom o) s = .next t ∧
      WroteMask (.vtom o) c 0 s.passes o.d.toNat (fun k =>
        if k ∈ s.active then s.vreg o.a.toNat k ≠ 0 else (maskNow s.team o.d.toNat).getLsbD k = true) s t)

/-- R109: MGETW reads span word j of a mask, 0 from 32 on. -/
def Sys2Proof.Claims.MaskWordCompletes : Prop :=
  ∀ (o : ROps) (c : Clause) (s : State), Ready (.mgetw o) c s → ∃ t, exec (.mgetw o) s = .next t ∧
    WroteScalar (.mgetw o) c o.d.toNat
      (if (s.sval o.b).toNat < 32 then (s.mval o.a).extractLsb' (32 * (s.sval o.b).toNat) 32 else 0) s t

/-- R108: MCNT and MFIRST are R forms of opcodes 0x29 and 0x2A with a scalar destination, a mask source and B 0. MCNT counts the lanes in
ma ∧ LIVE, MFIRST gives the lowest of them or 0xFFFF_FFFF; helper lanes never count. -/
def Obligations.MaskCountRule : Prop :=
  (∀ (d a b : Byte) (rest : List Word), d.toNat < 128 → a.toNat < 19 →
    decode (wordOf 0x29 d a 0 :: rest) = .ok (.mcnt { d := d, a := a, b := 0 }, rest) ∧
    decode (wordOf 0x2A d a 0 :: rest) = .ok (.mfirst { d := d, a := a, b := 0 }, rest) ∧
    (b ≠ 0 → decode (wordOf 0x29 d a b :: rest) = .error .reserved ∧ decode (wordOf 0x2A d a b :: rest) = .error .reserved)) ∧
  (∀ (i : Instr) (c : Clause) (s : State) (d : Nat) (v : Word), Ready i c s → MaskCount s i d v →
    ∃ t, exec i s = .next t ∧ WroteScalar i c d v s t) ∧
  ∀ (o : ROps) (c : Clause) (s : State), Ready (.mcnt o) c s → s.team.lanes ≤ 1024 → o.a = 18 →
    ∃ t, exec (.mcnt o) s = .next t ∧ WroteScalar (.mcnt o) c o.d.toNat 0 s t

/-- R104 to R107, R109, R110, R114: every instruction that writes a mask, and MGETW. -/
def Obligations.MaskWritesComplete : Prop := MaskResultsComplete ∧ MaskUpdatesComplete ∧ MaskWordCompletes

namespace Sys2Proof.Claims

/-! ### Per-lane results (05 R111 to R113, 06 R115 to R143) -/

/-- The STATUS bits that the lanes of Active() raise (04 R67). -/
def raised (s : State) (g : Nat → Word) : Word := (s.active.map g).foldl (fun x y => x ||| y) 0

/-- The rounding mode of an instruction: its RM field, or the team's RM register for DYN (04 R68). -/
def modeOf (s : State) (o : XOps) : Nat := if o.rm = 5 then s.team.rm.toNat else o.rm.toNat
/-- An instruction whose mode is SR moves the stream position on by one (04 R69). -/
def stream (s : State) (o : XOps) : Word := if modeOf s o = 4 then s.team.spos + 1 else s.team.spos

/-- The state after vector register `d` took the values `f` in the lanes of Active() and of the helpers of swept spans (06 R115),
STATUS the bits `bits` and the stream position `pos`: every other lane and register is as before. -/
def WroteLanes (i : Instr) (c : Clause) (d : Nat) (f : Nat → Word) (bits pos : Word) (s t : State) : Prop :=
  (∀ r k, k < 1024 → look 0 (1024 * r + k) t.team.v = if r = d ∧ k ∈ s.active ++ s.helpers then f k else look 0 (1024 * r + k) s.team.v) ∧
    t.team = { movedTo t.team s.team with v := t.team.v, status := s.team.status ||| bits, spos := pos } ∧
    Advanced (words i) c s.team t.team ∧ OnlyTeamV [d] s t

/-- Bits [pos + w − 1 : pos] of a word (06 R131). -/
def bitField (a : Word) (pos w : Nat) : Nat := a.toNat / 2 ^ pos % 2 ^ w
/-- The width of a field at `pos`, cut at bit 31 (06 R131). -/
def cutWidth (pos len : Nat) : Nat := if 32 ≤ pos then 0 else min len (32 - pos)

/-- Destination, vector registers named, and lane values of the instructions that set no flag and draw nothing: integer and bit
operations, moves, quad exchanges, selection. `s.vreg r k` is lane `k` of register `r`. -/
inductive Lanes (s : State) : Instr → Nat → List Nat → (Nat → Word) → Prop
  | viadd (o : ROps) : Lanes s (.viadd o) o.d.toNat [o.d.toNat, o.a.toNat, o.b.toNat] fun k =>
      BitVec.ofNat 32 ((s.vreg o.a.toNat k).toNat + (s.vreg o.b.toNat k).toNat)
  | visub (o : ROps) : Lanes s (.visub o) o.d.toNat [o.d.toNat, o.a.toNat, o.b.toNat] fun k =>
      BitVec.ofInt 32 ((s.vreg o.a.toNat k).toInt - (s.vreg o.b.toNat k).toInt)
  | vimul (o : ROps) : Lanes s (.vimul o) o.d.toNat [o.d.toNat, o.a.toNat, o.b.toNat] fun k =>
      BitVec.ofNat 32 ((s.vreg o.a.toNat k).toNat * (s.vreg o.b.toNat k).toNat)
  | vand (o : ROps) : Lanes s (.vand o) o.d.toNat [o.d.toNat, o.a.toNat, o.b.toNat] fun k => s.vreg o.a.toNat k &&& s.vreg o.b.toNat k
  | vor (o : ROps) : Lanes s (.vor o) o.d.toNat [o.d.toNat, o.a.toNat, o.b.toNat] fun k => s.vreg o.a.toNat k ||| s.vreg o.b.toNat k
  | vxor (o : ROps) : Lanes s (.vxor o) o.d.toNat [o.d.toNat, o.a.toNat, o.b.toNat] fun k => s.vreg o.a.toNat k ^^^ s.vreg o.b.toNat k
  | vshl (o : ROps) : Lanes s (.vshl o) o.d.toNat [o.d.toNat, o.a.toNat, o.b.toNat] fun k =>
      BitVec.ofNat 32 ((s.vreg o.a.toNat k).toNat * 2 ^ (s.vreg o.b.toNat k).toNat)
  | vshr (o : ROps) : Lanes s (.vshr o) o.d.toNat [o.d.toNat, o.a.toNat, o.b.toNat] fun k =>
      BitVec.ofNat 32 ((s.vreg o.a.toNat k).toNat / 2 ^ (s.vreg o.b.toNat k).toNat)
  | vsra (o : ROps) : Lanes s (.vsra o) o.d.toNat [o.d.toNat, o.a.toNat, o.b.toNat] fun k =>
      BitVec.ofInt 32 ((s.vreg o.a.toNat k).toInt / 2 ^ (s.vreg o.b.toNat k).toNat)
  | vimulh (o : XOps) : Lanes s (.vimulh o) o.d.toNat [o.d.toNat, o.a.toNat, o.b.toNat] fun k =>
      if o.fn = 0 then BitVec.ofInt 32 ((s.vreg o.a.toNat k).toInt * (s.vreg o.b.toNat k).toInt / 2 ^ 32)
      else BitVec.ofNat 32 ((s.vreg o.a.toNat k).toNat * (s.vreg o.b.toNat k).toNat / 2 ^ 32)
  | vimin (o : XOps) : Lanes s (.vimin o) o.d.toNat [o.d.toNat, o.a.toNat, o.b.toNat] fun k =>
      if o.fn = 0 then BitVec.ofInt 32 (min (s.vreg o.a.toNat k).toInt (s.vreg o.b.toNat k).toInt)
      else BitVec.ofNat 32 (min (s.vreg o.a.toNat k).toNat (s.vreg o.b.toNat k).toNat)
  | vimax (o : XOps) : Lanes s (.vimax o) o.d.toNat [o.d.toNat, o.a.toNat, o.b.toNat] fun k =>
      if o.fn = 0 then BitVec.ofInt 32 (max (s.vreg o.a.toNat k).toInt (s.vreg o.b.toNat k).toInt)
      else BitVec.ofNat 32 (max (s.vreg o.a.toNat k).toNat (s.vreg o.b.toNat k).toNat)
  | vbit (o : XOps) (f : Nat → Word) : (∀ k, BitResult o.fn.toNat (s.vreg o.a.toNat k) (f k)) →
      Lanes s (.vbit o) o.d.toNat [o.d.toNat, o.a.toNat] f
  | vbfe (o : XOps) : Lanes s (.vbfe o) o.d.toNat [o.d.toNat, o.a.toNat, o.b.toNat] fun k =>
      let pos := (s.vreg o.b.toNat k).toNat
      let w := cutWidth pos o.lo8.toNat
      let x := bitField (s.vreg o.a.toNat k) pos w
      if o.fn = 1 ∧ 0 < w ∧ 2 ^ (w - 1) ≤ x then BitVec.ofInt 32 ((x : Int) - 2 ^ w) else BitVec.ofNat 32 x
  | vbfi (o : XOps) (f : Nat → Word) : (∀ k q, q < 32 → (f k).getLsbD q =
        let pos := (s.vreg o.b.toNat k).toNat
        if pos ≤ q ∧ q < pos + cutWidth pos o.lo8.toNat then (s.vreg o.a.toNat k).getLsbD (q - pos) else (s.vreg o.c.toNat k).getLsbD q) →
      Lanes s (.vbfi o) o.d.toNat [o.d.toNat, o.a.toNat, o.b.toNat, o.c.toNat] f
  | vmov (o : ROps) : Lanes s (.vmov o) o.d.toNat [o.d.toNat, o.a.toNat] fun k => s.vreg o.a.toNat k
  | vmovs (o : ROps) : Lanes s (.vmovs o) o.d.toNat [o.d.toNat] fun _ => s.sval o.a
  | vmovi (o : IOps) : Lanes s (.vmovi o) o.d.toNat [o.d.toNat] fun _ => o.imm
  | vlane (o : ROps) : Lanes s (.vlane o) o.d.toNat [o.d.toNat] fun k => BitVec.ofNat 32 k
  | viaddi (o : IOps) : Lanes s (.viaddi o) o.d.toNat [o.d.toNat, o.a.toNat] fun k =>
      BitVec.ofNat 32 ((s.vreg o.a.toNat k).toNat + o.imm.toNat)
  | mtov (o : ROps) : Lanes s (.mtov o) o.d.toNat [o.d.toNat] fun k => if (s.mval o.a).getLsbD k = true then 1 else 0
  | qswph (o : ROps) : Lanes s (.qswph o) o.d.toNat [o.d.toNat, o.a.toNat] fun k => s.vreg o.a.toNat (k ^^^ 1)
  | qswpv (o : ROps) : Lanes s (.qswpv o) o.d.toNat [o.d.toNat, o.a.toNat] fun k => s.vreg o.a.toNat (k ^^^ 2)
  | qswpd (o : ROps) : Lanes s (.qswpd o) o.d.toNat [o.d.toNat, o.a.toNat] fun k => s.vreg o.a.toNat (k ^^^ 3)
  | qbcst (o : ROps) : Lanes s (.qbcst o) o.d.toNat [o.d.toNat, o.a.toNat] fun k =>
      s.vreg o.a.toNat (4 * (k / 4) + (s.sval o.b).toNat % 4)
  | vsel (o : XOps) : Lanes s (.vsel o) o.d.toNat [o.d.toNat, o.a.toNat, o.b.toNat] fun k =>
      if (s.mval o.lo8).getLsbD k = true then s.opA o 0x80000000#32 k else s.opB o 0x80000000#32 k

/-- A lane as a cross-lane instruction reads it: 0 where no such lane exists (06 R141). -/
def laneOr0 (s : State) (r k : Nat) : Word := if k < 4 * ((s.team.lanes + 3) / 4) then s.vreg r k else 0

/-- The source lane of a shuffle in segments of `g` lanes (06 R142). -/
inductive ShuffleFrom (g k x : Nat) : Nat → Nat → Prop
  | idx : ShuffleFrom g k x 0 (k - k % g + x % g)
  | up : k % g ≥ x → ShuffleFrom g k x 1 (k - x)
  | upSelf : k % g < x → ShuffleFrom g k x 1 k
  | down : k % g + x < g → ShuffleFrom g k x 2 (k + x)
  | downSelf : g ≤ k % g + x → ShuffleFrom g k x 2 k
  | xor : ShuffleFrom g k x 3 (k - k % g + ((k % g) ^^^ (x % g)))

/-- The low and the high clamp of a 32-bit accumulator: signed or unsigned (06 R128, R133). -/
def clampTo (signed : Bool) (t : Int) : Int := if signed then max (-(2 ^ 31)) (min (2 ^ 31 - 1) t) else max 0 (min (2 ^ 32 - 1) t)
/-- An exact integer as result and OVERFLOW bit, with or without saturation. -/
def narrowInt (sat signed : Bool) (t : Int) : Word × Word :=
  if sat then (BitVec.ofInt 32 (clampTo signed t), if clampTo signed t = t then 0 else 16) else (BitVec.ofInt 32 t, 0)
/-- A word as an integer. -/
def asInt (signed : Bool) (x : Word) : Int := if signed then x.toInt else x.toNat
/-- Element `j` of width `w` of a word, as an integer (04 R62). -/
def elemInt (signed : Bool) (w j : Nat) (x : Word) : Int :=
  if signed then (x.extractLsb' (w * j) w).toInt else (x.extractLsb' (w * j) w).toNat

/-- The exact value of an integer multiply-add, saturating sum or dot product, its saturation and its signedness (06 R128, R133). -/
inductive IntSum (s : State) : Instr → Nat → List Nat → Bool → Bool → (Nat → Int) → Prop
  | vimad (o : XOps) : IntSum s (.vimad o) o.d.toNat [o.d.toNat, o.a.toNat, o.b.toNat, o.c.toNat] o.sat (o.fn == 0) fun k =>
      asInt (o.fn == 0) (s.vreg o.a.toNat k) * asInt (o.fn == 0) (s.vreg o.b.toNat k) + asInt (o.fn == 0) (s.vreg o.c.toNat k)
  | viaddsAdd (o : XOps) : o.fn.toNat < 2 → IntSum s (.viadds o) o.d.toNat [o.d.toNat, o.a.toNat, o.b.toNat] true (o.fn == 0) fun k =>
      asInt (o.fn == 0) (s.vreg o.a.toNat k) + asInt (o.fn == 0) (s.vreg o.b.toNat k)
  | viaddsSub (o : XOps) : 2 ≤ o.fn.toNat → IntSum s (.viadds o) o.d.toNat [o.d.toNat, o.a.toNat, o.b.toNat] true (o.fn == 2) fun k =>
      asInt (o.fn == 2) (s.vreg o.a.toNat k) - asInt (o.fn == 2) (s.vreg o.b.toNat k)
  | vidot4 (o : XOps) : IntSum s (.vidot4 o) o.d.toNat [o.d.toNat, o.a.toNat, o.b.toNat, o.c.toNat] o.sat (o.fn != 3) fun k =>
      asInt (o.fn != 3) (s.vreg o.c.toNat k) + ((List.range 4).map fun j =>
        elemInt (!o.fn.getLsbD 0) 8 j (s.vreg o.a.toNat k) * elemInt (!o.fn.getLsbD 1) 8 j (s.vreg o.b.toNat k)).sum
  | vidot8 (o : XOps) : IntSum s (.vidot8 o) o.d.toNat [o.d.toNat, o.a.toNat, o.b.toNat, o.c.toNat] o.sat (o.fn != 3) fun k =>
      asInt (o.fn != 3) (s.vreg o.c.toNat k) + ((List.range 8).map fun j =>
        elemInt (!o.fn.getLsbD 0) 4 j (s.vreg o.a.toNat k) * elemInt (!o.fn.getLsbD 1) 4 j (s.vreg o.b.toNat k)).sum

end Sys2Proof.Claims

/-- R112, R123, R127, R128, R130, R131, R134: lane results without flags. -/
def Sys2Proof.Claims.LaneResultsComplete : Prop :=
  ∀ (i : Instr) (c : Clause) (s : State) (d : Nat) (rs : List Nat) (f : Nat → Word), Ready i c s → Lanes s i d rs f → Granted rs s →
    ∃ t, exec i s = .next t ∧ WroteLanes i c d f 0 s.team.spos s t

/-- R128, R133: integer multiply-add, saturating sums and dot products; OVERFLOW is set when a clamp of an active lane changes its
value. -/
def Obligations.IntegerSumsComplete : Prop :=
  ∀ (i : Instr) (c : Clause) (s : State) (d : Nat) (rs : List Nat) (sat signed : Bool) (x : Nat → Int), Ready i c s →
    IntSum s i d rs sat signed x → Granted rs s →
    ∃ t, exec i s = .next t ∧
      WroteLanes i c d (fun k => (narrowInt sat signed (x k)).1) (raised s fun k => (narrowInt sat signed (x k)).2) s.team.spos s t

/-- R132: VIADD64, an R form of opcode 0x6C on vector pairs, adds 64-bit values, the low word in the named register and the high word in the
next; all four source words are read before a destination word is written, so the pairs may overlap. -/
def Obligations.PairAdditionRule : Prop :=
  (∀ (d a b : Byte) (rest : List Word), d.toNat ≤ 254 → a.toNat ≤ 254 → b.toNat ≤ 254 →
    decode (wordOf 0x6C d a b :: rest) = .ok (.viadd64 { d := d, a := a, b := b }, rest)) ∧
  ∀ (o : ROps) (c : Clause) (s : State), Ready (.viadd64 o) c s →
    Granted [o.d.toNat, o.d.toNat + 1, o.a.toNat, o.a.toNat + 1, o.b.toNat, o.b.toNat + 1] s →
    ∃ t, exec (.viadd64 o) s = .next t ∧
      (∀ k ∈ s.active ++ s.helpers, (look 0 (1024 * (o.d.toNat + 1) + k) t.team.v ++ look 0 (1024 * o.d.toNat + k) t.team.v : DWord).toNat =
        ((s.vpair o.a.toNat k).toNat + (s.vpair o.b.toNat k).toNat) % 2 ^ 64) ∧
      (∀ r k, k < 1024 → (r ≠ o.d.toNat ∧ r ≠ o.d.toNat + 1 ∨ k ∉ s.active ++ s.helpers) →
        look 0 (1024 * r + k) t.team.v = look 0 (1024 * r + k) s.team.v) ∧
      t.team = { movedTo t.team s.team with v := t.team.v } ∧ Advanced 1 c s.team t.team ∧
      t = { s with
        team := t.team, core := counted 0 s.passes s.core
        ten := { s.ten with
          mops := s.ten.mops.map fun m => MatOp.noteWrite s.team.key [o.d.toNat + 1] (MatOp.noteWrite s.team.key [o.d.toNat] m) } } ∧ SameBytes s t

/-- R142, R143: shuffles within segments of a span, and the broadcast of one lane to the team or to its span. -/
def Sys2Proof.Claims.LaneMovesComplete : Prop :=
  ∀ (o : XOps) (c : Clause) (s : State) (f : Nat → Word),
    (Ready (.vshfl o) c s → Granted (o.d.toNat :: o.a.toNat :: if o.fn = 0 then [o.b.toNat] else []) s →
      (∀ k, ∃ j, ShuffleFrom (2 ^ o.lo8.toNat) k (if o.fn = 0 then s.vreg o.b.toNat k else s.sval o.b).toNat o.fn.toNat j ∧
        f k = laneOr0 s o.a.toNat j) →
      ∃ t, exec (.vshfl o) s = .next t ∧ WroteLanes (.vshfl o) c o.d.toNat f 0 s.team.spos s t) ∧
    (Ready (.vbcst o) c s → Granted [o.d.toNat, o.a.toNat] s →
      (∀ k, f k = laneOr0 s o.a.toNat (if o.fn = 0 then (s.sval o.b).toNat else 32 * (k / 32) + (s.sval o.b).toNat % 32)) →
      ∃ t, exec (.vbcst o) s = .next t ∧ WroteLanes (.vbcst o) c o.d.toNat f 0 s.team.spos s t)

/-- R112, R123, R127, R128, R130, R131, R134, R142, R143: lane results without flags; shuffles and broadcasts. -/
def Obligations.VectorResultsComplete : Prop := LaneResultsComplete ∧ LaneMovesComplete

namespace Sys2Proof.Claims

/-! ### Floating-point and conversion results (04 R64 to R76, 06 R116 to R140) -/

/-- The rounding context of an instruction: its mode, SEED and the stream position (04 R68, R69). -/
def rounding (s : State) (o : XOps) : RCtx := { mode := modeOf s o, seed := s.team.seed, pos := s.team.spos }
/-- The FP32 values of lane `k` of A, B and C after ABSA, NA, NB and NC (06 R116). -/
def fA (s : State) (o : XOps) (k : Nat) : Fv := f32 (s.opA o 0x80000000#32 k)
def fB (s : State) (o : XOps) (k : Nat) : Fv := f32 (s.opB o 0x80000000#32 k)
def fC (s : State) (o : XOps) (k : Nat) : Fv := f32 (s.opC o 0x80000000#32 k)
/-- A scalar source in the place of B (06 R118). -/
def fS (s : State) (o : XOps) : Fv := f32 (signB o 0x80000000#32 (s.sval o.b))

/-- An exact value `x` computed from `ops` in lane `k`, rounded once to FP32; an infinity clamped under SAT, which sets OVERFLOW; INVALID
when a NaN comes from no NaN (04 R65, 06 R118). -/
def once (s : State) (o : XOps) (k : Nat) (ops : List Fv) (x : Fv) : Word × Word :=
  let r := (rounding s o).r32 k 0 x
  let bits := if x.isNan && !ops.any Fv.isNan then 8 else 0
  match o.sat, f32 r with
  | true, .inf n => (if n then 0xFF7FFFFF else 0x7F7FFFFF, bits ||| 16)
  | _, _ => (r, bits)

/-- The exact sum; a zero sum of opposite signs is −0 only under RDN (04 R66). -/
def exactSum (s : State) (o : XOps) (xs : List Fv) : Fv := fsum (modeOf s o == 2) xs

/-- Destination, vector registers named, and results with STATUS bits of FP32 arithmetic (06 R118, R119). -/
inductive Floats (s : State) : Instr → XOps → List Nat → (Nat → Word × Word) → Prop
  | vfadd (o : XOps) : Floats s (.vfadd o) o [o.d.toNat, o.a.toNat, o.b.toNat] fun k =>
      once s o k [fA s o k, fB s o k] (exactSum s o [fA s o k, fB s o k])
  | vfsub (o : XOps) : Floats s (.vfsub o) o [o.d.toNat, o.a.toNat, o.b.toNat] fun k =>
      once s o k [fA s o k, fB s o k] (exactSum s o [fA s o k, (fB s o k).negate])
  | vfmul (o : XOps) : Floats s (.vfmul o) o [o.d.toNat, o.a.toNat, o.b.toNat] fun k =>
      once s o k [fA s o k, fB s o k] ((fA s o k).mul (fB s o k))
  | vfma (o : XOps) : Floats s (.vfma o) o [o.d.toNat, o.a.toNat, o.b.toNat, o.c.toNat] fun k =>
      once s o k [fA s o k, fB s o k, fC s o k] (exactSum s o [(fA s o k).mul (fB s o k), fC s o k])
  | vfadds (o : XOps) : Floats s (.vfadds o) o [o.d.toNat, o.a.toNat] fun k =>
      once s o k [fA s o k, fS s o] (exactSum s o [fA s o k, fS s o])
  | vfmuls (o : XOps) : Floats s (.vfmuls o) o [o.d.toNat, o.a.toNat] fun k =>
      once s o k [fA s o k, fS s o] ((fA s o k).mul (fS s o))
  | vfmas (o : XOps) : Floats s (.vfmas o) o [o.d.toNat, o.a.toNat, o.c.toNat] fun k =>
      once s o k [fA s o k, fS s o, fC s o k] (exactSum s o [(fA s o k).mul (fS s o), fC s o k])
  | vfdiv (o : XOps) : Floats s (.vfdiv o) o [o.d.toNat, o.a.toNat, o.b.toNat] fun k =>
      once s o k [fA s o k, fB s o k] ((fA s o k).div (fB s o k))
  | vfsqrt (o : XOps) : Floats s (.vfsqrt o) o [o.d.toNat, o.a.toNat] fun k => once s o k [fA s o k] (fA s o k).sqrt
  | vfrcp (o : XOps) : Floats s (.vfrcp o) o [o.d.toNat, o.a.toNat] fun k => once s o k [fA s o k] (fA s o k).rcp
  | vfrsq (o : XOps) : Floats s (.vfrsq o) o [o.d.toNat, o.a.toNat] fun k => once s o k [fA s o k] (fA s o k).rsq
  | vfexp2 (o : XOps) : Floats s (.vfexp2 o) o [o.d.toNat, o.a.toNat] fun k => once s o k [fA s o k] (fA s o k).exp2
  | vflog2 (o : XOps) : Floats s (.vflog2 o) o [o.d.toNat, o.a.toNat] fun k => once s o k [fA s o k] (fA s o k).log2
  | vfsinpi (o : XOps) : Floats s (.vfsinpi o) o [o.d.toNat, o.a.toNat] fun k => once s o k [fA s o k] (fA s o k).sinpi
  | vfcospi (o : XOps) : Floats s (.vfcospi o) o [o.d.toNat, o.a.toNat] fun k => once s o k [fA s o k] (fA s o k).cospi
  | vfldexp (o : XOps) : Floats s (.vfldexp o) o [o.d.toNat, o.a.toNat, o.b.toNat] fun k =>
      once s o k [fA s o k] (match fA s o k with
        | .fin n m e => .fin n m (e + (s.vreg o.b.toNat k).toInt)
        | x => x)
  | vfrnd (o : XOps) : Floats s (.vfrnd o) o [o.d.toNat, o.a.toNat] fun k =>
      (roundIntegral (rounding s o) k (s.opA o 0x80000000#32 k), 0)

/-- A pattern of NaN. -/
def IsNan32 (x : Word) : Prop := 0x7F800000 < x.toNat % 2 ^ 31
/-- `x` is not above `y`, −0 lying below +0. -/
def notAbove (x y : Word) : Prop := (f32 x).cmp (f32 y) < 0 ∨ (f32 x).cmp (f32 y) = 0 ∧ (y.msb = true → x.msb = true)
/-- The lesser or the greater of two numbers; a number rather than NaN; the canonical NaN for two (04 R71). -/
def Extreme (least : Bool) (a b v : Word) : Prop :=
  (IsNan32 a → IsNan32 b → v = 0x7FC00000) ∧ (IsNan32 a → ¬ IsNan32 b → v = b) ∧ (¬ IsNan32 a → IsNan32 b → v = a) ∧
    (¬ IsNan32 a → ¬ IsNan32 b → (v = a ∨ v = b) ∧ if least then notAbove v a ∧ notAbove v b else notAbove a v ∧ notAbove b v)

/-- Element `e` of a packed 16-bit operand (04 R62). -/
def half (o : XOps) (e : Nat) (x : Word) : Fv := (fmtOfCode o.lo8.toNat).unpack ((x.extractLsb' (16 * e) 16).toNat)
/-- Two 16-bit results with their bits as one lane. -/
def packed (f : Nat → Nat × Word) : Word × Word := (BitVec.ofNat 32 ((f 0).1 + 65536 * (f 1).1), (f 0).2 ||| (f 1).2)
/-- An element's exact value rounded once to its format, an infinity clamped under SAT (06 R124). -/
def halfOnce (s : State) (o : XOps) (k e : Nat) (ops : List Fv) (x : Fv) : Nat × Word :=
  let f := fmtOfCode o.lo8.toNat
  let r := (f.round (modeOf s o) ((rounding s o).draw k e) x).1
  let bits := if x.isNan && !ops.any Fv.isNan then 8 else 0
  match o.sat, f.unpack r with
  | true, .inf n => (f.maxPat n, bits ||| 16)
  | _, _ => (r, bits)

/-- Packed arithmetic and dot products (06 R124 to R126). -/
inductive Packed (s : State) : Instr → XOps → List Nat → (Nat → Word × Word) → Prop
  | vhadd (o : XOps) : Packed s (.vhadd o) o [o.d.toNat, o.a.toNat, o.b.toNat] fun k => packed fun e =>
      let x := half o e (s.opA o 0x80008000#32 k)
      let y := half o e (s.opB o 0x80008000#32 k)
      halfOnce s o k e [x, y] (exactSum s o [x, y])
  | vhmul (o : XOps) : Packed s (.vhmul o) o [o.d.toNat, o.a.toNat, o.b.toNat] fun k => packed fun e =>
      let x := half o e (s.opA o 0x80008000#32 k)
      let y := half o e (s.opB o 0x80008000#32 k)
      halfOnce s o k e [x, y] (x.mul y)
  | vhfma (o : XOps) : Packed s (.vhfma o) o [o.d.toNat, o.a.toNat, o.b.toNat, o.c.toNat] fun k => packed fun e =>
      let x := half o e (s.opA o 0x80008000#32 k)
      let y := half o e (s.opB o 0x80008000#32 k)
      let z := half o e (s.opC o 0x80008000#32 k)
      halfOnce s o k e [x, y, z] (exactSum s o [x.mul y, z])
  | vhdot2 (o : XOps) : Packed s (.vhdot2 o) o [o.d.toNat, o.a.toNat, o.b.toNat, o.c.toNat] fun k =>
      let x e := half o e (s.opA o 0x80008000#32 k)
      let y e := half o e (s.opB o 0x80008000#32 k)
      once s o k [x 0, x 1, y 0, y 1, fC s o k] (exactSum s o [(x 0).mul (y 0), (x 1).mul (y 1), fC s o k])
  | vfdot4 (o : XOps) : Packed s (.vfdot4 o) o [o.d.toNat, o.a.toNat, o.b.toNat, o.c.toNat] fun k =>
      let x j := (fmtOfCode o.loNib.toNat).unpack ((s.opA o 0x80808080#32 k).extractLsb' (8 * j) 8).toNat
      let y j := (fmtOfCode o.hiNib.toNat).unpack ((s.opB o 0x80808080#32 k).extractLsb' (8 * j) 8).toNat
      once s o k [x 0, x 1, x 2, x 3, y 0, y 1, y 2, y 3, fC s o k]
        (exactSum s o [(x 0).mul (y 0), (x 1).mul (y 1), (x 2).mul (y 2), (x 3).mul (y 3), fC s o k])

/-- Results with STATUS bits of the quad derivatives (05 R113). -/
inductive Nearest (s : State) : Instr → Nat → List Nat → (Nat → Word × Word) → Prop
  | qddx (o : ROps) : Nearest s (.qddx o) o.d.toNat [o.d.toNat, o.a.toNat] fun k =>
      diff (s.vreg o.a.toNat (2 * (k / 2) + 1)) (s.vreg o.a.toNat (2 * (k / 2)))
  | qddy (o : ROps) : Nearest s (.qddy o) o.d.toNat [o.d.toNat, o.a.toNat] fun k =>
      diff (s.vreg o.a.toNat (4 * (k / 4) + k % 2 + 2)) (s.vreg o.a.toNat (4 * (k / 4) + k % 2))

/-! #### Conversions over rational numbers (04 R57 to R63, R68, R69, R72 to R76) -/

/-- What a pattern stands for: NaN, an infinity, or a sign and a magnitude (04 R57, R58). -/
inductive Quantity where
  | nan
  | inf (neg : Bool)
  | mag (neg : Bool) (x : ℚ)
  deriving DecidableEq

/-- Exponent bits, fraction bits and bias of the floating format with code `c` (04 R57, R63). -/
def layoutOf (c : Nat) : Nat × Nat × Int :=
  match c with
  | 1 => (5, 10, 15)
  | 2 => (8, 7, 127)
  | 3 => (4, 3, 7)
  | 4 => (5, 2, 15)
  | 5 => (2, 1, 1)
  | _ => (8, 23, 127)
/-- The largest finite value of a floating format (04 R57). -/
def largest (c : Nat) : ℚ :=
  match c with
  | 1 => 65504
  | 2 => 255 * 2 ^ 120
  | 3 => 448
  | 4 => 57344
  | 5 => 6
  | _ => (2 ^ 24 - 1) * 2 ^ 104
/-- Bits of an element of format `c` (04 R57, R61). -/
def elemBits (c : Nat) : Nat :=
  match c with
  | 0 | 12 | 13 => 32
  | 1 | 2 | 10 | 11 => 16
  | 3 | 4 | 8 | 9 => 8
  | _ => 4
/-- The integer in a pattern of an integer format, and the ends of its range (04 R61). -/
def intIn (c x : Nat) : Int := if c % 2 = 0 ∧ 2 ^ (elemBits c - 1) ≤ x then (x : Int) - 2 ^ elemBits c else x
def lowInt (c : Nat) : Int := if c % 2 = 0 then -(2 ^ (elemBits c - 1)) else 0
def highInt (c : Nat) : Int := if c % 2 = 0 then 2 ^ (elemBits c - 1) - 1 else 2 ^ elemBits c - 1

/-- The value of pattern `x` of format `c` (04 R57, R58, R60, R61). -/
def numOf (c x : Nat) : Quantity :=
  if 6 ≤ c then .mag (decide (intIn c x < 0)) |(intIn c x : ℚ)|
  else
    let (eb, mb, bias) := layoutOf c
    let neg := x.testBit (eb + mb)
    let e := x / 2 ^ mb % 2 ^ eb
    let f := x % 2 ^ mb
    if c = 3 ∧ x % 128 = 127 then .nan
    else if c ≠ 3 ∧ c ≠ 5 ∧ e = 2 ^ eb - 1 then (if f = 0 then .inf neg else .nan)
    else if e = 0 then .mag neg (f * (2 : ℚ) ^ (1 - bias - mb))
    else .mag neg ((2 ^ mb + f) * (2 : ℚ) ^ ((e : Int) - bias - mb))

/-- The spacing of format `c` at magnitude `m`, with the exponent unbounded above (04 R69); 1 for integers. -/
def spacing (c : Nat) (m : ℚ) : ℚ :=
  if 6 ≤ c then 1 else (2 : ℚ) ^ (max (Int.log 2 m) (1 - (layoutOf c).2.2) - (layoutOf c).2.1)
/-- Whether the rest `f` above the `n`-th multiple of the spacing moves a magnitude to the next one (04 R68, R69). -/
def MovesUp (mode draw : Nat) (neg : Bool) (n : Int) (f : ℚ) : Prop :=
  match mode with
  | 0 => 1 / 2 < f ∨ f = 1 / 2 ∧ n % 2 = 1
  | 1 => False
  | 2 => neg = true ∧ 0 < f
  | 3 => neg = false ∧ 0 < f
  | _ => 2 ^ 24 ≤ ⌊f * 2 ^ 24⌋ + (draw : Int)
/-- Magnitude `m` rounds to `y` in format `c`. -/
def RoundsTo (c mode draw : Nat) (neg : Bool) (m y : ℚ) : Prop :=
  let n := ⌊m / spacing c m⌋
  let up := MovesUp mode draw neg n (m / spacing c m - n)
  (up → y = (n + 1) * spacing c m) ∧ (¬ up → y = n * spacing c m)

/-- The canonical NaN of a narrowing, 0 where the format has none (04 R57, R73, R74). -/
def nanOf (c : Nat) : Nat :=
  match c with
  | 1 => 0x7E00
  | 2 => 0x7FC0
  | 3 => 0x7F
  | 4 => 0x7E
  | _ => 0
/-- Pattern `r` and STATUS bits `bits` of narrowing `v` to format `c` under overflow entry `e`, an infinity saturating if `sat` (04 R72 to
R74). -/
def Narrowed (e c mode draw : Nat) (sat : Bool) (v : Quantity) (r : Nat) (bits : Word) : Prop :=
  r < 2 ^ elemBits c ∧
    match v with
    | .nan => r = nanOf c ∧ bits = if 5 ≤ c then 8 else 0
    | .inf n =>
      if 6 ≤ c then intIn c r = (if n then lowInt c else highInt c) ∧ bits = 16
      else if c = 5 ∨ sat = true ∨ c = 3 ∧ e = 0 then numOf c r = .mag n (largest c) ∧ bits = 16
      else if c = 3 then r = nanOf c ∧ bits = 0
      else numOf c r = .inf n ∧ bits = 0
    | .mag n m => ∃ y, RoundsTo c mode draw n m y ∧
      if 6 ≤ c then ∃ z : Int, (z : ℚ) = (if n then -y else y) ∧ intIn c r = max (lowInt c) (min (highInt c) z) ∧
        bits = if lowInt c ≤ z ∧ z ≤ highInt c then 0 else 16
      else if y ≤ largest c then numOf c r = .mag n y ∧ bits = 0
      else bits = 16 ∧
        if c = 5 ∨ e = 0 then numOf c r = .mag n (largest c)
        else if e = 1 ∧ c ≠ 3 then
          numOf c r = if mode = 1 ∨ mode = 2 ∧ n = false ∨ mode = 3 ∧ n = true then .mag n (largest c) else .inf n
        else r = nanOf c
/-- The overflow entry of format code `c`: entry 0 under SAT (04 R72, R73). -/
def entryFor (s : State) (sat : Bool) (c : Nat) : Nat := if sat then 0 else s.ovt.toNat / 4 ^ (c - 1) % 4

/-- An exact quotient and an exact product by an E4M3 scale (06 R136, R138). -/
def quotient : Quantity → Quantity → Quantity
  | .mag n x, .mag k y => if y = 0 then (if x = 0 then .nan else .inf (n != k)) else .mag (n != k) (x / y)
  | .inf n, .mag k _ => .inf (n != k)
  | _, _ => .nan
def product : Quantity → Quantity → Quantity
  | .mag n x, .mag k y => .mag (n != k) (x * y)
  | .inf n, .mag k y => if y = 0 then .nan else .inf (n != k)
  | _, _ => .nan
/-- A NaN from values that are none raises INVALID (04 R65). -/
def invalidBit (x y z : Quantity) : Word := if z = .nan ∧ x ≠ .nan ∧ y ≠ .nan then 8 else 0

/-- FP32 word `r` with STATUS bits `bits` of an exact value (06 R138). -/
def Exactly (v : Quantity) (r bits : Word) : Prop :=
  match v with
  | .nan => r = 0x7FC00000 ∧ bits = 0
  | .inf n => numOf 0 r.toNat = .inf n ∧ bits = 0
  | .mag n m => if m ≤ largest 0 then numOf 0 r.toNat = .mag n m ∧ bits = 0 else numOf 0 r.toNat = .inf n ∧ bits = 16
/-- Element `x` of format `c` widened in form `fn`, with scale `y` (06 R138). -/
def Widened (c fn x y : Nat) (r bits : Word) : Prop :=
  match fn with
  | 0 => Exactly (numOf c x) r bits
  | 1 => r = BitVec.ofInt 32 (intIn c x) ∧ bits = 0
  | _ => ∃ b, Exactly (product (numOf c x) (numOf 3 y)) r b ∧
      bits = b ||| invalidBit (numOf c x) (numOf 3 y) (product (numOf c x) (numOf 3 y))

/-- T_max of a target (04 R76), and whether scale `p` is large enough for a value. -/
def targetMax (t : Nat) : ℚ := if 6 ≤ t then highInt t else largest t
def ScaleFits (t p : Nat) (x : Quantity) : Prop := ∃ n m y, x = .mag n m ∧ numOf 3 p = .mag false y ∧ m ≤ targetMax t * y
/-- The block scale of the values `xs` for target `t` (04 R76). -/
def ScaleIs (t : Nat) (xs : List Quantity) (r : Nat) (bits : Word) : Prop :=
  if .nan ∈ xs then r = 0x7F ∧ bits = 8
  else 0 < r ∧ r ≤ 0x7E ∧ (∀ p, 0 < p → p < r → ∃ x ∈ xs, ¬ ScaleFits t p x) ∧ ((∀ x ∈ xs, ScaleFits t r x) ∨ r = 0x7E) ∧
    bits = if xs = [] then 1 else 0

/-- Element `j`, `w` bits wide, of a word (04 R62). -/
def elemOf (w j : Nat) (x : Word) : Nat := x.toNat / 2 ^ (w * j) % 2 ^ w

/-- Destination, vector registers named, the stream position left, and what holds of each lane's result and STATUS bits, for conversions,
narrowing, widening and block scales (06 R135, R136, R138 to R140). -/
inductive Conversions (s : State) : Instr → Nat → List Nat → Word → (Nat → Word → Word → Prop) → Prop
  | vcvtFromF32 (o : XOps) : o.loNib = 0 → Conversions s (.vcvt o) o.d.toNat [o.d.toNat, o.a.toNat] (stream s o) fun k r b =>
      Narrowed 0 o.hiNib.toNat (modeOf s o) ((rounding s o).draw k 0) false (numOf 0 (s.opA o 0x80000000#32 k).toNat) r.toNat b
  | vcvtToF32 (o : XOps) : o.loNib ≠ 0 → o.hiNib = 0 → Conversions s (.vcvt o) o.d.toNat [o.d.toNat, o.a.toNat] (stream s o) fun k r b =>
      let z := intIn o.loNib.toNat (s.vreg o.a.toNat k).toNat
      b = 0 ∧ ∃ y, RoundsTo 0 (modeOf s o) ((rounding s o).draw k 0) (decide (z < 0)) |(z : ℚ)| y ∧
        numOf 0 r.toNat = .mag (decide (z < 0)) y
  | vcvtInts (o : XOps) : o.loNib ≠ 0 → o.hiNib ≠ 0 → Conversions s (.vcvt o) o.d.toNat [o.d.toNat, o.a.toNat] (stream s o) fun k r b =>
      let z := intIn o.loNib.toNat (s.vreg o.a.toNat k).toNat
      intIn o.hiNib.toNat r.toNat = max (lowInt o.hiNib.toNat) (min (highInt o.hiNib.toNat) z) ∧
        b = if lowInt o.hiNib.toNat ≤ z ∧ z ≤ highInt o.hiNib.toNat then 0 else 16
  | vcvtn (o : XOps) : Conversions s (.vcvtn o) o.d.toNat ([o.d.toNat, o.a.toNat] ++ if o.fn = 1 then [o.b.toNat] else []) (stream s o)
      fun k r b =>
        let c := o.hiNib.toNat
        let j := o.loNib.toNat
        let x := numOf 0 (s.opA o 0x80000000#32 k).toNat
        let y := numOf 3 ((s.vreg o.b.toNat k).toNat % 256)
        let q := if o.fn = 1 then quotient x y else x
        ∃ z f, Narrowed (entryFor s o.sat c) c (modeOf s o) ((rounding s o).draw k j) o.sat q z f ∧
          b = f ||| (if o.fn = 1 then invalidBit x y q else 0) ∧
          ∀ e, e < 32 / elemBits c → elemOf (elemBits c) e r = if e = j then z else elemOf (elemBits c) e (s.vreg o.d.toNat k)
  | vpk16 (o : XOps) : Conversions s (.vpk16 o) o.d.toNat [o.d.toNat, o.a.toNat, o.b.toNat] (stream s o) fun k r b =>
      let c := o.lo8.toNat
      ∃ f g, b = f ||| g ∧
        Narrowed (entryFor s o.sat c) c (modeOf s o) ((rounding s o).draw k 0) o.sat (numOf 0 (s.opA o 0x80000000#32 k).toNat)
          (elemOf 16 0 r) f ∧
        Narrowed (entryFor s o.sat c) c (modeOf s o) ((rounding s o).draw k 1) o.sat (numOf 0 (s.opB o 0x80000000#32 k).toNat)
          (elemOf 16 1 r) g
  | vcvtw (o : XOps) : Conversions s (.vcvtw o) o.d.toNat ([o.d.toNat, o.a.toNat] ++ if o.fn = 2 then [o.b.toNat] else []) s.team.spos
      fun k r b => Widened o.hiNib.toNat o.fn.toNat (elemOf (elemBits o.hiNib.toNat) o.loNib.toNat (s.vreg o.a.toNat k))
        ((s.vreg o.b.toNat k).toNat % 256) r b
  | vblksc (o : XOps) : Conversions s (.vblksc o) o.d.toNat [o.d.toNat, o.a.toNat] s.team.spos fun k r b =>
      ScaleIs o.lo8.toNat ((s.active.filter fun j => j / 32 == k / 32).map fun j => numOf 0 (s.vreg o.a.toNat j).toNat) r.toNat b

/-- The class of an FP32 pattern, as the number of its set bit (06 R122). -/
def classIs (x : Word) : Nat :=
  let f := x.toNat % 2 ^ 23
  let e := x.toNat / 2 ^ 23 % 2 ^ 8
  if e = 255 ∧ f ≠ 0 then 8
  else if e = 255 then (if x.msb then 0 else 7)
  else if 0 < e then (if x.msb then 1 else 6)
  else if f ≠ 0 then (if x.msb then 2 else 5)
  else if x.msb then 3 else 4

/-- The relation numbered `fn` of 06 R121 between two values. -/
def FloatCond (fn : Nat) (x y : Fv) : Prop :=
  if x.isNan = true ∨ y.isNan = true then fn = 1 ∨ fn = 6
  else match fn with
    | 0 => x.cmp y = 0
    | 1 => x.cmp y ≠ 0
    | 2 => x.cmp y < 0
    | 3 => x.cmp y ≤ 0
    | 4 => x.cmp y > 0
    | 5 => x.cmp y ≥ 0
    | 6 => False
    | _ => True

/-- Destination, vector registers named, and lanes of the comparisons. -/
inductive Compares (s : State) : Instr → Nat → List Nat → (Nat → Prop) → Prop
  | vfcmp (o : XOps) : Compares s (.vfcmp o) o.d.toNat [o.a.toNat, o.b.toNat] fun k => FloatCond o.fn.toNat (fA s o k) (fB s o k)
  | vicmp (o : XOps) : Compares s (.vicmp o) o.d.toNat [o.a.toNat, o.b.toNat] fun k =>
      Cond o.fn.toNat (s.vreg o.a.toNat k) (s.vreg o.b.toNat k)
  | vfclass (o : XOps) : Compares s (.vfclass o) o.d.toNat [o.a.toNat] fun k =>
      (o.lo8.toNat + 256 * o.c.toNat).testBit (classIs (s.opA o 0x80000000#32 k)) = true

end Sys2Proof.Claims

/-- R64 to R70, R115 to R120: FP32 arithmetic rounds the exact result once. For VFEXP2, VFLOG2, VFSINPI and VFCOSPI the value that is rounded is
the model's fixed-point evaluation of the function, a reading of its own (assumption 66). -/
def Obligations.FloatArithmeticCompletes : Prop :=
  ∀ (i : Instr) (o : XOps) (c : Clause) (s : State) (rs : List Nat) (g : Nat → Word × Word), Ready i c s → Floats s i o rs g →
    Granted rs s → ∃ t, exec i s = .next t ∧
      WroteLanes i c o.d.toNat (fun k => (g k).1) (raised s fun k => (g k).2) (stream s o) s t

/-- R71: VFMIN and VFMAX write one of their operands, or the canonical NaN for two NaNs, and set no STATUS bit. -/
def Obligations.MinimumNumberCompletes : Prop :=
  ∀ (o : XOps) (c : Clause) (s : State), Granted [o.d.toNat, o.a.toNat, o.b.toNat] s →
    (Ready (.vfmin o) c s → ∃ t f, exec (.vfmin o) s = .next t ∧ WroteLanes (.vfmin o) c o.d.toNat f 0 s.team.spos s t ∧
      ∀ k, Extreme true (s.opA o 0x80000000#32 k) (s.opB o 0x80000000#32 k) (f k)) ∧
    (Ready (.vfmax o) c s → ∃ t f, exec (.vfmax o) s = .next t ∧ WroteLanes (.vfmax o) c o.d.toNat f 0 s.team.spos s t ∧
      ∀ k, Extreme false (s.opA o 0x80000000#32 k) (s.opB o 0x80000000#32 k) (f k))

/-- R68, R124 to R126: packed arithmetic and dot products. -/
def Sys2Proof.Claims.PackedResultsComplete : Prop :=
  ∀ (i : Instr) (o : XOps) (c : Clause) (s : State) (rs : List Nat) (g : Nat → Word × Word), Ready i c s → Packed s i o rs g →
    Granted rs s → ∃ t, exec i s = .next t ∧
      WroteLanes i c o.d.toNat (fun k => (g k).1) (raised s fun k => (g k).2) (stream s o) s t

/-- R113: quad derivatives. -/
def Sys2Proof.Claims.NearestResultsComplete : Prop :=
  ∀ (i : Instr) (c : Clause) (s : State) (d : Nat) (rs : List Nat) (g : Nat → Word × Word), Ready i c s → Nearest s i d rs g →
    Granted rs s → ∃ t, exec i s = .next t ∧
      WroteLanes i c d (fun k => (g k).1) (raised s fun k => (g k).2) s.team.spos s t

/-- R57 to R62, R72 to R74, R76, R135, R136, R138 to R140: conversions, narrowing, widening and block scales, over rational numbers. -/
def Sys2Proof.Claims.ConversionsComplete : Prop :=
  ∀ (i : Instr) (c : Clause) (s : State) (d : Nat) (rs : List Nat) (pos : Word) (R : Nat → Word → Word → Prop), Ready i c s →
    Conversions s i d rs pos R → Granted rs s → ∃ (t : State) (g : Nat → Word × Word), exec i s = .next t ∧ (∀ k ∈ s.active ++ s.helpers, R k (g k).1 (g k).2) ∧
      WroteLanes i c d (fun k => (g k).1) (raised s fun k => (g k).2) pos s t

/-- R115, R121, R122, R129: a comparison or classification writes its whole mask, 0 outside Active(). -/
def Obligations.ComparisonsComplete : Prop :=
  ∀ (i : Instr) (c : Clause) (s : State) (d : Nat) (rs : List Nat) (P : Nat → Prop), Ready i c s → Compares s i d rs P →
    Granted rs s → ∃ t, exec i s = .next t ∧ WroteMask i c 0 s.passes d (fun k => k ∈ s.active ∧ P k) s t

/-- R72 to R74, R76, R113, R124 to R126, R135, R136, R138 to R140: packed and converted results, derivatives, widening, block scales. That INF of
the overflow table gives an infinity under SR too, and that 0 × ∞ in a dot product sets no INVALID beside a NaN operand, is the model's choice
(assumption 88). -/
def Obligations.NarrowResultsComplete : Prop := PackedResultsComplete ∧ NearestResultsComplete ∧ ConversionsComplete

namespace Sys2Proof.Claims

/-! ### Cross-lane results (06 R144 to R149) -/

/-- Value `k` after `n` stages of the butterfly over 32 values (06 R148): at stage `e` the one of a pair without bit `e` becomes the sum, the
other the difference, each rounded once to nearest. -/
def butterfly (a : Nat → Word) : Nat → Nat → Word
  | 0, k => a k
  | e + 1, k =>
    if k.testBit e then rne32 (fsum false [f32 (butterfly a e (k - 2 ^ e)), (f32 (butterfly a e k)).negate])
    else rne32 (fsum false [f32 (butterfly a e k), f32 (butterfly a e (k + 2 ^ e))])

/-- The rotation of the span of lane `k` (06 R148): its 32 source lanes through five butterfly stages, and the scale of FN 1. -/
def rotated (s : State) (o : XOps) (k : Nat) : Word :=
  let x := butterfly (fun p => laneOr0 s o.a.toNat (32 * (k / 32) + p)) 5 (k % 32)
  if o.fn = 1 then rne32 ((f32 x).mul (f32 (s.sval o.b))) else x
/-- Does a source lane or the scale of the span of lane `k` hold NaN? -/
def nanSource (s : State) (o : XOps) (k : Nat) : Prop :=
  (∃ p, p < 32 ∧ (f32 (laneOr0 s o.a.toNat (32 * (k / 32) + p))).isNan = true) ∨ o.fn = 1 ∧ (f32 (s.sval o.b)).isNan = true

/-- Active lanes that the mask of MOD[7:0] holds, lowest first (06 R149). -/
def packedLanes (s : State) (o : XOps) : List Nat := s.active.filter fun k => (s.mval o.lo8).getLsbD k

/-- The associative operations of 06 R144: sum, signed and unsigned extremes, AND, OR, XOR, each with its identity. -/
def intReduce (op : Nat) (x y : Word) : Word :=
  match op with
  | 0 => x + y
  | 4 => if x.toInt ≤ y.toInt then x else y
  | 5 => if x.toInt ≤ y.toInt then y else x
  | 6 => if x.toNat ≤ y.toNat then x else y
  | 7 => if x.toNat ≤ y.toNat then y else x
  | 8 => x &&& y
  | 9 => x ||| y
  | _ => x ^^^ y
def intIdentity (op : Nat) : Word :=
  if op = 4 then 0x7FFFFFFF else if op = 5 then 0x80000000 else if op = 6 ∨ op = 8 then 0xFFFFFFFF else 0
/-- The identity of every operation of 06 R144. -/
def identity (op : Nat) : Word := if op = 2 then 0x7F800000 else if op = 3 then 0xFF800000 else intIdentity op

/-- The combination of `x`, the lower operand, and `y` by an operation of 06 R144: result and STATUS bits; `i` and `e` key an SR draw. -/
def Combined (op : Nat) (c : RCtx) (i e : Nat) (x y v bits : Word) : Prop :=
  match op with
  | 1 =>
    let z := fsum (c.mode == 2) [f32 x, f32 y]
    v = c.r32 i e z ∧ bits = if z.isNan = true ∧ (f32 x).isNan = false ∧ (f32 y).isNan = false then 8 else 0
  | 2 => Extreme true x y v ∧ bits = 0
  | 3 => Extreme false x y v ∧ bits = 0
  | 11 => v = x ∧ bits = 0
  | _ => v = intReduce op x y ∧ bits = 0

/-- The tree of 06 R145 over 32 positions: position `p` holds `val k p` before level `k`. Two neighbours that both hold a value combine, and
raise `bits k p`; a lone one is passed on as it is. `key k p` and e + k key the draw. -/
def IsTree (op : Nat) (c : RCtx) (e : Nat) (key : Nat → Nat → Nat) (val : Nat → Nat → Option Word) (bits : Nat → Nat → Word) : Prop :=
  ∀ k p, k < 5 → p < 32 → p % 2 ^ (k + 1) = 0 →
    (∀ x y, val k p = some x → val k (p + 2 ^ k) = some y →
      ∃ v, val (k + 1) p = some v ∧ Combined op c (key k p) (e + k) x y v (bits k p)) ∧
    (val k (p + 2 ^ k) = none → val (k + 1) p = val k p ∧ bits k p = 0) ∧
    (val k p = none → val (k + 1) p = val k (p + 2 ^ k) ∧ bits k p = 0)

/-- The lowest active lane of `n` lanes from `a` on. -/
def lowest (s : State) (a n : Nat) : Nat := (s.active.filter fun i => decide (a ≤ i) && decide (i < a + n)).headD 0

/-- The trees of the team's spans: the lanes of Active() contribute, and a draw is keyed by the lowest lane of the lower operand (06 R145). -/
def SpanTrees (s : State) (o : XOps) (val : Nat → Nat → Nat → Option Word) (bits : Nat → Nat → Nat → Word) : Prop :=
  ∀ j, j < 32 → (∀ p, p < 32 → val j 0 p = if 32 * j + p ∈ s.active then some (s.vreg o.a.toNat (32 * j + p)) else none) ∧
    IsTree o.fn.toNat (rounding s o) 0 (fun k p => lowest s (32 * j + p) (2 ^ k)) (val j) (bits j)

/-- Some combination of a tree raises STATUS bit `q`. -/
def TreeRaises (bits : Nat → Nat → Word) (q : Nat) : Prop :=
  ∃ k p, k < 5 ∧ p < 32 ∧ p % 2 ^ (k + 1) = 0 ∧ (bits k p).getLsbD q = true

/-- The running value before lane `k` of a scan, `after` being those after each lane (06 R147): the identity at the start of a chain. -/
def scanBefore (o : XOps) (after : Nat → Word) (k : Nat) : Word :=
  if k = 0 ∨ o.fn.getLsbD 5 = true ∧ k % 32 = 0 then identity (o.fn.toNat % 16) else after (k - 1)
/-- An active lane of the chain of lane `k` lies below it. -/
def scanStarted (s : State) (o : XOps) (k : Nat) : Prop := ∃ j ∈ s.active, j < k ∧ (o.fn.getLsbD 5 = true → j / 32 = k / 32)
/-- What lane `k` does to the running value (06 R147): an active lane joins its value to it, the first one of a chain unrounded; the draw
takes the lane's number (assumption 20). Other lanes, helpers among them, contribute nothing. -/
def ScanStep (s : State) (o : XOps) (after : Nat → Word) (bits : Nat → Word) (k : Nat) : Prop :=
  (k ∈ s.active → scanStarted s o k →
    Combined (o.fn.toNat % 16) (rounding s o) k 0 (scanBefore o after k) (s.vreg o.a.toNat k) (after k) (bits k)) ∧
  (k ∈ s.active → ¬ scanStarted s o k → after k = s.vreg o.a.toNat k ∧ bits k = 0) ∧
  (k ∉ s.active → after k = scanBefore o after k ∧ bits k = 0)

end Sys2Proof.Claims

/-- R144, R145: VRED writes the tree's result over Active() to a scalar register; over no lane, the identity, with EMPTY. VREDSP
writes every span's result to its lanes, and with no active lane writes nothing and sets EMPTY. A lone contributor is never rounded. Taking
the lowest active lane of the lower operand for a stochastic draw is the model's reading (assumption 20). -/
def Obligations.ReductionsComplete : Prop :=
  ∀ (o : XOps) (c : Clause) (s : State),
    (Ready (.vred o) c s → Granted [o.a.toNat] s → ∃ t v bits sv sb tv tb, exec (.vred o) s = .next t ∧
      SpanTrees s o sv sb ∧ (∀ j, j < 32 → tv 0 j = sv j 5 0) ∧ IsTree o.fn.toNat (rounding s o) 5 (fun _ p => 32 * p) tv tb ∧
      (s.active ≠ [] → tv 5 0 = some v ∧
        ∀ q, bits.getLsbD q = true ↔ TreeRaises tb q ∨ ∃ j, j < 32 ∧ TreeRaises (sb j) q) ∧
      (s.active = [] → v = identity o.fn.toNat ∧ bits = 1) ∧
      (o.fn = 11 → ∀ f, s.active.head? = some f → v = s.vreg o.a.toNat f) ∧
      (∀ k, look 0 k t.team.s = if k = o.d.toNat then v else look 0 k s.team.s) ∧
      t.team = { movedTo t.team s.team with s := t.team.s, status := s.team.status ||| bits, spos := stream s o } ∧
      Advanced (words (.vred o)) c s.team t.team ∧ OnlyTeam 0 s.passes s t) ∧
    (Ready (.vredsp o) c s → Granted [o.d.toNat, o.a.toNat] s → s.active = [] → ∃ t, exec (.vredsp o) s = .next t ∧
      t.team = { movedTo t.team s.team with status := s.team.status ||| 1, spos := stream s o } ∧
      Advanced (words (.vredsp o)) c s.team t.team ∧ OnlyTeam 0 s.passes s t) ∧
    (Ready (.vredsp o) c s → Granted [o.d.toNat, o.a.toNat] s → s.active ≠ [] → ∃ t g bits sv sb, exec (.vredsp o) s = .next t ∧
      SpanTrees s o sv sb ∧ (∀ k ∈ s.active ++ s.helpers, sv (k / 32) 5 0 = some (g k)) ∧
      (∀ q, bits.getLsbD q = true ↔ ∃ j, j < 32 ∧ TreeRaises (sb j) q) ∧
      WroteLanes (.vredsp o) c o.d.toNat g bits (stream s o) s t)

/-- R144: VRED of a sum, an extreme or a bit operation writes what folding the active lanes gives, whatever the tree's order, and sets
no bit but EMPTY for no lane; VREDSP writes to each lane what folding the active lanes of its span gives. -/
def Obligations.IntegerReductionIsFold : Prop :=
  ∀ (o : XOps) (c : Clause) (s : State), s.team.lanes ≤ 1024 → (o.fn.toNat = 0 ∨ 4 ≤ o.fn.toNat ∧ o.fn.toNat ≤ 10) →
    (Ready (.vred o) c s → Granted [o.a.toNat] s → ∃ t, exec (.vred o) s = .next t ∧
      look 0 o.d.toNat t.team.s = (s.active.map (s.vreg o.a.toNat)).foldl (intReduce o.fn.toNat) (intIdentity o.fn.toNat) ∧
      t.team.status = s.team.status ||| if s.active = [] then 1 else 0) ∧
    (Ready (.vredsp o) c s → Granted [o.d.toNat, o.a.toNat] s → ∃ t, exec (.vredsp o) s = .next t ∧
      (∀ k ∈ s.active ++ s.helpers, look 0 (1024 * o.d.toNat + k) t.team.v =
        ((s.active.filter fun j => j / 32 == k / 32).map (s.vreg o.a.toNat)).foldl (intReduce o.fn.toNat) (intIdentity o.fn.toNat)) ∧
      t.team.status = s.team.status ||| if s.active = [] then 1 else 0)

/-- R147: VSCAN runs through the team's lanes in ascending order, with FN[5] from each span's first lane anew. An active lane receives the
running value after it, with FN[4] the one before it; a helper of a swept span receives it and contributes nothing; every other lane is as
before. With no active lane nothing is written and EMPTY is set. Keying the draw of a lane by that lane is the model's reading of a chain
whose first lane draws nothing (assumption 20). -/
def Obligations.ScanCompletes : Prop :=
  ∀ (o : XOps) (c : Clause) (s : State), Ready (.vscan o) c s → Granted [o.d.toNat, o.a.toNat] s →
    ∃ (t : State) (after bits : Nat → Word), exec (.vscan o) s = .next t ∧ (∀ k, k < 1024 → ScanStep s o after bits k) ∧
      (∀ r k, k < 1024 → look 0 (1024 * r + k) t.team.v =
        if r = o.d.toNat ∧ k ∈ s.active then (if o.fn.getLsbD 4 = true then scanBefore o after k else after k)
        else if r = o.d.toNat ∧ k ∈ s.helpers then scanBefore o after k
        else look 0 (1024 * r + k) s.team.v) ∧
      t.team = { movedTo t.team s.team with
        v := t.team.v, status := s.team.status ||| (if s.active = [] then 1 else raised s bits), spos := stream s o } ∧
      Advanced (words (.vscan o)) c s.team t.team ∧ OnlyTeamV [o.d.toNat] s t

/-- R148, R149: the Hadamard rotation of every swept span, and compaction of the selected lanes with their number. That a sum of two −0 is −0
is the model's choice (assumption 80). -/
def Obligations.RotationAndCompactionComplete : Prop :=
  ∀ (o : XOps) (c : Clause) (s : State), Granted [o.d.toNat, o.a.toNat] s →
    (Ready (.had32 o) c s → ∃ (t : State) (g : Nat → Word), exec (.had32 o) s = .next t ∧
      (∀ k ∈ s.active, ((f32 (rotated s o k)).isNan = true → ¬ nanSource s o k → g k = 8) ∧
        ((f32 (rotated s o k)).isNan = false ∨ nanSource s o k → g k = 0)) ∧
      WroteLanes (.had32 o) c o.d.toNat (rotated s o) (raised s g) s.team.spos s t) ∧
    (Ready (.vpackl o) c s → ∃ t, exec (.vpackl o) s = .next t ∧
      (∀ r k, k < 1024 → look 0 (1024 * r + k) t.team.v =
        if r = o.d.toNat ∧ k < (packedLanes s o).length then s.vreg o.a.toNat ((packedLanes s o).getD k 0)
        else look 0 (1024 * r + k) s.team.v) ∧
      (∀ k, look 0 k t.team.s = if k = o.c.toNat then BitVec.ofNat 32 (packedLanes s o).length else look 0 k s.team.s) ∧
      t.team = { movedTo t.team s.team with v := t.team.v, s := t.team.s } ∧ Advanced (words (.vpackl o)) c s.team t.team ∧
      t = { s with
        team := t.team, core := counted 0 (((packedLanes s o).length + 31) / 32) (counted 0 s.passes s.core)
        ten := { s.ten with mops := s.ten.mops.map (MatOp.noteWrite s.team.key [o.d.toNat]) } } ∧ SameBytes s t)

namespace Sys2Proof.Claims

/-! ### Local store, scratchpad, spill area, the sash (07 R152 to R155, 09 R185 to R195) -/

/-- Every (lane, offset) pair is aligned to `w` and lies below `lim` with its `w` bytes (07 R152, R154). -/
def InBounds (w lim : Nat) (xs : List (Nat × Nat)) : Prop := ∀ p ∈ xs, p.2 % w = 0 ∧ p.2 + w ≤ lim

/-- The page of address `a` may be used: mapped, with the permissions asked for, resident or on a peer that has not failed (21 R344,
24 R378). -/
def Usable (s : State) (r w : Bool) (a : Nat) : Prop :=
  ∃ p, s.ten.pageAt a = some p ∧ (r = true → p.r = true) ∧ (w = true → p.w = true) ∧
    (p.st = .hbm ∨ p.st = .direct ∨ p.st = .remote ∧ ∀ q, findBy (·.idx) p.peer s.ten.peers = some q → q.failed = false)

/-- No buffer of the block that is DRAINING shares a byte with the stores (07 R159). -/
def NoClash (s : State) (w : Nat) (xs : List (Nat × Nat)) : Prop :=
  ∀ n e, (n, some e) ∈ s.core.bt → e.spad = false → e.blk = s.blk.key → e.st = .draining →
    ∀ p ∈ xs, p.2 + w ≤ e.base ∨ e.base + e.size ≤ p.2

/-- The (offset, bytes) pairs that a local-store store writes, in their order, with the width and the registers named (09 R188, R189). -/
inductive Stores (s : State) : Instr → Nat → List Nat → List (Nat × Nat) → List (Nat × List Byte) → Prop
  | stl (o : XOps) : Stores s (.stl o) (wBytes o.lo8.toNat) (o.a.toNat :: dataOf o) (s.offs o s.active)
      ((s.offs o s.active).map fun p => (p.2, s.laneBytes o.d o.lo8.toNat p.1))
  | sstl (o : ROps) : Stores s (.sstl o) 4 [] [(0, ((s.sval o.a).toNat + (s.sval o.b).toNat) % 2 ^ 32)]
      [(((s.sval o.a).toNat + (s.sval o.b).toNat) % 2 ^ 32, leBytes 4 (s.sval o.d).toNat)]

/-- A result becomes outstanding in counter `lc` (02 R24). -/
def AwaitsLoad (i : Instr) (c : Clause) (p : Pend) (s t : State) : Prop :=
  t.team = { movedTo t.team s.team with lc := s.team.lc + 1, pend := s.team.pend ++ [p] } ∧ p.kind = .lc ∧
    Advanced (words i) c s.team t.team ∧ OnlyTeam 1 1 s t

/-- The outstanding writes go to the data registers of `o`, in the acting lanes only. -/
def LoadTargets (s : State) (o : XOps) (p : Pend) : Prop :=
  p.vdst = (dataOf o).map (fun r => (r, maskOf s.acting)) ∧ p.sdst = [] ∧ p.mdst = [] ∧
    ∀ x ∈ p.ws, ∃ k r v, k ∈ s.acting ∧ r < wRegs o.lo8.toNat ∧ x = .v (o.d.toNat + r) k v

/-- The writes hold the words that `bytes k` make in the width of `o`, in every acting lane where `good` holds. -/
def LoadValues (s : State) (o : XOps) (p : Pend) (good : Nat → Prop) (bytes : Nat → List Byte) : Prop :=
  ∀ k ∈ s.acting, good k → ∀ r, r < wRegs o.lo8.toNat →
    RegWrite.v (o.d.toNat + r) k ((extend o.lo8.toNat (bytes k)).getD r 0) ∈ p.ws

/-- The request of a load that reads when its data returns: its lanes and their addresses. -/
def LoadRequest (s : State) (i : Instr) (p : Pend) (good : Nat → Prop) (addr : Nat → Nat) : Prop :=
  ∃ q, p.req = some q ∧ q.ins = i ∧ q.after = [] ∧ (∀ k, k ∈ s.acting → good k → (k, [BitVec.ofNat 32 (addr k)]) ∈ q.src) ∧
    (∀ k ws, (k, ws) ∈ q.src → k ∈ s.acting ∧ good k ∧ ws = [BitVec.ofNat 32 (addr k)]) ∧ q.act = maskOf (q.src.map (·.1))

/-- The offset of lane `k` of LDL and LDD (09 R188). -/
def laneOff (s : State) (o : XOps) (k : Nat) : Nat := ((s.sval o.b).toNat + (s.vreg o.a.toNat k).toNat) % 2 ^ 32

/-- One addition of a type of 09 R192: FP32 rounded once to nearest, integers modulo their width. -/
def plus (ty : Nat) (x y : DWord) : DWord :=
  if ty = 3 then (rne32 (fsum false [f32 (x.setWidth 32), f32 (y.setWidth 32)])).setWidth 64
  else if ty ≤ 2 then (BitVec.ofNat 32 (x.toNat + y.toNat)).setWidth 64 else x + y
/-- The sum of some operands, in turn. -/
def sumAll (ty : Nat) : List DWord → DWord
  | [] => 0
  | x :: r => r.foldl (plus ty) x
/-- The adds of one instruction, `xs` as (address, operand): one request for every address, its operands summed in ascending lane order (09
R193). -/
def summed (ty : Nat) (xs : List (Nat × DWord)) : List (Nat × DWord × DWord) :=
  (distinct (xs.map (·.1))).map fun a => (a, sumAll ty ((xs.filter fun p => p.1 == a).map (·.2)), 0)

/-- The record that a sash instruction adds to the open phase's batch, none with no active lane, where its checks pass; whether it
translates main-memory addresses (09 R188, R194, R195, R202, 13 R274, R275). -/
inductive Records (s : State) : Instr → Bool → List Rec → Prop
  | std (o : XOps) : Granted (o.a.toNat :: dataOf o) s → InBounds (wBytes o.lo8.toNat) s.spLimit (s.offs o s.active) →
      s.team.spBytes + wBytes o.lo8.toNat * s.active.length ≤ 8192 →
      Records s (.std o) false (if s.active = [] then []
        else [.store s.core.die ((s.offs o s.active).map fun p => (p.2, s.laneBytes o.d o.lo8.toNat p.1))])
  | atd (o : XOps) : Granted (o.a.toNat :: (atomGroup o o.b ++ casGroup o o.c)) s →
      InBounds (atomBytes o.loNib.toNat) s.spLimit (s.offsA o) →
      s.team.spBytes + atomBytes o.loNib.toNat * s.active.length ≤ 8192 →
      Records s (.atd o) false (if s.active = [] then []
        else [.atomSp s.core.die o.fn.toNat o.loNib.toNat
          (s.active.map fun k => ((s.vreg o.a.toNat k).toNat, s.atomVal o o.b k, s.casVal o o.c k)) s.ctr])
  | gatom (o : XOps) : Granted ([o.d.toNat, o.d.toNat + 1] ++ atomGroup o o.a ++ casGroup o o.b) s →
      (∀ k ∈ s.active, s.vaddr o.d.toNat k % atomBytes o.loNib.toNat = 0 ∧ Usable s false true (s.vaddr o.d.toNat k) ∧
        s.ten.remote (s.vaddr o.d.toNat k) = false) →
      (s.active ≠ [] → s.team.recCount < 256) → o.fn ≠ 0 →
      Records s (.gatom o) true (if s.active = [] then []
        else [.atomMm o.fn.toNat o.loNib.toNat
          (s.active.map fun k => (s.vaddr o.d.toNat k, s.atomVal o o.a k, s.casVal o o.b k)) s.here (some s.ctr)])
  | gatomAdd (o : XOps) : Granted ([o.d.toNat, o.d.toNat + 1] ++ atomGroup o o.a ++ casGroup o o.b) s →
      (∀ k ∈ s.active, s.vaddr o.d.toNat k % atomBytes o.loNib.toNat = 0 ∧ Usable s false true (s.vaddr o.d.toNat k) ∧
        (s.ten.remote (s.vaddr o.d.toNat k) = true → o.loNib = 4)) →
      (s.active ≠ [] → s.team.recCount < 256) → o.fn = 0 →
      Records s (.gatom o) true (if s.active = [] then []
        else [.atomMm 0 o.loNib.toNat (summed o.loNib.toNat (s.active.map fun k => (s.vaddr o.d.toNat k, s.atomVal o o.a k))) s.here (some s.ctr)])
  | cpyout (o : XOps) : Granted ([o.d.toNat, o.d.toNat + 1] ++ group o.a (wRegs o.lo8.toNat)) s →
      (∀ k ∈ s.active, s.vaddr o.d.toNat k % wBytes o.lo8.toNat = 0 ∧ Usable s false true (s.vaddr o.d.toNat k)) →
      (s.active ≠ [] → s.team.recCount < 256) →
      Records s (.cpyout o) true (if s.active = [] then []
        else [.copy (s.active.map fun k => (s.vaddr o.d.toNat k, s.laneBytes o.a o.lo8.toNat k))])
  | binpush (o : XOps) (b : BinDesc) : findBy (·.num) (s.sval o.b).toNat s.ten.bins = some b → b.rsw = o.lo8.toNat →
      Granted (group o.a o.lo8.toNat) s → (s.active ≠ [] → s.team.recCount < 256) → s.team.pushed b.num + s.active.length ≤ b.cap →
      Records s (.binpush o) false (if s.active = [] then []
        else [.push b.num (s.active.map fun k => (group o.a o.lo8.toNat).map fun r => s.vreg r k)])
  | binflush (o : ROps) (b : BinDesc) : findBy (·.num) (s.sval o.a).toNat s.ten.bins = some b → s.team.recCount < 256 →
      Records s (.binflush o) false [.flush b.num]

/-- The panes as before, but for their second-level TLBs (21 R343). -/
def SamePanes (s t : State) : Prop := t.ten.panes.map (fun p => { p with tlb2 := [] }) = s.ten.panes.map fun p => { p with tlb2 := [] }

/-- Outside the issuing team only the core's counter and the TLBs of both levels change (07 R169, 21 R343). -/
def OnlyTeamTlb (s t : State) : Prop :=
  t = { s with
    team := t.team, core := { s.core with tlb := t.core.tlb, pmcnt := t.core.pmcnt }, ten := { s.ten with panes := t.ten.panes } } ∧
    SamePanes s t ∧ SameBytes s t

/-- The buffer table as before, but for the notes of which bytes stores have written in FILLING buffers, and the sectors in flight as
before, but for the bytes at which they land nothing therefore (07 R159). -/
def StoresNoted (s t : State) : Prop :=
  t.core.bt.map (fun p => (p.1, p.2.map fun e => { e with stored := [] })) =
    s.core.bt.map (fun p => (p.1, p.2.map fun e => { e with stored := [] })) ∧
    t.ten.sectors.map (fun x => { x with skip := [] }) = s.ten.sectors.map fun x => { x with skip := [] }

/-- Outside the issuing team a local-store instruction changes the local store, the block's stamp and those notes. -/
def OnlyLocal (s t : State) : Prop :=
  StoresNoted s t ∧ t = { s with
    team := t.team, core := { counted 1 1 s.core with bt := t.core.bt }, blk := { s.blk with ls := t.blk.ls, stamp := t.blk.stamp }
    ten := { s.ten with sectors := t.ten.sectors } }

/-- The base of the current frame (05 R95): 0 without a call record, otherwise 16 above the record. -/
def frameAt (u : Team) : Nat := match u.crec with | none => 0 | some r => r + 16
/-- Bytes of one register of a kind in the spill area (09 R190). -/
def unitOf (u : Team) (fn : Nat) : Nat := if fn = 1 then 4 else if fn = 0 then 128 * u.spans else 4 * u.spans
/-- The word at offset `n` of a byte list. -/
def wordAt (bs : List Byte) (n : Nat) : Word := bs.getD (n + 3) 0 ++ bs.getD (n + 2) 0 ++ bs.getD (n + 1) 0 ++ bs.getD n 0
/-- The word at `a` of the team's spill area. -/
def spillWord (u : Team) (a : Nat) : Word := look 0 (a + 3) u.spill ++ look 0 (a + 2) u.spill ++ look 0 (a + 1) u.spill ++ look 0 a u.spill

end Sys2Proof.Claims

/-- R178, R185, R188, R189: STL and SSTL store at the computed offsets at once; every other byte of the local store, and all of main
memory and scratchpad, is unchanged. -/
def Sys2Proof.Claims.LocalStoresComplete : Prop :=
  ∀ (i : Instr) (c : Clause) (s : State) (w : Nat) (rs : List Nat) (xs : List (Nat × Nat)) (ws : List (Nat × List Byte)),
    Ready i c s → Stores s i w rs xs ws → Granted rs s → InBounds w s.blk.lsz xs → NoClash s w xs →
    (∀ p ∈ xs, ∀ j, j < w → s.lsOpen (p.2 + j) = false) →
    ∃ t, exec i s = .next t ∧
      (∀ a, t.blk.ls.get a = match wsByte ws a with | some v => v | none => s.blk.ls.get a) ∧
      (∀ a, (∀ p ∈ xs, a < p.2 ∨ p.2 + w ≤ a) → t.blk.ls.get a = s.blk.ls.get a) ∧
      (∀ sp a, (t.ten.space sp).get a = (s.ten.space sp).get a) ∧ t.team = movedTo t.team s.team ∧ Advanced (words i) c s.team t.team ∧
      t.blk.stamp = s.blk.stamp + 1 ∧ OnlyLocal s t

/-- R186, R188, R189, R191: LDL, SLDL and LDH from a FULL local-store buffer read at issue; the result stays outstanding in LC. -/
def Sys2Proof.Claims.LocalLoadsComplete : Prop :=
  (∀ (o : XOps) (c : Clause) (s : State), Ready (.ldl o) c s → s.team.lc < 63 → Granted (o.a.toNat :: dataOf o) s →
    InBounds (wBytes o.lo8.toNat) s.blk.lsz (s.active.map fun k => (k, laneOff s o k)) →
    ∃ t p, exec (.ldl o) s = .next t ∧ AwaitsLoad (.ldl o) c p s t ∧ p.req = none ∧ LoadTargets s o p ∧
      LoadValues s o p (fun k => laneOff s o k % wBytes o.lo8.toNat = 0 ∧ laneOff s o k + wBytes o.lo8.toNat ≤ s.blk.lsz)
        fun k => s.lsBytes (laneOff s o k) (wBytes o.lo8.toNat)) ∧
  (∀ (o : ROps) (c : Clause) (s : State) (a : Nat), Ready (.sldl o) c s → s.team.lc < 63 →
    a = ((s.sval o.a).toNat + (s.sval o.b).toNat) % 2 ^ 32 → a % 4 = 0 → a + 4 ≤ s.blk.lsz →
    ∃ t, exec (.sldl o) s = .next t ∧ AwaitsLoad (.sldl o) c
      { kind := .lc, sdst := [o.d.toNat], ws := [.s o.d.toNat (wordAt (s.lsBytes a 4) 0)] } s t) ∧
  ∀ (o : XOps) (c : Clause) (s : State) (n : Nat) (e : BufEntry), Ready (.ldh o) c s → s.team.lc < 63 →
    Granted (o.b.toNat :: dataOf o) s → s.slotEntry o.a.toNat = some (n, e) → (e.st = .full ∨ e.st = .draining) → e.spad = false →
    InBounds (wBytes o.lo8.toNat) e.size (s.active.map fun k => (k, (s.vreg o.b.toNat k).toNat)) →
    ∃ t p, exec (.ldh o) s = .next t ∧ AwaitsLoad (.ldh o) c p s t ∧ p.req = none ∧ LoadTargets s o p ∧
      LoadValues s o p
        (fun k => (s.vreg o.b.toNat k).toNat % wBytes o.lo8.toNat = 0 ∧ (s.vreg o.b.toNat k).toNat + wBytes o.lo8.toNat ≤ e.size)
        fun k => (List.range (wBytes o.lo8.toNat)).map fun j => s.blk.ls.get (e.base + (s.vreg o.b.toNat k).toNat + j)

/-- R180, R188, R191: LDD and LDH from a FULL scratchpad buffer leave a request with every lane's address outstanding in LC. -/
def Sys2Proof.Claims.ScratchpadLoadsComplete : Prop :=
  (∀ (o : XOps) (c : Clause) (s : State), Ready (.ldd o) c s → s.team.lc < 63 → Granted (o.a.toNat :: dataOf o) s →
    InBounds (wBytes o.lo8.toNat) s.spLimit (s.active.map fun k => (k, laneOff s o k)) →
    ∃ t p, exec (.ldd o) s = .next t ∧ AwaitsLoad (.ldd o) c p s t ∧ LoadTargets s o p ∧
      LoadRequest s (.ldd o) p
        (fun k => laneOff s o k % wBytes o.lo8.toNat = 0 ∧ laneOff s o k + wBytes o.lo8.toNat ≤ s.spLimit) (laneOff s o)) ∧
  ∀ (o : XOps) (c : Clause) (s : State) (n : Nat) (e : BufEntry), Ready (.ldh o) c s → s.team.lc < 63 →
    Granted (o.b.toNat :: dataOf o) s → s.slotEntry o.a.toNat = some (n, e) → (e.st = .full ∨ e.st = .draining) → e.spad = true →
    InBounds (wBytes o.lo8.toNat) e.size (s.active.map fun k => (k, (s.vreg o.b.toNat k).toNat)) →
    ∃ t p, exec (.ldh o) s = .next t ∧ AwaitsLoad (.ldh o) c p s t ∧ LoadTargets s o p ∧
      LoadRequest s (.ldh o) p
        (fun k => (s.vreg o.b.toNat k).toNat % wBytes o.lo8.toNat = 0 ∧ (s.vreg o.b.toNat k).toNat + wBytes o.lo8.toNat ≤ e.size)
        fun k => e.base + (s.vreg o.b.toNat k).toNat

/-- R188, R194, R195, R202, R274, R275: an instruction of the sash adds one record to the phase's batch, nothing with no active lane;
no byte of memory changes before the batch completes. -/
def Sys2Proof.Claims.SashRecordsComplete : Prop :=
  ∀ (i : Instr) (c : Clause) (s : State) (mm : Bool) (rs : List Rec), Ready i c s → Records s i mm rs →
    ∃ t, exec i s = .next t ∧ t.team = { movedTo t.team s.team with batch := s.team.batch ++ rs } ∧
      Advanced (words i) c s.team t.team ∧ (mm = false → OnlyTeam 1 1 s t) ∧ OnlyTeamTlb s t

/-- R190: SPILL stores registers, and FILL loads them, at the frame base plus the offset. Bytes of lanes at or above L are free
(assumption 18). -/
def Obligations.SpillAndFillComplete : Prop :=
  ∀ (o : XOps) (c : Clause) (s : State) (a : Nat), (s.sval o.a).toNat % 4 = 0 → a = frameAt s.team + (s.sval o.a).toNat →
    a + o.c.toNat * unitOf s.team o.fn.toNat ≤ s.team.z → (o.fn = 0 → Granted (span o.d.toNat o.c.toNat) s) →
    (Ready (.spill o) c s → ∃ t bs, exec (.spill o) s = .next t ∧ bs.length = o.c.toNat * unitOf s.team o.fn.toNat ∧
      (o.fn = 0 → ∀ k i, k < o.c.toNat → i < s.team.lanes → wordAt bs (128 * s.team.spans * k + 4 * i) = s.vreg (o.d.toNat + k) i) ∧
      (o.fn = 1 → ∀ k, k < o.c.toNat → wordAt bs (4 * k) = s.sreg (o.d.toNat + k)) ∧
      (o.fn = 2 → ∀ j, j < s.team.spans → wordAt bs (4 * j) = spanWord (s.mval o.d) j) ∧
      SpillPut a bs s.team t.team ∧ t.team = { movedTo t.team s.team with spill := t.team.spill } ∧
      Advanced 2 c s.team t.team ∧ OnlyTeam 1 1 s t) ∧
    (Ready (.fill o) c s → s.team.lc < 63 → ∃ t p, exec (.fill o) s = .next t ∧ AwaitsLoad (.fill o) c p s t ∧ p.req = none ∧
      (o.fn = 0 → p.vdst.map (·.1) = span o.d.toNat o.c.toNat ∧ ∀ k i, k < o.c.toNat → i < s.team.lanes →
        RegWrite.v (o.d.toNat + k) i (spillWord s.team (a + 128 * s.team.spans * k + 4 * i)) ∈ p.ws) ∧
      (o.fn = 1 → p.sdst = span o.d.toNat o.c.toNat ∧
        p.ws = (List.range o.c.toNat).map fun k => RegWrite.s (o.d.toNat + k) (spillWord s.team (a + 4 * k))) ∧
      (o.fn = 2 → p.mdst = [o.d.toNat] ∧ ∃ m, p.ws = [.m o.d.toNat s.team.live m] ∧
        ∀ j, j < s.team.spans → j < 32 → spanWord m j = spillWord s.team (a + 4 * j)))

/-- R180, R188, R191, R194, R195, R202, R274, R275: scratchpad loads leave a request in LC; an instruction of the sash adds one record
to the batch. When a scratchpad load reads is left free (assumption 14). -/
def Obligations.ScratchpadAndSashComplete : Prop := ScratchpadLoadsComplete ∧ SashRecordsComplete

/-- R178, R185, R186, R188, R189, R191: stores to and loads from the local store, and which bytes they leave alone. That these loads
read at issue is the model's reading (assumption 14). -/
def Obligations.LocalAccessesComplete : Prop := LocalStoresComplete ∧ LocalLoadsComplete

namespace Sys2Proof.Claims

/-! ### Atomics of the local store, handles, copies, events (07 R158 to R168, 09 R194, R198 to R204) -/

/-- A value in the width of a type of 09 R192. -/
def lowOf (ty : Nat) (x : DWord) : DWord := if ty ≤ 3 then BitVec.ofNat 64 (x.toNat % 2 ^ 32) else x
/-- The integer that a value of a type S32, S64 (signed) or N32, N64 is. -/
def intOf (ty : Nat) (x : DWord) : Int := if ty = 1 then (x.setWidth 32).toInt else if ty = 5 then x.toInt else (lowOf ty x).toNat

/-- What an operation makes of the memory value `m`, with the operands `a` and `c`; none where a CAS finds another value (09 R192). -/
inductive AtomNext (ty : Nat) (m a c : DWord) : Nat → Option DWord → Prop
  | add : AtomNext ty m a c 0 (some (plus ty m a))
  | ints (op : Nat) : op = 1 ∨ op = 2 → ty ≠ 3 →
      AtomNext ty m a c op (some (lowOf ty (if (intOf ty m ≤ intOf ty a) ↔ op = 1 then m else a)))
  | floats (op : Nat) (x : Word) : op = 1 ∨ op = 2 → ty = 3 → Extreme (op == 1) (m.setWidth 32) (a.setWidth 32) x →
      AtomNext ty m a c op (some (x.setWidth 64))
  | and : AtomNext ty m a c 3 (some (lowOf ty (m &&& a)))
  | or : AtomNext ty m a c 4 (some (lowOf ty (m ||| a)))
  | xor : AtomNext ty m a c 5 (some (lowOf ty (m ^^^ a)))
  | xchg : AtomNext ty m a c 6 (some (lowOf ty a))
  | cas : lowOf ty m = lowOf ty a → AtomNext ty m a c 7 (some (lowOf ty c))
  | casKept : lowOf ty m ≠ lowOf ty a → AtomNext ty m a c 7 none

/-- The little-endian number in the `w` bytes from `x` on. -/
def numIn (f : Nat → Byte) (x w : Nat) : DWord := BitVec.ofNat 64 (((List.range w).map fun i => (f (x + i)).toNat * 256 ^ i).sum)
/-- Lanes (offset, a, c) performed in turn on the bytes `f`, each on the result of the lanes before it: the bytes after all of them, and
every lane's old value, the memory value before its own step (09 R192, R193). -/
inductive LanesInTurn (op ty w : Nat) : (Nat → Byte) → List (Nat × DWord × DWord) → (Nat → Byte) → List DWord → Prop
  | none (f : Nat → Byte) : LanesInTurn op ty w f [] f []
  | lane (f g : Nat → Byte) (x : Nat) (a c : DWord) (v : Option DWord) (xs : List (Nat × DWord × DWord)) (os : List DWord) :
      AtomNext ty (numIn f x w) a c op v →
      LanesInTurn op ty w
        (fun b => match v with
          | some y => if x ≤ b ∧ b < x + w then BitVec.ofNat 8 (y.toNat / 256 ^ (b - x)) else f b
          | none => f b) xs g os →
      LanesInTurn op ty w f ((x, a, c) :: xs) g (numIn f x w :: os)

/-- The handle entry `n` of the core holds `x`, every other entry is as before. -/
def EntrySet (n : Nat) (x : Option BufEntry) (c d : Core) : Prop := d.entry? n = x ∧ ∀ m, m ≠ n → d.entry? m = c.entry? m
/-- Slot `h` of the team holds `x`, every other slot is as before. -/
def SlotSet (h : Nat) (x : Option Nat) (u t : Team) : Prop := ∀ k, look none k t.h = if k = h then x else look none k u.h

/-- Where a handle instruction has left the rest of the machine: of the core only the buffer table changes, beside its counter. -/
def OnlyTable (s t : State) : Prop := t = { s with team := t.team, core := { counted 1 1 s.core with bt := t.core.bt } } ∧ SameBytes s t

/-- A handle fit for copies in: FILLING, not sealed, opened in the phase (07 R159). -/
def CanFill (s : State) (h n : Nat) (e : BufEntry) : Prop :=
  s.slotEntry h = some (n, e) ∧ e.st = .filling ∧ e.sealed = false ∧ e.cur = true
/-- A handle fit for copies out: FULL. -/
def IsFull (s : State) (h n : Nat) (e : BufEntry) : Prop := s.slotEntry h = some (n, e) ∧ e.st = .full

/-- New sectors carry exactly the bytes (VA, buffer offset) of a copy, those of one 32-byte sector together (07 R162). -/
def Carries (s : State) (n : Nat) (bytes : List (Nat × Nat)) (xs : List Sector) : Prop :=
  (∀ b ∈ bytes, ∃ x ∈ xs, b ∈ x.src) ∧
    (∀ x ∈ xs, x.team = s.team.key ∧ x.core = s.core.num ∧ x.entry = n ∧ x.got = none ∧
      (∀ b ∈ x.src, b ∈ bytes) ∧ (∀ b ∈ x.src, ∀ b' ∈ x.src, b.1 / 32 = b'.1 / 32)) ∧
    xs.Pairwise fun x y => ∀ b ∈ x.src, ∀ b' ∈ y.src, b.1 / 32 ≠ b'.1 / 32

/-- The bytes (VA, buffer offset) of the lanes' transfers: `w` bytes per active lane (07 R161). -/
def laneBytePairs (s : State) (w : Nat) (va vo : Byte) : List (Nat × Nat) :=
  s.active.flatMap fun k => (List.range w).map fun j => (s.vaddr va.toNat k + j, (s.vreg vo.toNat k).toNat + j)

/-- Every active lane's VA and offset are aligned, the offset is in the buffer, the VA's page may be used (07 R161, 21 R344). -/
def CopyLanesOk (s : State) (w size : Nat) (va vo : Byte) (out : Bool) : Prop :=
  ∀ k ∈ s.active, s.vaddr va.toNat k % w = 0 ∧ (s.vreg vo.toNat k).toNat % w = 0 ∧ (s.vreg vo.toNat k).toNat + w ≤ size ∧
    Usable s (!out) out (s.vaddr va.toNat k)

/-- The layout record of a tile copy can be read, keeps its rules, and the tile fits the buffer at offset C (07 R164, 09 R203). -/
def TileOk (s : State) (o : XOps) (size : Nat) (t : Tile) (out : Bool) : Prop :=
  (s.sval o.a).toNat % 64 = 0 ∧ (s.sval o.a).toNat + 64 ≤ s.blk.lsz ∧ Tile.read (s.lsBytes (s.sval o.a).toNat 64) = some t ∧
    (s.sval o.c).toNat % t.esz = 0 ∧ (s.sval o.c).toNat + t.count * t.esz ≤ size ∧
    ∀ b ∈ s.tileBytes o out, Usable s (!out) out b.1

/-- Byte `a` of a buffer has been stored to while it was FILLING and lies in one of the spans of a copy: it becomes undefined (07 R159). -/
def Spoilt (e : BufEntry) (spans : List (Nat × Nat)) (a : Nat) : Prop :=
  ∃ o ∈ e.stored, a = e.base + o ∧ ∃ q ∈ spans, q.1 ≤ o ∧ o < q.1 + q.2

/-- What a copy-in leaves: its bytes in new sectors, its spans noted at the entry; nothing in memory or in the buffer yet, but that bytes
which stores have written there take a free value. -/
def CopyStarted (i : Instr) (c : Clause) (n : Nat) (e : BufEntry) (spans bytes : List (Nat × Nat)) (s t : State) : Prop :=
  t.team = movedTo t.team s.team ∧ Advanced (words i) c s.team t.team ∧
    (∃ xs, t.ten.sectors = s.ten.sectors ++ xs ∧ Carries s n bytes xs) ∧
    EntrySet n (some { e with copied := e.copied ++ spans }) s.core t.core ∧
    t = { s with
      team := t.team, ten := { s.ten with sectors := t.ten.sectors, panes := t.ten.panes, scratch := t.ten.scratch }
      core := { s.core with bt := t.core.bt, tlb := t.core.tlb, pmcnt := t.core.pmcnt }, blk := { s.blk with ls := t.blk.ls } } ∧
    SamePanes s t ∧ (∀ a, e.spad = true ∨ ¬ Spoilt e spans a → t.blk.ls.get a = s.blk.ls.get a) ∧
    ∀ sp a, e.spad = false ∨ sp ≠ 1 + s.core.die ∨ ¬ Spoilt e spans a → (t.ten.space sp).get a = (s.ten.space sp).get a

/-- What a copy-out from a buffer leaves: a drain record in the batch, a drain pending at the entry. -/
def DrainRecorded (i : Instr) (c : Clause) (n : Nat) (e : BufEntry) (ws : List (Nat × Nat × Nat)) (s t : State) : Prop :=
  t.team = { movedTo t.team s.team with batch := s.team.batch ++ [.drain s.core.num n ws [] []] } ∧ Advanced (words i) c s.team t.team ∧
    EntrySet n (some { e with drain := true }) s.core t.core ∧
    t = { s with
      team := t.team, core := { s.core with bt := t.core.bt, tlb := t.core.tlb, pmcnt := t.core.pmcnt }
      ten := { s.ten with panes := t.ten.panes } } ∧ SamePanes s t ∧ SameBytes s t

end Sys2Proof.Claims

/-- R192 to R194: ATL performs the active lanes in ascending order in the local store, each on the result of those before it, and touches no
byte outside their operands. The returning form leaves every lane's old value outstanding in AC. -/
def Obligations.LocalAtomicsComplete : Prop :=
  ∀ (o : XOps) (c : Clause) (s : State) (w : Nat), Ready (.atl o) c s → w = atomBytes o.loNib.toNat → (o.ret = true → s.team.ac < 63) →
    Granted (o.a.toNat :: ((if o.ret then atomGroup o o.d else []) ++ atomGroup o o.b ++ casGroup o o.c)) s →
    InBounds w s.blk.lsz (s.offsA o) → NoClash s w (s.offsA o) → (∀ p ∈ s.offsA o, ∀ j, j < w → s.lsOpen (p.2 + j) = false) →
    ∃ t after olds, exec (.atl o) s = .next t ∧
      LanesInTurn o.fn.toNat o.loNib.toNat w s.blk.ls.get
        (s.active.map fun k => ((s.vreg o.a.toNat k).toNat, s.atomVal o o.b k, s.casVal o o.c k)) after olds ∧
      (∀ a, t.blk.ls.get a = after a) ∧
      (∀ a, (∀ p ∈ s.offsA o, a < p.2 ∨ p.2 + w ≤ a) → t.blk.ls.get a = s.blk.ls.get a) ∧
      (o.ret = false → t.team = movedTo t.team s.team) ∧
      (o.ret = true → ∃ p, t.team = { movedTo t.team s.team with ac := s.team.ac + 1, pend := s.team.pend ++ [p] } ∧ p.kind = .ac ∧
        p.ws = (s.active.zip olds).flatMap fun x => oldWrites o.loNib.toNat o.d.toNat x.1 x.2) ∧
      (∀ sp a, (t.ten.space sp).get a = (s.ten.space sp).get a) ∧ Advanced 2 c s.team t.team ∧
      OnlyLocal s t

/-- R198: HOPEN of an unbound slot with an aligned buffer inside its space binds a free entry as FILLING. -/
def Sys2Proof.Claims.HandleOpenCompletes : Prop :=
  ∀ (o : XOps) (c : Clause) (s : State) (n : Nat), Ready (.hopen o) c s → s.slotEntry o.d.toNat = none → s.freeEntry = some n →
    (s.sval o.a).toNat % 32 = 0 → (s.sval o.b).toNat % 32 = 0 → 32 ≤ (s.sval o.b).toNat →
    (s.sval o.a).toNat + (s.sval o.b).toNat ≤ (if o.mod.getLsbD 0 then s.spLimit else s.blk.lsz) →
    ∃ t, exec (.hopen o) s = .next t ∧
      EntrySet n (some {
        team := s.team.key, blk := s.blk.key, slot := o.d.toNat, spad := o.mod.getLsbD 0, base := (s.sval o.a).toNat
        size := (s.sval o.b).toNat, st := .filling, sealed := false, drain := false, cur := true, sealCur := false, freed := false
        asked := o.mod.getLsbD 1, evt := if o.mod.getLsbD 1 then some (s.sval o.c) else none, stamp := 0 }) s.core t.core ∧
      SlotSet o.d.toNat (some n) s.team t.team ∧ t.team = { movedTo t.team s.team with h := t.team.h } ∧
      Advanced 2 c s.team t.team ∧ OnlyTable s t

/-- R158, R199: HSEAL of a FILLING handle seals it, and makes it FULL when no sector is still on its way; HFREE of a FULL or DRAINING
handle unbinds its slot and marks the entry for release. -/
def Sys2Proof.Claims.HandleSealFreeComplete : Prop :=
  ∀ (o : ROps) (c : Clause) (s : State) (n : Nat) (e : BufEntry), s.slotEntry o.d.toNat = some (n, e) →
    (Ready (.hseal o) c s → e.st = .filling → ∃ t x, exec (.hseal o) s = .next t ∧ EntrySet n (some x) s.core t.core ∧ x.sealed = true ∧
      (e.sealed = true → x = e) ∧ (x.st = .full ↔ e.sealed = false ∧ ∀ y ∈ s.ten.sectors, y.core = s.core.num → y.entry ≠ n) ∧
      x.base = e.base ∧ x.size = e.size ∧ x.team = e.team ∧ x.slot = e.slot ∧ x.drain = e.drain ∧ x.freed = e.freed ∧
      t.team = { movedTo t.team s.team with floor := t.team.floor, readSet := t.team.readSet } ∧ Advanced 1 c s.team t.team ∧
      t = { s with
        team := t.team, core := { counted 1 1 s.core with bt := t.core.bt }, blk := { s.blk with evw := t.blk.evw } } ∧ SameBytes s t) ∧
    (Ready (.hfree o) c s → (e.st = .full ∨ e.st = .draining) → ∃ t, exec (.hfree o) s = .next t ∧
      EntrySet n (some { e with freed := true }) s.core t.core ∧ SlotSet o.d.toNat none s.team t.team ∧
      t.team = { movedTo t.team s.team with h := t.team.h } ∧ Advanced 1 c s.team t.team ∧ OnlyTable s t)

/-- R200, R204: HWAIT holds the team's later words, HSTAT reads a slot's state, EVPOP takes the head of the event queue. -/
def Obligations.HandleWaitsAndEventsComplete : Prop :=
  ∀ (o : ROps) (c : Clause) (s : State),
    (Ready (.hwaitFull o) c s → s.slotEntry o.d.toNat ≠ none → ∃ t, exec (.hwaitFull o) s = .next t ∧
      t.team = { movedTo t.team s.team with wait := .full o.d.toNat } ∧ Advanced 1 c s.team t.team ∧ OnlyTeam 1 1 s t) ∧
    (Ready (.hwaitIdle o) c s → ∃ t, exec (.hwaitIdle o) s = .next t ∧
      t.team = { movedTo t.team s.team with wait := .idle o.d.toNat } ∧ Advanced 1 c s.team t.team ∧ OnlyTeam 1 1 s t) ∧
    (Ready (.hstat o) c s → ∃ t v, exec (.hstat o) s = .next t ∧ WroteScalar (.hstat o) c o.d.toNat v s t ∧
      (s.slotEntry o.a.toNat = none → v = 0) ∧
      ∀ n e, s.slotEntry o.a.toNat = some (n, e) →
        v.toNat % 8 = (match e.st with
          | .filling => if e.sealed then 2 else 1
          | .full => if e.drain then 4 else 3
          | .draining => 5) ∧
        (v.getLsbD 3 = e.spad) ∧ (v.getLsbD 4 = e.asked) ∧ v.toNat / 2 ^ 16 = min 65535 (s.ten.flyCount s.core.num n)) ∧
    (Ready (.evpop o) c s → s.team.tc < 63 → ∃ t p, exec (.evpop o) s = .next t ∧
      p = ({ kind := .tc, sdst := [o.d.toNat, o.d.toNat + 1]
             ws := [.s o.d.toNat (BitVec.ofNat 32 (s.blk.evq.headD 0).toNat),
               .s (o.d.toNat + 1) (BitVec.ofNat 32 ((s.blk.evq.headD 0).toNat / 2 ^ 32))] } : Pend) ∧
      t.team = { movedTo t.team s.team with
        tc := s.team.tc + 1, pend := s.team.pend ++ [p], popped := s.team.popped ++ s.blk.evq.take 1 } ∧
      Advanced 1 c s.team t.team ∧ t = { s with team := t.team, core := counted 1 1 s.core, blk := { s.blk with evq := s.blk.evq.drop 1 } } ∧
      SameBytes s t)

/-- R161, R162, R201, R203: CPYIN and TCPYIN into a fillable buffer send their bytes' sectors on their way; CPYIN with no active lane does
nothing. -/
def Sys2Proof.Claims.CopiesInComplete : Prop :=
  ∀ (o : XOps) (c : Clause) (s : State) (n : Nat) (e : BufEntry), CanFill s o.d.toNat n e →
    (Ready (.cpyin o) c s → Granted [o.a.toNat, o.b.toNat, o.b.toNat + 1] s → CopyLanesOk s (wBytes o.lo8.toNat) e.size o.b o.a false →
      s.ten.linesInFlight s.core.num + linesOf (s.active.map (s.vaddr o.b.toNat)) ≤ 1024 → ∃ t, exec (.cpyin o) s = .next t ∧
        (s.active = [] → t.team = movedTo t.team s.team ∧ Advanced 2 c s.team t.team ∧ OnlyTeam 1 1 s t) ∧
        (s.active ≠ [] → CopyStarted (.cpyin o) c n e (s.active.map fun k => ((s.vreg o.a.toNat k).toNat, wBytes o.lo8.toNat))
          (laneBytePairs s (wBytes o.lo8.toNat) o.b o.a) s t)) ∧
    ∀ tile, Ready (.tcpyin o) c s → TileOk s o e.size tile false → ∃ t, exec (.tcpyin o) s = .next t ∧
      CopyStarted (.tcpyin o) c n e [((s.sval o.c).toNat, tile.count * tile.esz)] (s.tileBytes o false) s t

/-- R202, R203: CPYOUT and TCPYOUT from a FULL buffer record a drain of its bytes; no byte of memory changes before the drain. -/
def Sys2Proof.Claims.CopiesOutComplete : Prop :=
  ∀ (o : XOps) (c : Clause) (s : State) (n : Nat) (e : BufEntry),
    (Ready (.cpyoutH o) c s → IsFull s o.a.toNat n e → Granted [o.b.toNat, o.d.toNat, o.d.toNat + 1] s →
      CopyLanesOk s (wBytes o.lo8.toNat) e.size o.d o.b true → (s.active ≠ [] → s.team.recCount < 256) →
      ∃ t, exec (.cpyoutH o) s = .next t ∧
        (s.active = [] → t.team = movedTo t.team s.team ∧ Advanced 2 c s.team t.team ∧ OnlyTeam 1 1 s t) ∧
        (s.active ≠ [] → DrainRecorded (.cpyoutH o) c n e
          (s.active.map fun k => (s.vaddr o.d.toNat k, (s.vreg o.b.toNat k).toNat, wBytes o.lo8.toNat)) s t)) ∧
    ∀ tile, Ready (.tcpyout o) c s → IsFull s o.d.toNat n e → TileOk s o e.size tile true → s.team.recCount < 256 →
      ∃ t, exec (.tcpyout o) s = .next t ∧
        DrainRecorded (.tcpyout o) c n e ((s.tileBytes o true).map fun b => (b.1, b.2, 1)) s t

/-- R158, R198, R199: HOPEN, HSEAL, HFREE. -/
def Obligations.HandlesComplete : Prop := HandleOpenCompletes ∧ HandleSealFreeComplete

/-- R161, R162, R201 to R203: copies into a buffer send sectors on their way; copies out record a drain. -/
def Obligations.CopiesComplete : Prop := CopiesInComplete ∧ CopiesOutComplete

namespace Sys2Proof.Claims

/-! ### Boundaries, traps, control registers (08 R170 to R177, 09 R196, R206 to R213, 21 R336 to R339) -/

/-- A boundary is not held: no matrix operation is outstanding, and before one of SYSTEM scope no gang decision is open (10 R221, 24
R381). -/
def MayClose (s : State) (scope : Nat) : Prop :=
  s.team.mc = 0 ∧ (scope = 4 → ∀ l g, s.launch? = some l → l.gang = some g → g.decided = some true)

/-- The team `u` after the closing half of a boundary: sets and records of the phase are empty, the tiles are committed, PTOP is CTOP. -/
def closedTeam (s t : State) (u : Team) : Team :=
  { u with
    floor := t.team.floor, readSet := [], readFrom := [], batch := [], accC := s.team.acc, ptop := s.team.ctop, popped := []
    retained := [], resv := [] }

/-- The domain of a release (08 R171): the team, its core, its die, the tenant's module, everything. -/
def scopeDomain (s : State) (scope : Nat) : Domain :=
  match scope with
  | 0 => .team s.team.key
  | 1 => .core s.team.core
  | 2 => .die s.core.die
  | 3 => .device
  | _ => .system

/-- The completion record of an entry (07 R166): its tag, KIND FULL, the team's index, the slot. -/
def fullRecord (idx : Nat) (e : BufEntry) : DWord :=
  BitVec.ofNat 64 ((e.evt.getD 0).toNat * 2 ^ 32 + 2 ^ 24 + idx % 16 * 2 ^ 20 + e.slot % 16 * 2 ^ 16)
/-- A record is asked for and has not been posted, and the handle is FULL (07 R167). -/
def Awaited (e : BufEntry) : Prop := e.evt ≠ none ∧ (e.st = .full ∨ e.st = .draining)

/-- What a boundary does to the handles of its team (07 R158, R167): one that is FULL with a drain pending is DRAINING, one that HFREE has
released without a drain is FREE, the others keep their state; no handle counts as opened or sealed in the open phase; a FULL handle's record is
due, to be posted in the order in which the handles became FULL. Other teams' handles are as before. -/
def HandlesAtBoundary (s t : State) : Prop :=
  (∀ n, (s.core.entry? n = none → t.core.entry? n = none) ∧ ∀ e, s.core.entry? n = some e →
    (e.team ≠ s.team.key → t.core.entry? n = some e) ∧
    (e.team = s.team.key → e.st = .full → e.drain = false → e.freed = true → t.core.entry? n = none) ∧
    (e.team = s.team.key → ¬ (e.st = .full ∧ e.drain = false ∧ e.freed = true) → ∃ x, t.core.entry? n = some x ∧
      x = { e with st := if e.st = .full ∧ e.drain = true then .draining else e.st, cur := false, sealCur := false, evt := x.evt } ∧
      (Awaited e → x.evt = none) ∧ (¬ Awaited e → x.evt = e.evt))) ∧
    ∀ x, x ∈ t.blk.evw ↔ x ∈ s.blk.evw ∨
      ∃ n e, s.core.entry? n = some e ∧ e.team = s.team.key ∧ Awaited e ∧ x = (e.stamp, fullRecord s.team.idx e)

/-- The phase start that a discard returns to is what the team holds now (08 R177, 02 R30, 05 R95, 07 R160). -/
def StartNoted (t : State) : Prop :=
  let u := t.team
  u.snap = {
    pc := u.pc, hdr := u.hdr, status := u.status, rm := u.rm, seed := u.seed, spos := u.spos, clkhi := u.clkhi, mstat := u.mstat
    depth := u.depth, crec := u.crec, ctop := u.ctop, dl := u.dl, priv := u.priv, savex := u.savex, epc := u.epc, eia := u.eia
    cause := u.cause, elane := u.elane, einfo := u.einfo, ehdr := u.ehdr, slots := u.h, ents := u.snap.ents, seqno := u.seqno } ∧
    ((t.core.bt.map (·.1)).Nodup → ∀ n e, look none n u.snap.ents = some e ↔ t.core.entry? n = some e ∧ e.team = u.key)

/-- What a boundary of `scope` does outside its team (08 R172): the records join the queue as one batch, the floor keeps what it held
and gains what the phase has read from and what has completed for the team; its copies in flight run on; its handles take their step; no byte
of memory changes yet. -/
def PhaseClosed (scope : Nat) (s t : State) : Prop :=
  (s.team.batch = [] → t.ten.queued = s.ten.queued) ∧
    (s.team.batch ≠ [] → ∃ b, t.ten.queued = s.ten.queued ++ [b] ∧ b.id = s.ten.nextBatch ∧ b.recs = s.team.batch ∧
      b.team = s.team.key ∧ b.scope = scope ∧ b.dom = scopeDomain s scope) ∧
    (∀ b, b ∈ t.team.floor ↔ b ∈ s.team.floor ∨ b ∈ s.team.readFrom ∨
      ∃ d ∈ s.ten.done, d.id = b ∧ d.dom.has s.team.key s.team.core s.core.die = true) ∧
    t = { s with
      team := t.team, blk := { s.blk with evw := t.blk.evw }
      core := { s.core with bt := t.core.bt, tlb := t.core.tlb, pmcnt := t.core.pmcnt }
      ten := { s.ten with queued := t.ten.queued, nextBatch := t.ten.nextBatch, sectors := t.ten.sectors, panes := t.ten.panes } } ∧
    t.ten.sectors = s.ten.sectors.map (fun x => if x.team = s.team.key then { x with cur := false } else x) ∧
    ((s.core.bt.map (·.1)).Pairwise (· < ·) → HandlesAtBoundary s t) ∧ SamePanes s t ∧ SameBytes s t

/-- Words of a phase that asks for `n` units (09 R206): the pane default for 0, at most the pane maximum. -/
def phaseWords (s : State) (n : Nat) : Nat := 64 * if n = 0 then s.pane.nd else min n s.pane.nm

/-- The team `u` in a trap handler (21 R336). -/
def inHandler (s : State) (code sub : Nat) (epc eia : VA) (back : Option (VA × Nat)) (u : Team) : Team :=
  { u with
    epc := epc, eia := eia, cause := BitVec.ofNat 32 (256 * code + sub), elane := 0xFFFFFFFF#32, einfo := 0, savex := u.exec
    exec := u.live, priv := true, pc := s.handler, hdr := none, cl := none, ehdr := back }

/-- A control register of 09 R213: CCFG, STRCNT, STRHI, ECCCOR, PMSEL, PMCNT. -/
def controlValue (c : Core) (k : Nat) : Word :=
  match k with
  | 0 => BitVec.ofNat 32 ((c.num - 12 * c.pane) * 256 + (2 ^ c.quarters - 1))
  | 1 => BitVec.ofNat 32 c.strCnt
  | 2 => c.strHi
  | 3 => c.eccCor
  | 4 => c.pmsel
  | _ => c.pmcnt

end Sys2Proof.Claims

/-- R158, R167, R172, R177, R206, R207: YIELD closes the phase and opens the next one with its deadline; BAR closes it and waits, naming its batch. -/
def Obligations.BoundariesComplete : Prop :=
  (∀ (o : IOps) (c : Clause) (s : State), Ready (.yield_ o) c s → MayClose s o.d.toNat → ∃ t, exec (.yield_ o) s = .next t ∧
    PhaseClosed o.d.toNat s t ∧ StartNoted t ∧
    t.team = { closedTeam s t (ended (.yield_ o) c (nextHeader c) s.team) with
      wait := .run, dl := phaseWords s o.imm.toNat, snap := t.team.snap }) ∧
  ∀ (o : ROps) (c : Clause) (s : State), Ready (.bar o) c s → MayClose s o.d.toNat → ∃ t, exec (.bar o) s = .next t ∧
    PhaseClosed o.d.toNat s t ∧
    t.team = { closedTeam s t (ended (.bar o) c (nextHeader c) s.team) with
      wait := .bar (if s.team.batch = [] then 0 else s.ten.nextBatch) }

/-- R182, R196: a returning atomic closes the phase at its scope and waits with its lanes to be performed; AC counts it. -/
def Obligations.ReturningAtomicsComplete : Prop :=
  ∀ (o : XOps) (c : Clause) (s : State), s.team.ac < 63 → MayClose s o.scope8.toNat →
    (Ready (.atdR o) c s → Granted (atomGroup o o.d ++ o.a.toNat :: (atomGroup o o.b ++ casGroup o o.c)) s →
      InBounds (atomBytes o.loNib.toNat) s.spLimit (s.offsA o) → ∃ t, exec (.atdR o) s = .next t ∧ PhaseClosed o.scope8.toNat s t ∧
        t.team = { closedTeam s t (ended (.atdR o) c (nextHeader c) s.team) with
          ac := s.team.ac + 1
          wait := .atom {
            scope := o.scope8.toNat, sp := 1 + s.core.die, op := o.fn.toNat, ty := o.loNib.toNat, dst := o.d.toNat, old := [], seen := []
            mism := false, va := c.va
            todo := s.active.map fun k => (k, (s.vreg o.a.toNat k).toNat, s.atomVal o o.b k, s.casVal o o.c k) } }) ∧
    (Ready (.gatomr o) c s → Granted (atomGroup o o.d ++ [o.a.toNat, o.a.toNat + 1] ++ atomGroup o o.b ++ casGroup o o.c) s →
      (∀ k ∈ s.active, s.vaddr o.a.toNat k % atomBytes o.loNib.toNat = 0 ∧ Usable s true true (s.vaddr o.a.toNat k)) →
      ∃ t, exec (.gatomr o) s = .next t ∧ PhaseClosed o.scope8.toNat s t ∧
        t.team = { closedTeam s t (ended (.gatomr o) c (nextHeader c) s.team) with
          ac := s.team.ac + 1
          wait := .atom {
            scope := o.scope8.toNat, sp := 0, op := o.fn.toNat, ty := o.loNib.toNat, dst := o.d.toNat, old := [], seen := []
            mism := false, va := c.va
            todo := s.active.map fun k => (k, s.vaddr o.a.toNat k, s.atomVal o o.b k, s.casVal o o.c k) } })

/-- R208: SYSC closes the phase at SYSTEM scope and waits with its request, the vector operand captured with Active(). -/
def Sys2Proof.Claims.ServiceCallCompletes : Prop :=
  ∀ (o : XOps) (c : Clause) (s : State), Ready (.sysc o) c s → MayClose s 4 → (o.mod.getLsbD 0 = true → Granted [o.c.toNat] s) →
    ∃ t, exec (.sysc o) s = .next t ∧ PhaseClosed 4 s t ∧
      t.team = { closedTeam s t (ended (.sysc o) c (nextHeader c) s.team) with
        wait := .sysc {
          fn := o.fn.toNat, a0 := s.sval o.a, a1 := s.sval o.b, dst := o.d.toNat, reply := none
          vec := if o.mod.getLsbD 0 then some (maskOf s.active, s.active.map fun k => s.vreg o.c.toNat k) else none } }

/-- R209, R336: outside a handler, in a launch with one, TRAP at clause end and BRK at issue enter it; TRAP returns to the next header,
BRK to the word after it. That a BRK in the last word of a clause with S = 1 enters without the park is the model's choice (assumption 73). -/
def Sys2Proof.Claims.TrapsEnterHandler : Prop :=
  ∀ (o : ROps) (c : Clause) (s : State), s.team.priv = false → s.handler ≠ 0 →
    (Ready (.trap o) c s → ∃ t, exec (.trap o) s = .next t ∧ OnlyTeam 1 1 s t ∧
      t.team = inHandler s 7 o.d.toNat (nextHeader c) c.va none (ended (.trap o) c (nextHeader c) s.team)) ∧
    (Ready (.brk o) c s → ∃ t, exec (.brk o) s = .next t ∧ t = { s with team := t.team } ∧ SameBytes s t ∧
      t.team = inHandler s 8 o.d.toNat (c.va + 4#56) c.va (some (c.hdr, c.n)) s.team)

/-- R336, R339: every trap raised outside a handler, in a launch with one, enters it with cause, lane, value and return point saved and
all lanes on; raised inside a handler, or in a launch without one, it ends the team with UNHANDLED. -/
def Obligations.TrapEntryRule : Prop :=
  ∀ (s : State) (code sub : Nat) (lane info : Word) (epc eia : VA) (back : Option (VA × Nat)),
    (s.team.priv = false → s.handler ≠ 0 →
      s.takeTrap code sub lane info epc eia back = { s with
        team := { inHandler s code sub epc eia back s.team with elane := lane, einfo := info } }) ∧
    (s.team.priv = true ∨ s.handler = 0 → s.takeTrap code sub lane info epc eia back = s.endFault 22 code eia sub)

/-- R210, R338: ERET in a handler closes the phase at SYSTEM scope, restores EXEC and the mode, and opens a phase at EPC; outside a
handler it traps with ILLEGAL RESERVED. -/
def Sys2Proof.Claims.ReturnFromTrapCompletes : Prop :=
  ∀ (o : ROps) (c : Clause) (s : State), Ready (.eret o) c s →
    (s.team.priv = true → MayClose s 4 → ∃ t, exec (.eret o) s = .next t ∧ PhaseClosed 4 s t ∧
      StartNoted t ∧
      t.team.hdr = (match s.team.ehdr with
        | some (h, n) => if 1 ≤ (s.team.epc - h).toNat / 4 ∧ (s.team.epc - h).toNat / 4 ≤ n then some h else none
        | none => none) ∧
      t.team = { closedTeam s t (ended (.eret o) c s.team.epc s.team) with
        exec := s.team.savex &&& s.team.live, priv := false, hdr := t.team.hdr, wait := .run, dl := phaseWords s 0
        snap := t.team.snap }) ∧
    (s.team.priv = false → exec (.eret o) s = .next (s.takeTrap 1 6 0xFFFFFFFF#32 0 c.va c.va (some (c.hdr, c.n))))

/-- R72, R212, R213: in privileged mode LDOVT loads the context's overflow table, PRD reads and PWR writes a control register of the
core. -/
def Sys2Proof.Claims.ControlRegistersComplete : Prop :=
  ∀ (o : ROps) (c : Clause) (s : State), s.team.priv = true →
    (Ready (.ldovt o) c s → (s.sval o.a).toNat < 256 → (∀ k, k < 4 → (s.sval o.a).toNat / 4 ^ k % 4 ≠ 3) →
      ∃ t, exec (.ldovt o) s = .next t ∧ t.team = movedTo t.team s.team ∧ Advanced 1 c s.team t.team ∧
        t = { s with
          team := t.team, core := counted 1 1 s.core
          ten := { s.ten with ctxs := s.ten.ctxs.map fun x =>
            if x.num = s.blk.ctx then { x with ovt := BitVec.ofNat 8 (s.sval o.a).toNat } else x } } ∧ SameBytes s t) ∧
    (∀ k, Ready (.prd o) c s → k = (s.sval o.a).toNat → k < 6 → ∃ t v, exec (.prd o) s = .next t ∧
      v = controlValue (counted 1 1 s.core) k ∧ (∀ j, look 0 j t.team.s = if j = o.d.toNat then v else look 0 j s.team.s) ∧
      t.team = { movedTo t.team s.team with s := t.team.s } ∧ Advanced 1 c s.team t.team ∧
      t = { s with
        team := t.team
        core := { counted 1 1 s.core with strHi := if k = 1 then BitVec.ofNat 32 (s.core.strCnt / 2 ^ 32) else s.core.strHi } } ∧
      SameBytes s t) ∧
    (∀ k x, Ready (.pwr o) c s → k = (s.sval o.a).toNat → x = s.sval o.b → (k = 3 ∨ k = 4 ∧ x.toNat ≤ 5 ∨ k = 5) →
      ∃ t, exec (.pwr o) s = .next t ∧ t.team = movedTo t.team s.team ∧ Advanced 1 c s.team t.team ∧
        t = { s with
          team := t.team
          core := { counted 1 1 s.core with
            eccCor := if k = 3 then x else s.core.eccCor, pmsel := if k = 4 then x else s.core.pmsel
            pmcnt := if k = 5 then x else (counted 1 1 s.core).pmcnt } } ∧ SameBytes s t)

/-- R212, R213: outside privileged mode LDOVT, PRD and PWR with legal operands trap with PRIV and change no register. -/
def Sys2Proof.Claims.PrivilegedInstructionsTrap : Prop :=
  ∀ (o : ROps) (c : Clause) (s : State), s.team.priv = false →
    (Ready (.ldovt o) c s → (s.sval o.a).toNat < 256 → (∀ k, k < 4 → (s.sval o.a).toNat / 4 ^ k % 4 ≠ 3) →
      exec (.ldovt o) s = .next (s.takeTrap 3 0 0xFFFFFFFF#32 0 c.va c.va (some (c.hdr, c.n)))) ∧
    (Ready (.prd o) c s → (s.sval o.a).toNat < 6 →
      exec (.prd o) s = .next (s.takeTrap 3 0 0xFFFFFFFF#32 0 c.va c.va (some (c.hdr, c.n)))) ∧
    (Ready (.pwr o) c s → ((s.sval o.a).toNat = 3 ∨ (s.sval o.a).toNat = 4 ∧ (s.sval o.b).toNat ≤ 5 ∨ (s.sval o.a).toNat = 5) →
      exec (.pwr o) s = .next (s.takeTrap 3 0 0xFFFFFFFF#32 0 c.va c.va (some (c.hdr, c.n))))

/-- R212, R213: in either mode LDOVT of a value with a field equal to 3 or a bit above the table, PRD of an index without a register, and PWR of
one that cannot be written or of an event that PMSEL does not have trap with ILLEGAL, subcode RESERVED, and change no register. -/
def Sys2Proof.Claims.BadOperandsTrap : Prop :=
  ∀ (o : ROps) (c : Clause) (s t : State), t = s.takeTrap 1 6 0xFFFFFFFF#32 0 c.va c.va (some (c.hdr, c.n)) →
    (Ready (.ldovt o) c s → (256 ≤ (s.sval o.a).toNat ∨ ∃ k, k < 4 ∧ (s.sval o.a).toNat / 4 ^ k % 4 = 3) → exec (.ldovt o) s = .next t) ∧
    (Ready (.prd o) c s → 6 ≤ (s.sval o.a).toNat → exec (.prd o) s = .next t) ∧
    (Ready (.pwr o) c s → ((s.sval o.a).toNat ≤ 2 ∨ 6 ≤ (s.sval o.a).toNat ∨ (s.sval o.a).toNat = 4 ∧ 6 ≤ (s.sval o.b).toNat) →
      exec (.pwr o) s = .next t)

/-- R51, R89, R212, R213: outside privileged mode a privileged register or instruction traps with PRIV and changes no register; a code without a register,
or an operand that the register or the instruction does not take, traps with ILLEGAL, subcode RESERVED. That a bad operand comes before the check of the mode is the
model's reading (assumption 12). -/
def Obligations.PrivilegeIsChecked : Prop := SpecialRegisterTraps ∧ PrivilegedInstructionsTrap ∧ BadOperandsTrap

/-- R209, R210, R336, R338: TRAP and BRK enter the handler; ERET returns from it. That TRAP counts its word and BRK does not is the
model's reading (assumption 13), that BRK in the last word of a clause with S = 1 enters without the park its choice (assumption 73). -/
def Obligations.TrapsAndReturnComplete : Prop := TrapsEnterHandler ∧ ReturnFromTrapCompletes

/-- R72, R208, R212, R213: SYSC, LDOVT, PRD, PWR. That a reading of PMCNT counts itself is the model's reading (assumption 24). -/
def Obligations.ServicesAndControlComplete : Prop := ServiceCallCompletes ∧ ControlRegistersComplete

namespace Sys2Proof.Claims

/-! ### Matrix and relation instructions (10 R214 to R224, 11 R230 to R243) -/

/-- Vector, relation and tile registers named are granted (02 R20). -/
def GrantedAll (vs xs ts : List Nat) (s : State) : Prop :=
  (∀ r ∈ vs, r < s.team.budget) ∧ (∀ r ∈ xs, r < s.team.gx) ∧ ∀ r ∈ ts, r < s.team.ga

/-- Handle `h` names a FULL or DRAINING buffer of at least `need` bytes (11 R230, 09 R200). -/
def Holds (s : State) (h need : Nat) (e : BufEntry) : Prop :=
  ∃ n, s.slotEntry h = some (n, e) ∧ (e.st = .full ∨ e.st = .draining) ∧ need ≤ e.size

/-- Bytes of the A operand of MMA (11 R233, R236): 384 per row, and one per block and row with its scales. -/
def rowBytes (o : XOps) : Nat :=
  384 * (o.c.toNat + 1) +
    if o.mod.getLsbD 0 then (if o.fn = 8 then 12 else if o.fn = 10 then 6 else 24) * (o.c.toNat + 1) else 0

/-- Checks of each instruction of the family beside its counter, with the vector registers that it will write, the scalars that it captures,
and its buffer. -/
inductive MatForms (s : State) : Instr → List Nat → List Word → Option BufEntry → Prop
  | mldb (o : XOps) (e : BufEntry) : Holds s o.a.toNat 98304 e →
      MatForms s (.mldb o) [] (if o.mod.getLsbD 0 then [s.sreg o.b.toNat, s.sreg (o.b.toNat + 1)] else []) (some e)
  | mma (o : XOps) (e : BufEntry) : GrantedAll [] [] [o.d.toNat] s → Holds s o.b.toNat (rowBytes o) e →
      MatForms s (.mma o) [] [] (some e)
  | moutl (o : XOps) (e : BufEntry) : GrantedAll [] [] [o.d.toNat] s → Holds s o.b.toNat (8 * (s.sval o.c).toNat) e →
      MatForms s (.moutl o) [] [s.sval o.c] (some e)
  | mrd (o : XOps) : GrantedAll (span o.d.toNat (o.fn.toNat + 1)) [] [o.a.toNat] s → (s.sval o.b).toNat + o.fn.toNat ≤ 255 →
      MatForms s (.mrd o) (span o.d.toNat (o.fn.toNat + 1))
        [s.sval o.b, s.sval o.c, BitVec.ofNat 32 (modeOf s o), s.ovt.setWidth 32, s.team.seed] none
  | mzero (o : ROps) : GrantedAll [] [] [o.d.toNat] s → MatForms s (.mzero o) [] [] none
  | xldb (o : XOps) : GrantedAll [o.a.toNat] [] [] s → MatForms s (.xldb o) [] [s.sval o.b] none
  | xcmp (o : XOps) : GrantedAll [o.b.toNat] [o.d.toNat] [] s → MatForms s (.xcmp o) [] [] none
  | xrow (o : XOps) : GrantedAll [o.d.toNat] [o.a.toNat] [] s → MatForms s (.xrow o) [o.d.toNat] [] none
  | xcol (o : XOps) : GrantedAll [o.d.toNat] [o.a.toNat] [] s → MatForms s (.xcol o) [o.d.toNat] [] none
  | xclos (o : XOps) : GrantedAll [] [o.d.toNat, o.a.toNat] [] s → MatForms s (.xclos o) [] [] none
  | xcomp (o : ROps) : GrantedAll [] [o.d.toNat, o.a.toNat, o.b.toNat] [] s → MatForms s (.xcomp o) [] [] none
  | xtrn (o : ROps) : GrantedAll [] [o.d.toNat, o.a.toNat] [] s → MatForms s (.xtrn o) [] [] none
  | xlog (o : XOps) : GrantedAll [] [o.d.toNat, o.a.toNat, o.b.toNat] [] s → MatForms s (.xlog o) [] [] none
  | xset (o : XOps) : GrantedAll [] [o.d.toNat] [] s → MatForms s (.xset o) [] [] none
  | xmov (o : XOps) : o.fn = 0 → GrantedAll (span o.d.toNat 2) [o.a.toNat] [] s → MatForms s (.xmov o) (span o.d.toNat 2) [] none
  | xmovTo (o : XOps) : o.fn ≠ 0 → GrantedAll (span o.a.toNat 2) [o.d.toNat] [] s → MatForms s (.xmov o) [] [] none

/-- The operation that enters the sequencer: Active(), captured scalars and buffer are those of the issue (10 R216, 11 R230). -/
def entered (s : State) (i : Instr) (sc : List Word) (e : Option BufEntry) : MatOp :=
  { id := s.ten.nextMop, team := s.team.key, core := s.core.num, ins := i, va := s.here, act := maskOf s.active, sc := sc
    base := match e with | some e => e.base | none => 0
    spad := match e with | some e => e.spad | none => false
    fence := s.team.fence }

end Sys2Proof.Claims

/-- R216, R230: an instruction of the family enters the sequencer's queue in its issue order and MC rises; tiles, relation and vector
registers, local store and every byte of memory change only when the operation completes. MFENCE lets the operations issued after it see
every local-store access performed before it (R184). That MRD takes its mode, overflow table and SEED at issue, and draws at the stream
position of its completion, is the model's reading (assumption 20). -/
def Obligations.MatrixIssueCompletes : Prop :=
  (∀ (i : Instr) (c : Clause) (s : State) (vs : List Nat) (sc : List Word) (e : Option BufEntry),
    Ready i c s → MatForms s i vs sc e → s.team.mc < 63 →
    ∃ t, exec i s = .next t ∧
      t.ten = { s.ten with mops := s.ten.mops ++ [entered s i sc e], nextMop := s.ten.nextMop + 1 } ∧
      (∃ p, t.team = { movedTo t.team s.team with
          mc := s.team.mc + 1, pend := s.team.pend ++ [p] } ∧
        p.kind = .mc ∧ p.mop = s.ten.nextMop ∧ p.ws = [] ∧ p.sdst = [] ∧ p.mdst = [] ∧ p.vdst.map (·.1) = vs ∧
        ∀ x ∈ p.vdst, ∀ k, x.2.getLsbD k = (decide (k ∈ s.active) && decide (k < 64))) ∧
      Advanced (words i) c s.team t.team ∧
      t = { s with team := t.team, core := counted 1 1 s.core, ten := t.ten } ∧ SameBytes s t) ∧
  ∀ (o : ROps) (c : Clause) (s : State), Ready (.mfence o) c s → ∃ t, exec (.mfence o) s = .next t ∧
    t.team = { movedTo t.team s.team with fence := s.blk.stamp } ∧ Advanced 1 c s.team t.team ∧ OnlyTeam 1 1 s t

namespace Sys2Proof.Claims

/-! ### Sampler, hash grid, traversal, random numbers, table engine, device launch (12, 13, 18) -/

/-- A request goes to an engine or to the table engine: its counter and its outstanding result, with destinations for every lane that it
serves. Bytes that the issue itself reads join the read set; nothing else of the team changes. -/
def Requested (i : Instr) (c : Clause) (k : CtrKind) (ds ms : List Nat) (p : Pend) (s t : State) : Prop :=
  t.team = { movedTo t.team s.team with
    xc := if k = .xc then s.team.xc + 1 else s.team.xc, tc := if k = .tc then s.team.tc + 1 else s.team.tc
    pend := s.team.pend ++ [p], readSet := t.team.readSet, readFrom := t.team.readFrom } ∧
    p.kind = k ∧ p.vdst.map (·.1) = ds ∧ p.mdst = ms ∧ p.sdst = [] ∧ p.ws = [] ∧
    (∃ q, p.req = some q ∧ q.ins = i ∧ q.va = s.here ∧ ∀ x ∈ p.vdst, x.2 = q.act ||| q.help) ∧
    Advanced (words i) c s.team t.team ∧
    t = { s with
      team := t.team, ten := { s.ten with pageReqs := t.ten.pageReqs, dropReq := t.ten.dropReq, panes := t.ten.panes }
      core := { s.core with tlb := t.core.tlb, pmcnt := t.core.pmcnt } } ∧ SamePanes s t ∧ SameBytes s t

/-- Checks and captures of TEX, TEXLD, HGF and TRACE (13 R266 to R271): registers granted; the descriptor's read, if there is one, neither
waits for a queued batch nor meets a poisoned sector; destinations; approximate mask; lanes served; values captured per lane, for HGF with a
mark per level, not 0 where a page that the level reads lacks at issue (14 R277, assumption 71). -/
inductive EngineForms (s : State) : Instr → List Nat → List Nat → (Nat → Prop) → (Nat → List Word) → Prop
  | tex (o : XOps) : Granted (span o.d.toNat 4 ++ span o.a.toNat 2) s → s.texDesc o ≠ .wait → s.texDesc o ≠ .poisoned →
      EngineForms s (.tex o) (span o.d.toNat 4) [o.c.toNat] (fun k => k ∈ s.acting) (s.texSrc o)
  | texld (o : XOps) : Granted (span o.d.toNat 4 ++ span o.a.toNat 3) s → s.texDesc o ≠ .wait → s.texDesc o ≠ .poisoned →
      EngineForms s (.texld o) (span o.d.toNat 4) [o.c.toNat] (fun k => k ∈ s.active)
        (fun k => [s.vreg o.a.toNat k, s.vreg (o.a.toNat + 1) k, s.vreg (o.a.toNat + 2) k])
  | hgf (o : XOps) : Granted (span o.d.toNat (o.lo8.toNat % 128 + 1) ++ span o.a.toNat (o.lo8.toNat / 128 + 2)) s → s.hgDesc o ≠ .wait →
      s.hgDesc o ≠ .poisoned →
      EngineForms s (.hgf o) (span o.d.toNat (o.lo8.toNat % 128 + 1)) [o.c.toNat] (fun k => k ∈ s.active)
        (fun k => (span o.a.toNat (o.lo8.toNat / 128 + 2)).map (fun r => s.vreg r k) ++
          (s.hgDesc o).levels.map fun l =>
            if s.ten.readable (l.reads ((span o.a.toNat (o.lo8.toNat / 128 + 2)).map fun r => s.vreg r k)) then 0 else 1)
  | trace (o : XOps) : Granted (span o.d.toNat 8 ++ span o.a.toNat 8) s →
      EngineForms s (.trace o) (span o.d.toNat 8) [] (fun k => k ∈ s.active) (fun k => (span o.a.toNat 8).map fun r => s.vreg r k)

/-- Each pair's word added to the counter-based random function (12 R261). -/
def randomWord (s : State) (o : XOps) (k : Nat) : Word :=
  mix (s.vreg o.a.toNat k) (if o.lo8.getLsbD 0 then s.sval o.b else s.vreg o.b.toNat k)

/-- Checks and captures of TRES and TVIEW (18 R316 to R318). -/
inductive TableForms (s : State) : Instr → List Nat → List Word → (Nat → List Word) → Prop
  | tres (o : XOps) (w : World) (ty : Nat) : s.selector (s.sval o.b) (o.fn == 0) = some (w, ty) →
      Granted (span o.d.toNat 3 ++ span o.a.toNat 2) s →
      TableForms s (.tres o) (span o.d.toNat 3) [s.sval o.b] (fun k => [s.vreg o.a.toNat k, s.vreg (o.a.toNat + 1) k])
  | tview (o : XOps) (w : World) (ty : Nat) : s.selector (s.sval o.b) true = some (w, ty) → Granted (o.a.toNat :: span o.d.toNat 5) s →
      TableForms s (.tview o) (span o.d.toNat 5)
        (s.sval o.b :: if o.fn = 2 then [s.sreg o.c.toNat, s.sreg (o.c.toNat + 1)] else []) (fun k => [s.vreg o.a.toNat k])

/-- The world, the type and the value of a structural record per lane (17 R305, 18 R321). -/
inductive QueueForms (s : State) : Instr → World → QOp → Nat → Byte → (Nat → List Word) → Prop
  | tqdel (o : XOps) (w : World) (ty : Nat) : s.selector (s.sval o.b) false = some (w, ty) → Granted (span o.a.toNat 2) s →
      QueueForms s (.tqdel o) w .del ty o.a (fun _ => [])
  | tqrem (o : XOps) (w : World) (ty : Nat) : s.selector (s.sval o.b) true = some (w, ty) → Granted (span o.a.toNat 2) s →
      QueueForms s (.tqrem o) w .rem ty o.a (fun _ => [])
  | tqadd (o : XOps) (w : World) (ty : Nat) : s.selector (s.sval o.b) true = some (w, ty) → look 0 ty w.types = o.lo8.toNat + 1 →
      Granted (span o.a.toNat 2 ++ span o.d.toNat (o.lo8.toNat + 1)) s → 4 * (o.lo8.toNat + 1) * s.active.length ≤ 16384 →
      QueueForms s (.tqadd o) w .add ty o.a (fun k => (span o.d.toNat (o.lo8.toNat + 1)).map fun r => s.vreg r k)

/-- What a lane without a handle receives (17 R306). -/
def allOnes : DWord := 0xFFFFFFFFFFFFFFFF#64

/-- `i` is the lowest FREE index of W (17 R306). -/
def LowestFree (w : World) (i : Nat) : Prop := i < w.cap ∧ (w.w.ent i).st = 0 ∧ ∀ j, j < i → (w.w.ent j).st ≠ 0
/-- W's directory chunk `k` is its own, or the pool has room for a copy of it. -/
def DirRoom (w : World) (k : Nat) : Prop := w.dirVA w.w k ≠ w.dirVA w.p k ∨ ∃ va, w.fits [] va 3072 = true
/-- W with its directory chunk `k` its own (17 R304, R306): as it is, or at a free place of the pool. -/
def OwnsDir (w : World) (k : Nat) (v : World) : Prop :=
  (w.dirVA w.w k ≠ w.dirVA w.p k → v = w) ∧
    (w.dirVA w.w k = w.dirVA w.p k → w.fits [] (v.dirVA v.w k) 3072 = true ∧ (∀ j, j ≠ k → v.dirVA v.w j = w.dirVA w.w j) ∧
      v = { w with w := { w.w with dirAt := v.w.dirAt } })
/-- W with entry `i` of the directory changed to `e`. -/
def EntryIs (w : World) (i : Nat) (e : DirEnt) (v : World) : Prop :=
  v = { w with w := { w.w with dir := v.w.dir } } ∧ ∀ j, v.w.ent j = if j = i then e else w.w.ent j

/-- One reservation in W from `w`, begun at `w0`: the world after it and the index, if there is one (17 R306). -/
inductive Reserves (w0 : World) : World → World → Option Nat → Prop
  | full (w : World) : (∀ i, i < w.cap → (w.w.ent i).st ≠ 0) → Reserves w0 w w none
  | noSpace (w : World) (i : Nat) : LowestFree w i → ¬ DirRoom w (i / 64) → Reserves w0 w w0 none
  | retire (w v y x : World) (i : Nat) (r : Option Nat) : LowestFree w i → (w.w.ent i).gen = 0xFFFFFF → OwnsDir w (i / 64) v →
      EntryIs v i { w.w.ent i with st := 3, stick := w.w.num } y → Reserves w0 y x r → Reserves w0 w x r
  | take (w v y : World) (i : Nat) : LowestFree w i → (w.w.ent i).gen ≠ 0xFFFFFF → OwnsDir w (i / 64) v →
      EntryIs v i { w.w.ent i with gen := (w.w.ent i).gen + 1, st := 1, stick := w.w.num } y → Reserves w0 w y (some i)
/-- `n` reservations in turn. -/
inductive ReservesAll : World → Nat → World → List (Option Nat) → Prop
  | none (w : World) : ReservesAll w 0 w []
  | next (w x y : World) (n : Nat) (r : Option Nat) (rs : List (Option Nat)) : Reserves w w x r → ReservesAll x n y rs →
      ReservesAll w (n + 1) y (r :: rs)
/-- The handle of a reserved index, or all ones (17 R298). -/
def handleIn (w : World) (i : Option Nat) : DWord :=
  match i with
  | some i => BitVec.ofNat 64 (w.num * 2 ^ 56 + (w.w.ent i).gen * 2 ^ 32 + i)
  | none => allOnes

/-- Memory at `a` may be read and written, is not on a peer and not poisoned. -/
def Plain (s : State) (a : Nat) : Prop := Usable s true true a ∧ s.ten.remote a = false ∧ s.ten.poisoned a = false

end Sys2Proof.Claims

/-- R265 to R271: TEX, TEXLD, HGF and TRACE capture their operands and leave a request with every lane they serve outstanding in XC; no
register is written and no byte of memory changes before the reply. -/
def Sys2Proof.Claims.EngineRequestsComplete : Prop :=
  ∀ (i : Instr) (c : Clause) (s : State) (ds ms : List Nat) (P : Nat → Prop) (src : Nat → List Word),
    Ready i c s → EngineForms s i ds ms P src → s.team.xc < 63 →
    ∃ t p q, exec i s = .next t ∧ Requested i c .xc ds ms p s t ∧ p.req = some q ∧
      (∀ k ws, (k, ws) ∈ q.src ↔ P k ∧ ws = src k) ∧ (∀ k, k < 1024 → ((q.act ||| q.help).getLsbD k = true ↔ P k))

/-- R261, R273: RND mixes its two operands lane by lane; form 1 gives the upper 24 bits divided by 2^24 as FP32. -/
def Sys2Proof.Claims.RandomNumbersComplete : Prop :=
  ∀ (o : XOps) (c : Clause) (s : State), Ready (.rnd o) c s → Granted (o.d.toNat :: o.a.toNat :: if o.lo8.getLsbD 0 then [] else [o.b.toNat]) s →
    ∃ t, exec (.rnd o) s = .next t ∧
      WroteLanes (.rnd o) c o.d.toNat
        (fun k => if o.fn = 0 then randomWord s o k else rne32 (.fin false ((randomWord s o k).toNat / 256) (-24))) 0 s.team.spos s t

/-- R253, R270: HGS with a descriptor that can be read adds one record to the batch, the FP32 sum for each gradient word of its active
lanes; with one that cannot, no record and INVALID. No byte of memory changes before the batch completes. The record has no stamp: the
order of its additions among those of other instructions is left open (04 R80). -/
def Sys2Proof.Claims.ScatterCompletes : Prop :=
  ∀ (o : XOps) (c : Clause) (s : State), Ready (.hgs o) c s →
    Granted (span o.d.toNat (o.lo8.toNat % 128 + 1) ++ span o.a.toNat (o.lo8.toNat / 128 + 2)) s → (s.pairVA o.c.toNat).toNat % 64 = 0 →
    (∀ bs u, s.hgDesc o = .ok bs u → (s.hgSums o (.ok bs u) ≠ [] → s.team.recCount < 256) →
      (∀ x ∈ s.hgSums o (.ok bs u), ∀ j, j < 4 → Usable s false true ((x.1 + j) % 2 ^ 56) ∧ s.ten.remote ((x.1 + j) % 2 ^ 56) = false) →
      ∃ t, exec (.hgs o) s = .next t ∧ Advanced 2 c s.team t.team ∧ OnlyTeamTlb s t ∧
        t.team = { movedTo t.team s.team with
          status := t.team.status, readSet := u.readSet, readFrom := u.readFrom
          batch := s.team.batch ++ if s.hgSums o (.ok bs u) = [] then []
            else [.atomMm 0 3 ((s.hgSums o (.ok bs u)).map fun x => (x.1, x.2.1.setWidth 64, 0)) s.here none] }) ∧
    ∀ u, s.hgDesc o = .bad u → ∃ t, exec (.hgs o) s = .next t ∧ Advanced 2 c s.team t.team ∧ OnlyTeamTlb s t ∧
      t.team = { movedTo t.team s.team with
        status := if s.active = [] then s.team.status else s.team.status ||| 8, readSet := u.readSet, readFrom := u.readFrom }

/-- R316 to R318: TRES and TVIEW with a legal selector leave a request with every active lane outstanding in TC. -/
def Sys2Proof.Claims.TableReadsComplete : Prop :=
  ∀ (i : Instr) (c : Clause) (s : State) (ds : List Nat) (sc : List Word) (src : Nat → List Word),
    Ready i c s → TableForms s i ds sc src → s.team.tc < 63 →
    ∃ t p q, exec i s = .next t ∧ Requested i c .tc ds [] p s t ∧ p.req = some q ∧ q.sc = sc ∧ q.src = s.active.map (fun k => (k, src k)) ∧
      q.act = maskOf s.active ∧ q.help = 0 ∧ t = { s with team := t.team, core := counted 1 1 s.core }

/-- R305, R306, R320: TQNEW gives each active lane in turn the handle of the lowest FREE index, now RESERVED with its GEN raised by one, or
all ones where none is FREE or W's directory chunk cannot be copied; it records the creations and takes a sequence number. Only bytes of the
world's pool change. What the team had read of the entries it reads anew (assumption 76). -/
def Sys2Proof.Claims.ReservationsComplete : Prop :=
  ∀ (o : XOps) (c : Clause) (s : State) (w : World) (ty : Nat), Ready (.tqnew o) c s → s.selector (s.sval o.b) false = some (w, ty) →
    s.team.tc < 63 → Granted (span o.d.toNat 2) s → s.team.recCount < 256 → w.pool % 65536 = 0 →
    (∀ a, w.pool ≤ a → a < w.pool + w.poolsz → Plain s a) →
    (∀ k, k = 0 ∨ 64 * k < w.cap → w.pool ≤ w.dirVA w.w k ∧ w.dirVA w.w k + 3072 ≤ w.pool + w.poolsz) →
    ∃ (t : State) (p : Pend) (x : World) (is : List (Option Nat)) (hs : List DWord) (qs : List QRec), exec (.tqnew o) s = .next t ∧
      ReservesAll w s.active.length x is ∧ hs = is.map (handleIn x) ∧ t.ten.world? w.num = some x ∧
      p.kind = .tc ∧ p.vdst = (span o.d.toNat 2).map (fun r => (r, maskOf s.active)) ∧
      p.ws = (s.active.zip hs).flatMap (fun y => [.v o.d.toNat y.1 (y.2.setWidth 32), .v (o.d.toNat + 1) y.1 (y.2.extractLsb' 32 32)]) ∧
      qs = ((s.active.zip is).filter (·.2.isSome)).map (fun y =>
        ({ op := .new, handle := handleIn x y.2, ty := 0, val := [], key := s.orderKey y.1 } : QRec)) ∧
      t.team = { movedTo t.team s.team with
        tc := s.team.tc + 1, pend := s.team.pend ++ [p], batch := s.team.batch ++ if qs = [] then [] else [.queue w.num qs]
        resv := s.team.resv ++ (is.filterMap id).map (fun i => (w.num, i)), readSet := t.team.readSet, seqno := s.team.seqno + 1 } ∧
      (∀ y, y ∈ t.team.readSet ↔ y ∈ s.team.readSet ∧
        ¬ (y.1.1 = 0 ∧ ∃ i, some i ∈ is ∧ (x.entAt x.w i).1 ≤ y.1.2 ∧ y.1.2 < (x.entAt x.w i).1 + 48)) ∧
      t = { s with
        team := t.team, core := { s.core with tlb := t.core.tlb, pmcnt := t.core.pmcnt }
        ten := { s.ten with
          worlds := t.ten.worlds, main := t.ten.main, done := t.ten.done, nextBatch := t.ten.nextBatch, poison := t.ten.poison
          panes := t.ten.panes } } ∧ SamePanes s t ∧
      (∀ y ∈ s.ten.worlds, y.num ≠ w.num → y ∈ t.ten.worlds) ∧
      (∀ a, (a < w.pool ∨ w.pool + w.poolsz ≤ a) → t.ten.main.get a = s.ten.main.get a) ∧
      (∀ d a, (t.ten.space (d + 1)).get a = (s.ten.space (d + 1)).get a) ∧ Advanced 2 c s.team t.team

/-- R305, R321: TQDEL, TQREM and TQADD record a change for every active lane whose handle names the selector's world, and set INVALID if
one names another; each takes a sequence number; no byte of memory changes. -/
def Sys2Proof.Claims.QueueRecordsComplete : Prop :=
  ∀ (i : Instr) (c : Clause) (s : State) (w : World) (op : QOp) (ty : Nat) (a : Byte) (val : Nat → List Word),
    Ready i c s → QueueForms s i w op ty a val → s.team.recCount < 256 →
    ∃ t qs, exec i s = .next t ∧
      qs = (s.active.filter fun k => (s.vpair a.toNat k).toNat / 2 ^ 56 == w.num).map (fun k =>
        ({ op := op, handle := s.vpair a.toNat k, ty := ty, val := val k, key := s.orderKey k } : QRec)) ∧
      t.team = { movedTo t.team s.team with
        batch := s.team.batch ++ if qs = [] then [] else [.queue w.num qs]
        status := if ∃ k ∈ s.active, (s.vpair a.toNat k).toNat / 2 ^ 56 ≠ w.num then s.team.status ||| 8 else s.team.status
        seqno := s.team.seqno + 1 } ∧ Advanced 2 c s.team t.team ∧ OnlyTeam 1 1 s t

/-- R322: LAUNCH of a record inside the local store, with an aligned status object, records the submission and ends its clause. -/
def Obligations.DeviceLaunchCompletes : Prop :=
  ∀ (o : XOps) (c : Clause) (s : State) (a : Nat), Ready (.launch o) c s → a = (s.sval o.a).toNat → a % 64 = 0 → a + 64 ≤ s.blk.lsz →
    (o.mod.getLsbD 0 = true → (s.pairVA o.c.toNat).toNat % 8 = 0) → s.team.recCount < 256 →
    ∃ t, exec (.launch o) s = .next t ∧ OnlyTeam 1 1 s t ∧
      t.team = { ended (.launch o) c (nextHeader c) s.team with
        batch := s.team.batch ++
          [.launch (s.lsBytes a 64) (if o.mod.getLsbD 0 then some (s.pairVA o.c.toNat).toNat else none)] }

/-- R253, R261, R265 to R271, R273: requests of the engines, RND, HGS. When an engine reads is left free (assumption 14). -/
def Obligations.EnginesComplete : Prop := EngineRequestsComplete ∧ RandomNumbersComplete ∧ ScatterCompletes

/-- R305, R306, R316 to R318, R320, R321: TRES, TVIEW, TQNEW, TQADD, TQREM, TQDEL. That TQNEW reserves at issue, and its order of
checks, and which entries a team reads anew, is the model's reading (assumptions 34, 76). -/
def Obligations.TablesComplete : Prop := TableReadsComplete ∧ ReservationsComplete ∧ QueueRecordsComplete

namespace Sys2Proof.Claims

/-! ### Steps of the machine's own units. An event names a tenant, team, launch or other thing of the module. -/

/-- `u` is `s` with tenant `n` in the focus and all its cores, blocks and teams in its lists. -/
def Opened (n : Nat) (s u : State) : Prop := s.openTenant n = some u ∧ u.ten.live = true
/-- `v` is `s` with team `k` of tenant `n`, its block and its core in the focus. -/
def Placed (n k : Nat) (s v : State) : Prop := s.toTeam n k = some v ∧ v.ten.live = true

/-- Lists of a tenant in which every team has its block and core, each under a number of its own. -/
def InOrder (t : Tenant) : Prop :=
  (t.teams.map (·.key)).Nodup ∧ (t.blocks.map (·.key)).Nodup ∧ (t.cores.map (·.num)).Nodup ∧ (∀ x ∈ t.teams, x.key ≠ 0) ∧
    (∀ x ∈ t.blocks, x.key ≠ 0) ∧ (∀ c ∈ t.cores, c.there = true) ∧
    ∀ x ∈ t.teams, (∃ b ∈ t.blocks, b.key = x.blk) ∧ ∃ c ∈ t.cores, c.num = x.core

/-- A discard of the open phase of team `u` (08 R177): what was noted at the phase start returns, nothing is outstanding, batch and sets are
empty, the tiles are those committed. Scalar and mask registers, EXEC, spill area and floor stay; slots are those of the phase start that are
still bound; vector and relation registers change only by an operation that had started. -/
def Discarded (u y : Team) : Prop :=
  let p := u.snap
  y = { u with
    pc := p.pc, hdr := p.hdr, cl := none, wait := .run, park := false, status := p.status, rm := p.rm, seed := p.seed, spos := p.spos
    clkhi := p.clkhi, mstat := p.mstat, depth := p.depth, crec := p.crec, ctop := p.ctop, ptop := p.ctop, dl := p.dl, priv := p.priv
    savex := p.savex, epc := p.epc, eia := p.eia, cause := p.cause, elane := p.elane, einfo := p.einfo, ehdr := p.ehdr, seqno := p.seqno
    acc := u.accC, lc := 0, ac := 0, mc := 0, xc := 0, tc := 0, pend := [], batch := [], readSet := [], readFrom := [], resv := []
    popped := [], h := y.h, v := y.v, x := y.x } ∧
    (∀ k n, (k, some n) ∈ y.h → (k, some n) ∈ p.slots)
/-- No operation of a team with one of the keys has started. -/
def NoneStarted (u : Tenant) (ks : List Nat) : Prop := ∀ m ∈ u.mops, m.team ∈ ks → m.started = false

/-- The event that brings the `j`-th outstanding result of a counter of team `k` (02 R24). -/
inductive Arrival (n k j : Nat) : Instr → CtrKind → Prop
  | load : Arrival n k j (.loadDataArrival n k j) .lc
  | old : Arrival n k j (.atomicOldValueArrival n k j) .ac
  | engine : Arrival n k j (.engineReply n k j) .xc
  | table : Arrival n k j (.tableReply n k j) .tc

/-- The `j`-th outstanding result of a counter stands at `pos` of the list. -/
def Outstanding (u : Team) (kind : CtrKind) (j pos : Nat) (p : Pend) : Prop :=
  u.pend[pos]? = some p ∧ p.kind = kind ∧ ((u.pend.take pos).filter fun x => x.kind == kind).length = j

/-- The registers of `t` are those of `u` after the writes `ws`, where no two of them disagree; what no write names is as before. -/
def RegistersTake (ws : List RegWrite) (u t : Team) : Prop :=
  (∀ r x, .s r x ∈ ws → (∀ y, .s r y ∈ ws → y = x) → look 0 r t.s = x) ∧
  (∀ r, (∀ x, .s r x ∉ ws) → look 0 r t.s = look 0 r u.s) ∧
  ((∀ r l x, RegWrite.v r l x ∈ ws → l < 1024) →
    (∀ r l x, .v r l x ∈ ws → (∀ y, .v r l y ∈ ws → y = x) → look 0 (1024 * r + l) t.v = x) ∧
    ∀ r l, l < 1024 → (∀ x, .v r l x ∉ ws) → look 0 (1024 * r + l) t.v = look 0 (1024 * r + l) u.v) ∧
  (∀ r k, k < u.lanes → k < 1024 →
    (∀ sel val, .m r sel val ∈ ws → sel.getLsbD k = true → (∀ sel' val', .m r sel' val' ∈ ws → sel'.getLsbD k = true →
      val'.getLsbD k = val.getLsbD k) → (maskNow t r).getLsbD k = val.getLsbD k) ∧
    ((∀ sel val, .m r sel val ∈ ws → sel.getLsbD k = false) → (maskNow t r).getLsbD k = (maskNow u r).getLsbD k)) ∧
  ∀ b, t.status.getLsbD b = true ↔ u.status.getLsbD b = true ∨ ∃ x, .flag x ∈ ws ∧ x.getLsbD b = true

/-- The result at `pos` of counter `kind` is outstanding no longer; registers aside nothing else of the team changes, and nothing
outside it but what the sequencer notes about written vector registers (08 R184). -/
def ResultIn (kind : CtrKind) (pos : Nat) (v t : State) : Prop :=
  t.team = { v.team with
    lc := if kind = .lc then v.team.lc - 1 else v.team.lc, ac := if kind = .ac then v.team.ac - 1 else v.team.ac
    xc := if kind = .xc then v.team.xc - 1 else v.team.xc, tc := if kind = .tc then v.team.tc - 1 else v.team.tc
    pend := v.team.pend.eraseIdx pos, s := t.team.s, v := t.team.v, m := t.team.m, exec := t.team.exec, status := t.team.status } ∧
    t = { v with team := t.team, ten := { v.ten with mops := t.ten.mops } } ∧ SameBytes v t

/-- The bytes that a load of scratchpad offset `a` may get with no write of its own team before it (08 R172): the byte read before in
the phase, else an entry from the newest back to the newest one that the floor holds. -/
def MayRead (v : State) (sp a : Nat) (b : Byte) : Prop :=
  match findRead sp a v.team.readSet with
  | some x => b = x
  | none => ∃ e ∈ (v.ten.space sp).entries v.team.floor a, e.1 = b

/-- R24, R180, R194, R266, R316: an arrival writes the registers of its result and lowers its counter by one. -/
def ResultsArrive : Prop :=
  (∀ (i : Instr) (kind : CtrKind) (s v : State) (n k j pos : Nat) (p : Pend), Arrival n k j i kind → Placed n k s v →
    Outstanding v.team kind j pos p → (p.req = none ∨ kind ≠ .tc ∧ ∃ q, p.req = some q ∧ q.act = 0 ∧ q.help = 0) →
    ∃ t, exec i s = .next t ∧ RegistersTake p.ws v.team t.team ∧ ResultIn kind pos v t) ∧
  ∀ (s v : State) (n k j pos : Nat) (p : Pend) (q : EngReq) (o : XOps) (l : Nat) (x : Word), Placed n k s v →
    Outstanding v.team .lc j pos p → p.req = some q → p.ws = [] → q.ins = .ldd o → q.src = [(l, [x])] → q.act = maskOf [l] → q.help = 0 →
    q.after = [] → (Instr.ldd o).wf = true → (∀ m, m < wBytes o.lo8.toNat → v.spOpen v.core.die (x.toNat + m) = false) → l < 1024 → v.team.batch = [] → (∀ b ∈ v.ten.queued, b.team ≠ v.team.key) →
    ∃ t bs, exec (.loadDataArrival n k j) s = .next t ∧ bs.length = wBytes o.lo8.toNat ∧
      (∀ m, m < bs.length → MayRead v (1 + v.core.die) (x.toNat + m) (bs.getD m 0)) ∧
      (∀ r, r < wRegs o.lo8.toNat → look 0 (1024 * (o.d.toNat + r) + l) t.team.v = (extend o.lo8.toNat bs).getD r 0) ∧
      t.team.lc = v.team.lc - 1 ∧ t.team.pend = v.team.pend.eraseIdx pos ∧ t.team.s = v.team.s ∧ t.team.m = v.team.m ∧ SameBytes v t

/-- The bytes of entry `i` of a tick as the team reads them: those that its phase has read before stand (08 R172, R184). -/
def entryRead (v : State) (w : World) (p : Tick) (i : Nat) : List Byte :=
  (List.range 48).map fun j => (findRead 0 ((w.entAt p i).1 + j) v.team.readSet).getD ((p.ent i).bytes.getD j 0)
/-- The bytes of a directory entry as a number: GEN, STATE, PRES (17 R299). -/
def bytesNum (bs : List Byte) (a n : Nat) : Nat := ((List.range n).map fun i => (bs.getD (a + i) 0).toNat * 256 ^ i).sum

/-- Resolve(h, V) on the entries `e` of V and `n` of W (17 R307): 0 LIVE, 1 STALE, 2 PENDING, 3 INVALID. -/
def resolved (num cap : Nat) (e n : List Byte) (h : Nat) : Nat :=
  if h / 2 ^ 56 ≠ num ∨ cap ≤ h % 2 ^ 32 ∨ h / 2 ^ 32 % 2 ^ 24 = 0 then 3
  else if bytesNum n 1 3 < h / 2 ^ 32 % 2 ^ 24 then 3
  else if h / 2 ^ 32 % 2 ^ 24 = bytesNum e 1 3 ∧ bytesNum e 0 1 = 2 then 0
  else if h / 2 ^ 32 % 2 ^ 24 = bytesNum e 1 3 ∧ bytesNum e 0 1 = 1 then 2
  else if bytesNum e 1 3 < h / 2 ^ 32 % 2 ^ 24 ∧ h / 2 ^ 32 % 2 ^ 24 = bytesNum n 1 3 ∧ (bytesNum n 0 1 = 1 ∨ bytesNum n 0 1 = 2) then 2
  else 1
/-- Index `i` has its row in row `r` of chunk `c` of column `k` (17 R301). -/
def RowIn (p : Tick) (k i c r : Nat) : Prop :=
  ∃ d, (p.col k)[c]? = some d ∧ d.first ≤ i ∧ i ≤ d.last ∧ (∀ b d', b < c → (p.col k)[b]? = some d' → ¬ (d'.first ≤ i ∧ i ≤ d'.last)) ∧
    r = ((p.rowsOf k).filter fun x => decide (d.first ≤ x) && decide (x < i)).length
/-- What TRES gives for a handle whose state is `st` (18 R317): the state, ABSENT without the component, chunk and row. -/
def ResolvedTo (dir : Bool) (p : Tick) (k i : Nat) (e : List Byte) (st : Nat) (ws : Nat → Word) : Prop :=
  (dir = true ∨ st ≠ 0 → ws 0 = BitVec.ofNat 32 st ∧ ws 1 = 0xFFFFFFFF#32 ∧ ws 2 = 0xFFFFFFFF#32) ∧
    (dir = false → st = 0 → (bytesNum e 16 32).testBit k = false → ws 0 = 4#32 ∧ ws 1 = 0xFFFFFFFF#32 ∧ ws 2 = 0xFFFFFFFF#32) ∧
    (dir = false → st = 0 → (bytesNum e 16 32).testBit k = true → ∀ c r, RowIn p k i c r →
      ws 0 = 0#32 ∧ ws 1 = BitVec.ofNat 32 c ∧ ws 2 = BitVec.ofNat 32 r)
/-- Entries of the two ticks that share a byte are one entry, with one value. -/
def EntriesApart (w : World) (v : Tick) : Prop :=
  ∀ p q i j, (p = v ∨ p = w.w) → (q = v ∨ q = w.w) → i < w.cap → j < w.cap →
    (w.entAt p i).1 + 48 ≤ (w.entAt q j).1 ∨ (w.entAt q j).1 + 48 ≤ (w.entAt p i).1 ∨
      (w.entAt p i).1 = (w.entAt q j).1 ∧ p.ent i = q.ent j

/-- R307, R317: the reply of TRES, where all that it reads can be read, gives every lane the state of its handle, as R307 resolves it on the
entries of the view tick and of W, and the place of its row. -/
def ResolutionsArrive : Prop :=
  ∀ (s v : State) (n k j pos : Nat) (p : Pend) (q : EngReq) (o : XOps) (w : World) (ty : Nat), Placed n k s v →
    Outstanding v.team .tc j pos p → p.req = some q → p.ws = [] → q.ins = .tres o → EntriesApart w (v.viewTick w) → ty < 256 →
    v.selector (q.sc.headD 0) (o.fn == 0) = some (w, ty) →
    v.poolStop (v.ten.tresAll w (v.viewTick w) o ty q q.lanes v.team).2.2 [] = none →
    (q.src.map (·.1)).Nodup → (∀ x ∈ q.src, x.1 < 1024) →
    ∃ t, exec (.tableReply n k j) s = .next t ∧ t.team.tc = v.team.tc - 1 ∧ t.team.pend = v.team.pend.eraseIdx pos ∧
      (∀ l ws h, (l, ws) ∈ q.src → h = (ws.getD 0 0).toNat + 2 ^ 32 * (ws.getD 1 0).toNat →
        ResolvedTo (o.fn != 0) (v.viewTick w) ty (h % 2 ^ 32) (entryRead v w (v.viewTick w) (h % 2 ^ 32))
          (resolved w.num w.cap (entryRead v w (v.viewTick w) (h % 2 ^ 32)) (entryRead v w w.w (h % 2 ^ 32)) h)
          fun r => look 0 (1024 * (o.d.toNat + r) + l) t.team.v) ∧
      t.team.s = v.team.s ∧ t.team.m = v.team.m ∧ t.team.exec = v.team.exec ∧ SameBytes v t

/-- The domain of a scope of team `x` on die `die` holds the writer `k` of a line, 0 for the host and peers; one that has ended or is saved is in
the device alone (08 R171, R183, assumption 74). -/
def InScope (scope : Nat) (x : Team) (die : Nat) (u : Tenant) (k : Nat) : Prop :=
  match scope with
  | 0 => k = x.key ∧ k ≠ 0
  | 1 => ∃ y ∈ u.teams, y.key = k ∧ y.core = x.core ∧ y.wait ≠ .ended
  | 2 => ∃ y ∈ u.teams, y.key = k ∧ y.wait ≠ .ended ∧ ∃ c ∈ u.cores, c.num = y.core ∧ c.die = die
  | 3 => k ≠ 0
  | _ => True
/-- A domain holds team `x` on die `die` (08 R171). -/
def Domain.Holds (d : Domain) (x : Team) (die : Nat) : Prop :=
  match d with
  | .team k => k = x.key
  | .core c => c = x.core
  | .die e => e = die
  | .device | .system => True
/-- The record of a line is a scope mismatch for team `x`: it names a writer outside the atomic's scope, or a domain without the team; "none" and
a record that names no team never are (08 R182, R183). -/
def ScopeMismatch (scope : Nat) (x : Team) (die : Nat) (u : Tenant) (r : Option LineRec) : Prop :=
  ∃ l k, r = some l ∧ l.team = some k ∧ (¬ InScope scope x die u k ∨ ¬ Domain.Holds l.dom x die)
/-- The batch whose entry is the newest of a byte, 0 for entry 0. -/
def lastWriter (m : Space) (a : Nat) : Nat := ((look [] a m.hist).head?.map (·.2)).getD 0
/-- The record of the line that holds byte `a`. -/
def lineAt (m : Space) (a : Nat) : Option LineRec := look none (a / 128) m.lines

/-- R182, R183: a lane of a returning atomic is performed on the newest value when the team's batches have completed, the location takes the
operation's result, the line the team's record if it wrote, and no other byte changes; the batches that it read and a scope mismatch are noted.
With no lane left the second boundary writes the old values, both words of a 64-bit one, lowers AC and opens a phase: the floor gains the
batches read and, without a mismatch, every completed one whose domain holds the team; a mismatch sets SCOPEX. That an atomic with no lane need
not wait for the team's earlier batches is the model's choice (assumption 74). -/
def AtomicsPerform : Prop :=
  (∀ (s u : State) (n k i : Nat) (x : Team) (r : AtomReq) (l a : Nat) (y c : DWord), Opened n s u → u.ten.team? k = some x →
    r.op < 8 → (r.op = 1 ∨ r.op = 2 → r.ty ≠ 0) → x.key = k → (∀ z ∈ u.ten.orphans, z.team ≠ k) → x.wait = .atom r → u.ten.hasQueued k = false → r.todo[i]? = some (l, a, y, c) → (∀ z ∈ r.todo.take i, z.2.1 ≠ a) →
    (r.sp = 0 → u.ten.remote a = false ∧ (∀ j, j < atomBytes r.ty → u.ten.poisoned (a + j) = false) ∧
      ∀ p ∈ u.ten.pages, p.va ≤ a → a < p.va + p.size → ∀ e ∈ u.ten.away, e.1 ≠ p.va) →
    (∀ d, r.sp = d + 1 → ∀ j, j < atomBytes r.ty → u.spOpen d (a + j) = false) →
    ∃ t y' z, exec (.perform n k i) s = .next t ∧
      AtomNext r.ty (numIn (u.ten.space r.sp).get a (atomBytes r.ty)) y c r.op z ∧
      (∀ b, (b < a ∨ a + atomBytes r.ty ≤ b) → (t.ten.space r.sp).get b = (u.ten.space r.sp).get b) ∧
      (∀ sp, sp ≠ r.sp → ∀ b, (t.ten.space sp).get b = (u.ten.space sp).get b) ∧
      (t.ten.space r.sp).num a (atomBytes r.ty) =
        (match z with
          | some z => z.toNat
          | none => (u.ten.space r.sp).num a (atomBytes r.ty)) ∧
      t.ten.team? k = some y' ∧ ∃ r', y' = { x with wait := .atom r' } ∧ r'.todo = r.todo.eraseIdx i ∧
        r'.old = r.old ++ [(l, BitVec.ofNat 64 ((u.ten.space r.sp).num a (atomBytes r.ty)))] ∧
        (∀ b, b ∈ r'.seen ↔ b ∈ r.seen ∨ ∃ j, j < atomBytes r.ty ∧ b = lastWriter (u.ten.space r.sp) (a + j)) ∧
        (r'.mism = true ↔ r.mism = true ∨ ScopeMismatch r.scope x (u.ten.dieOf x.core) u.ten (lineAt (u.ten.space r.sp) a)) ∧
        lineAt (t.ten.space r.sp) a = (if z = none then lineAt (u.ten.space r.sp) a
          else some { team := some k, dom := domainOf r.scope k x.core (u.ten.dieOf x.core) })) ∧
  ∀ (s v : State) (n k i : Nat) (r : AtomReq), Placed n k s v → v.team.wait = .atom r → r.todo = [] →
    (∀ p ∈ v.team.pend, p.kind ≠ .ac) → (r.old.map (·.1)).Nodup → (∀ x ∈ r.old, x.1 < 1024) →
    ∃ t, exec (.atomicOldValueArrival n k i) s = .next t ∧
      (∀ x ∈ r.old, look 0 (1024 * r.dst + x.1) t.team.v = x.2.setWidth 32 ∧
        (atomBytes r.ty = 8 → look 0 (1024 * (r.dst + 1) + x.1) t.team.v = x.2.extractLsb' 32 32)) ∧
      t.team.ac = v.team.ac - 1 ∧ t.team.wait = .run ∧ t.team.dl = 64 * v.pane.nd ∧ t.team.pc = v.team.pc ∧ t.team.s = v.team.s ∧
      t.team.m = v.team.m ∧ t.team.exec = v.team.exec ∧
      t.team.status = (if r.mism then v.team.status ||| 4 else v.team.status) ∧
      (∀ b, b ∈ t.team.floor ↔ b ∈ v.team.floor ∨ b ∈ r.seen ∨
        r.mism = false ∧ ∃ d ∈ v.ten.done, d.id = b ∧ Domain.Holds d.dom v.team v.core.die) ∧ SameBytes v t

end Sys2Proof.Claims

namespace Sys2Proof.Claims

/-! ### Values that the engines return (12 R244 to R260, 13 R267 to R272) -/

/-- FP32 steps, each rounded once to nearest. -/
def fMul (x y : Word) : Word := rne32 ((f32 x).mul (f32 y))
def fAdd (x y : Word) : Word := rne32 (fsum false [f32 x, f32 y])
def fSub (x y : Word) : Word := rne32 (fsum false [f32 x, (f32 y).negate])
def fFma (x y z : Word) : Word := rne32 (fsum false [(f32 x).mul (f32 y), f32 z])
def fInt (z : Int) : Word := rne32 (intFv z)
def fOne : Word := 0x3F800000
def fLe (x y : Word) : Prop := ¬ IsNan32 x ∧ ¬ IsNan32 y ∧ (f32 x).cmp (f32 y) ≤ 0

/-- The rational number that a finite value is. -/
def ratOf (n : Bool) (m : Nat) (e : Int) : ℚ := (if n then -(m : ℚ) else m) * 2 ^ e
/-- `i` is the floor of the finite FP32 value `x`. -/
def FloorOf (x : Word) (i : Int) : Prop :=
  match f32 x with
  | .fin n m e => (i : ℚ) ≤ ratOf n m e ∧ ratOf n m e < i + 1
  | _ => False
/-- The level of R250 and R268: the nearest integer, ties away from zero, within 0 to `top`; 0 for NaN. -/
def NearestLevel (top : Nat) (x : Fv) (e : Nat) : Prop :=
  match x with
  | .nan => e = 0
  | .inf n => e = if n then 0 else top
  | .fin n m k => if n then e = 0 else e = min top ⌊ratOf n m k + 1 / 2⌋.toNat

/-- The little-endian number in `n` bytes of a descriptor. -/
def numAt (bs : List Byte) (a n : Nat) : Nat := ((List.range n).map fun i => (bs.getD (a + i) 0).toNat * 256 ^ i).sum
/-- Bytes of main memory that the team may read, as a function of the address. -/
def ReadsAs (v : State) (as : List Nat) (m : Nat → Byte) : Prop := ∀ a ∈ as, MayRead v 0 a (m a)
/-- The number in `n` bytes that were read. -/
def numRead (m : Nat → Byte) (a n : Nat) : Nat := ((List.range n).map fun i => (m ((a + i) % 2 ^ 56)).toNat * 256 ^ i).sum
/-- The `j`-th outstanding engine request of team `k`, `q` at `pos`, is as it was issued; no batch of the team is queued, for which its
reads would wait, and no sector is poisoned. -/
structure Serving (s v : State) (n k j pos : Nat) (p : Pend) (q : EngReq) : Prop where
  placed : Placed n k s v
  out : Outstanding v.team .xc j pos p
  req : p.req = some q
  bare : p.ws = []
  fresh : q.after = []
  lanes : ∀ l, (q.act ||| q.help).getLsbD l = true → l < v.team.lanes
  own : ∀ b ∈ v.ten.queued, b.team ≠ v.team.key
  sound : ∀ a, v.ten.poisoned a = false

/-- The result is outstanding no longer; scalar registers and memory are as before. -/
def EngineDone (pos : Nat) (v t : State) : Prop :=
  t.team.xc = v.team.xc - 1 ∧ t.team.pend = v.team.pend.eraseIdx pos ∧ t.team.s = v.team.s ∧ t.team.pc = v.team.pc ∧ SameBytes v t

/-- The fetches: their first destination, the number of destinations, the approximate mask (13 R268, R269). -/
inductive Fetches : Instr → Nat → Nat → Nat → Prop
  | tex (o : XOps) : Fetches (.tex o) o.d.toNat 4 o.c.toNat
  | texld (o : XOps) : Fetches (.texld o) o.d.toNat 4 o.c.toNat
  | hgf (o : XOps) : Fetches (.hgf o) o.d.toNat (o.lo8.toNat % 128 + 1) o.c.toNat

/-- R244, R251, R267: without a usable descriptor every active lane receives +0: with INVALID and mask bit 0 for a malformed one (code 1
of the request), with APPROX and mask bit 1 for one that is not resident (code 2). -/
def BareFetches : Prop :=
  ∀ (i : Instr) (s v : State) (n k j pos d m mk : Nat) (p : Pend) (q : EngReq) (away : Bool), Placed n k s v →
    Outstanding v.team .xc j pos p → p.req = some q → p.ws = [] → Fetches i d m mk → q.ins = i → q.help = 0 → q.act ≠ 0 →
    (∀ l, q.act.getLsbD l = true → l < v.team.lanes) → q.sc = [if away then 2 else 1] →
    ∃ t, exec (.engineReply n k j) s = .next t ∧ EngineDone pos v t ∧
      (∀ r l, l < 1024 → look 0 (1024 * r + l) t.team.v =
        if q.act.getLsbD l = true ∧ d ≤ r ∧ r < d + m then 0 else look 0 (1024 * r + l) v.team.v) ∧
      (∀ r l, l < 1024 → l < v.team.lanes → (maskNow t.team r).getLsbD l =
        if q.act.getLsbD l = true ∧ r = mk then away else (maskNow v.team r).getLsbD l) ∧
      t.team.status = v.team.status ||| if away then 2 else 8

/-- The fields of a texture descriptor (R244). -/
structure TexIs (bs : List Byte) (base w h fmt addr top lat : Nat) (bil : Bool) : Prop where
  base : base = numAt bs 0 7
  width : w = numAt bs 8 2 + 1
  height : h = numAt bs 10 2 + 1
  format : fmt = numAt bs 0x0C 4 / 16 % 16
  address : addr = numAt bs 0x0C 4 / 256 % 4
  levels : top = numAt bs 0x0C 4 % 16
  latent : lat = numAt bs 0x10 7
  filter : bil = (numAt bs 0x0C 4 / 1024 % 2 == 1)

/-- An index mapped onto 0 to n − 1: wrap, clamp, mirror (R247, 07 R165 with MIR = 0). -/
def mapped (addr n : Nat) (c : Int) : Nat :=
  if addr = 0 then (c % n).toNat
  else if addr = 1 then (min (max c 0) (n - 1)).toNat
  else if n = 1 then 0
  else if c % (2 * n - 2) < n then (c % (2 * n - 2)).toNat else (2 * n - 2 - c % (2 * n - 2)).toNat
/-- A NaN coordinate is taken as 0. -/
noncomputable def unNan (u : Word) : Word := open Classical in if IsNan32 u then 0 else u

/-- The bilinear mean of four texels with the fractions `fx`, `fy` (R247). -/
def mean (fx fy : Word) (ts : List Word) : Word :=
  let t (k : Nat) : Word := ts.getD k 0
  let r0 := fAdd (fMul (t 0) (fSub fOne fx)) (fMul (t 1) fx)
  let r1 := fAdd (fMul (t 2) (fSub fOne fx)) (fMul (t 3) fx)
  fAdd (fMul r0 (fSub fOne fy)) (fMul r1 fy)
/-- The texels (i, j) that a fetch takes on a w × h grid, and what it makes of one channel of them (R247). -/
inductive Footprint (addr w h : Nat) (u v : Word) : Bool → List (Nat × Nat) → (List Word → Word) → Prop
  | nearest (i j : Int) : FloorOf (fMul u (fInt w)) i → FloorOf (fMul v (fInt h)) j →
      Footprint addr w h u v false [(mapped addr w i, mapped addr h j)] (fun ts => ts.getD 0 0)
  | bilinear (i j : Int) : FloorOf (fSub (fMul u (fInt w)) 0x3F000000) i → FloorOf (fSub (fMul v (fInt h)) 0x3F000000) j →
      Footprint addr w h u v true
        [(mapped addr w i, mapped addr h j), (mapped addr w (i + 1), mapped addr h j), (mapped addr w i, mapped addr h (j + 1)),
          (mapped addr w (i + 1), mapped addr h (j + 1))]
        (mean (fSub (fSub (fMul u (fInt w)) 0x3F000000) (fInt i)) (fSub (fSub (fMul v (fInt h)) 0x3F000000) (fInt j)))

/-- Bytes of a texel, and its channel `c` as FP32 (R245). -/
def texelSize (fmt : Nat) : Nat := if fmt = 0 then 4 else if fmt = 1 then 8 else 16
def channel (fmt : Nat) (m : Nat → Byte) (a c : Nat) : Word :=
  if fmt = 0 then rne32 ((Fv.fin false (numRead m (a + c) 1) 0).div (.fin false 255 0))
  else if fmt = 1 then rne32 (fF16.unpack (numRead m (a + 2 * c) 2))
  else BitVec.ofNat 32 (numRead m (a + 4 * c) 4)
/-- The address of texel (i, j) of level `e` (R245). -/
def texelAt (base w h fmt e : Nat) (p : Nat × Nat) : Nat :=
  (base + texelSize fmt * (((List.range e).map fun m => max 1 (w / 2 ^ m) * max 1 (h / 2 ^ m)).sum + p.2 * max 1 (w / 2 ^ e) + p.1)) % 2 ^ 56

/-- The level: the third coordinate of TEXLD, or λ from the quad differences of TEX, where none of its products is NaN (R250, R268). -/
def LevelIs (q : EngReq) (w h top l e : Nat) : Prop :=
  match q.ins with
  | .texld _ => NearestLevel top (f32 (q.arg l 2)) e
  | .tex _ =>
    let ps := [fMul (q.arg l 2 &&& 0x7FFFFFFF) (fInt w), fMul (q.arg l 3 &&& 0x7FFFFFFF) (fInt h), fMul (q.arg l 4 &&& 0x7FFFFFFF) (fInt w),
      fMul (q.arg l 5 &&& 0x7FFFFFFF) (fInt h)]
    (∀ x ∈ ps, ¬ IsNan32 x) ∧ ∃ x ∈ ps, (∀ y ∈ ps, fLe y x) ∧ NearestLevel top (f32 (rne32 (f32 x).log2)) e
  | _ => False

/-- A texture request of one lane with a descriptor, its level, the texels of its footprint and their bytes. -/
def Texture (i : Instr) (q : EngReq) (l base w h fmt addr top lat e : Nat) (bil : Bool) (ij : List (Nat × Nat)) (f : List Word → Word) : Prop :=
  (∃ d mk, Fetches i d 4 mk) ∧ (∀ o, i ≠ .hgf o) ∧ q.ins = i ∧ q.sc.headD 0 = 0 ∧ TexIs q.desc base w h fmt addr top lat bil ∧
    LevelIs q w h top l e ∧
    Footprint addr (max 1 (w / 2 ^ e)) (max 1 (h / 2 ^ e)) (unNan (q.arg l 0)) (unNan (q.arg l 1)) bil ij f
/-- The addresses of the bytes of some texels. -/
def texelBytes (base w h fmt e : Nat) (ij : List (Nat × Nat)) : List Nat :=
  ij.flatMap fun p => (List.range (texelSize fmt)).map fun b => (texelAt base w h fmt e p + b) % 2 ^ 56
/-- STATUS bits of a fetch with the coordinates `us`: the bits `x`, and INVALID for a NaN coordinate or where a step raised it. -/
def FetchBits (x : Word) (us : List Word) (st : Word) : Prop := (st = x ∨ st = x ||| 8) ∧ ((∃ u ∈ us, IsNan32 u) → st = x ||| 8)
/-- The bytes of a latent texel. -/
def latentBytes (a : Nat) : List Nat := (List.range 16).map fun b => (a + b) % 2 ^ 56
/-- Feature `x` of a latent texel: +0 where its page cannot be read (R248). -/
def latentAt (v : State) (m : Nat → Byte) (x a : Nat) : Word :=
  if v.ten.readable (latentBytes a) = true then rne32 (fF16.unpack (numRead m (a + 2 * x) 2)) else 0

/-- A hash-grid coordinate: NaN is 0, clamped to [0, 1] (R252). -/
noncomputable def unit01 (p : Word) : Word := open Classical in
  if IsNan32 p ∨ p.msb = true then 0 else if fOne.toNat < p.toNat then fOne else p
/-- The fields of level `a` of a hash-grid descriptor (R251): table, resolution, BF16, features, log2 of the entries. -/
structure LevelIsAt (bs : List Byte) (a table n : Nat) (bf : Bool) (f t : Nat) : Prop where
  table : table = numAt bs (64 + 16 * a) 7
  res : n = numAt bs (72 + 16 * a) 4
  form : bf = (numAt bs (76 + 16 * a) 4 / 512 == 1)
  feats : f = 2 * 2 ^ (numAt bs (76 + 16 * a) 4 / 128 % 4)
  size : t = numAt bs (76 + 16 * a) 4 % 32
/-- Cell and offset of every coordinate on a level of resolution `n`. -/
def CellIs (n : Nat) (ps : List Word) (g : Nat → Nat) (f : Nat → Word) : Prop :=
  ∀ e p, ps[e]? = some p → ∃ z, FloorOf (fMul (unit01 p) (fInt n)) z ∧ g e = min z.toNat (n - 1) ∧
    f e = fSub (fMul (unit01 p) (fInt n)) (fInt (g e))
/-- The entry of corner `k` (R252). -/
def cornerEntry (d n t : Nat) (g : Nat → Nat) (k : Nat) : Nat :=
  let c (e : Nat) : Nat := if e < d then g e + k / 2 ^ e % 2 else 0
  if (n + 1) ^ d ≤ 2 ^ t then c 0 + (n + 1) * c 1 + (n + 1) ^ 2 * c 2
  else (BitVec.ofNat 32 (c 0) ^^^ BitVec.ofNat 32 (c 1 * 0x9E3779B1) ^^^ BitVec.ofNat 32 (c 2 * 0x85EBCA77)).toNat % 2 ^ t
/-- The weight of corner `k`. -/
def cornerWeight (d : Nat) (f : Nat → Word) (k : Nat) : Word :=
  let side (e : Nat) : Word := if k / 2 ^ e % 2 = 1 then f e else fSub fOne (f e)
  if d = 3 then fMul (fMul (side 0) (side 1)) (side 2) else fMul (side 0) (side 1)
/-- Feature `j` of a level: the corners' entries summed with their weights in corner order. -/
def feature (d table n : Nat) (bf : Bool) (nf t : Nat) (g : Nat → Nat) (f : Nat → Word) (m : Nat → Byte) (j : Nat) : Word :=
  (List.range (2 ^ d)).foldl (fun acc k => fFma (cornerWeight d f k)
    (rne32 ((if bf then fBF16 else fF16).unpack (numRead m (table + 2 * nf * cornerEntry d n t g k + 2 * j) 2))) acc) 0

/-- The first register of level `a` among the features. -/
def levelBase (q : EngReq) (a : Nat) : Nat := ((List.range a).map fun b => 2 * 2 ^ (numAt q.desc (76 + 16 * b) 4 / 128 % 4)).sum
/-- A hash-grid request of lane `l`: dimension, levels, coordinates and one mark per level. -/
structure GridLane (q : EngReq) (l dim cnt : Nat) (ps marks : List Word) : Prop where
  ins : ∃ o, q.ins = .hgf o ∧ levelBase q cnt = o.lo8.toNat % 128 + 1
  here : q.sc.headD 0 = 0
  dims : dim = numAt q.desc 0 1 / 16 ∧ (dim = 2 ∨ dim = 3)
  levels : cnt = numAt q.desc 0 1 % 16 + 1 ∧ q.desc.length = 64 + 16 * cnt
  counts : ps.length = dim ∧ marks.length = cnt
  src : look [] l q.src = ps ++ marks
  cells : ∀ a, a < cnt → ∃ g f, CellIs (numAt q.desc (72 + 16 * a) 4) ps g f
/-- Level `a` of a grid request with its cell. -/
def LevelOf (q : EngReq) (ps : List Word) (a tb nl : Nat) (bf : Bool) (nf tl : Nat) (g : Nat → Nat) (f : Nat → Word) : Prop :=
  LevelIsAt q.desc a tb nl bf nf tl ∧ CellIs nl ps g f
/-- The bytes that a level reads, and whether it is exact: no page lacked when the instruction issued (mark 0), and none does. -/
def levelReads (dim tb nl nf tl : Nat) (g : Nat → Nat) : List Nat :=
  (List.range (2 ^ dim)).flatMap fun c => (List.range (2 * nf)).map fun b => (tb + 2 * nf * cornerEntry dim nl tl g c + b) % 2 ^ 56
def LevelExact (v : State) (mark : Word) (as : List Nat) : Prop := mark = 0 ∧ v.ten.readable as = true

/-- The words of R272. -/
def rayWords (status : Word) (hit : Option (Word × Word × Word × Word × Word)) (va : Nat) : List Word :=
  let h := hit.getD (0x7F800000, 0, 0, 0xFFFFFFFF, 0xFFFFFFFF)
  [status, h.1, h.2.1, h.2.2.1, h.2.2.2.1, h.2.2.2.2, BitVec.ofNat 32 va, BitVec.ofNat 32 (va / 2 ^ 32)]

/-- A ray: its eight words. It is invalid, or its interval is empty (R260). -/
def RayInvalid (r : Nat → Word) : Prop :=
  (∃ i, i < 6 ∧ 0x7F800000 ≤ (r i).toNat % 2 ^ 31) ∨ (∀ i, 3 ≤ i → i < 6 → (r i).toNat % 2 ^ 31 = 0) ∨ IsNan32 (r 6) ∨ IsNan32 (r 7)
def RayEmpty (r : Nat → Word) : Prop := (f32 (r 7)).cmp (f32 (r 6)) < 0

/-- Vector steps of R258. -/
abbrev Vec := Nat → Word
def vSub (a b : Vec) : Vec := fun i => fSub (a i) (b i)
def vCross (a b : Vec) : Vec := fun i =>
  fFma (a ((i + 1) % 3)) (b ((i + 2) % 3)) (fMul (a ((i + 2) % 3)) (b ((i + 1) % 3)) ^^^ 0x80000000)
def vDot (a b : Vec) : Word := fFma (a 2) (b 2) (fFma (a 1) (b 1) (fMul (a 0) (b 0)))
/-- The triangle test of R258 on vertices `p0`, `p1`, `p2`: what it takes to record (t, u, v). -/
def TriangleHit (r : Nat → Word) (cull : Bool) (p0 p1 p2 : Vec) (t u v : Word) : Prop :=
  let d : Vec := fun i => r (3 + i)
  let e1 := vSub p1 p0
  let e2 := vSub p2 p0
  let p := vCross d e2
  let det := vDot e1 p
  let s := vSub r p0
  let inv := rne32 (f32 det).rcp
  let w := vCross s e1
  ¬ IsNan32 det ∧ det.toNat % 2 ^ 31 ≠ 0 ∧ (cull = true → det.msb = false) ∧
    u = fMul (vDot s p) inv ∧ fLe 0 u ∧ fLe u fOne ∧ v = fMul (vDot d w) inv ∧ fLe 0 v ∧ fLe (fAdd u v) fOne ∧
    t = fMul (vDot e2 w) inv ∧ fLe (r 6) t ∧ ¬ IsNan32 (r 7) ∧ (f32 t).cmp (f32 (r 7)) < 0

/-- The 64 bytes of a node. -/
def nodeBytes (va : Nat) : List Nat := (List.range 64).map fun b => (va + b) % 2 ^ 56
def rootOf (q : EngReq) : Nat := (q.sc.getD 0 0).toNat + 2 ^ 32 * (q.sc.getD 1 0).toNat
/-- A word of a node that was read. -/
def nodeWord (m : Nat → Byte) (va k : Nat) : Word := BitVec.ofNat 32 (numRead m (va + 4 * k) 4)

def nodeRef (m : Nat → Byte) (va k : Nat) : Nat := (nodeWord m va k).toNat + 2 ^ 32 * (nodeWord m va (k + 1)).toNat
/-- A node that was read. -/
def NodeAt (v : State) (m : Nat → Byte) (va : Nat) : Prop := v.ten.readable (nodeBytes va) = true ∧ ReadsAs v (nodeBytes va) m
def NodeAway (v : State) (va : Nat) : Prop := v.ten.readable (nodeBytes va) = false
/-- A reference whose fields R255 allows; its kind. -/
def kindOf (r : Nat) : Nat := r / 2 ^ 60
def RefOk (r : Nat) : Prop := kindOf r ≤ 3 ∧ r % 64 = 0 ∧ (kindOf r ≠ 2 → r / 2 ^ 56 % 16 = 0)

/-- A query on its way (R259): the ray where it is, the instance node that it is in with its id, the best hit (t, u, v, primitive,
instance), tbest, the trail, the stack from its top (child, branch level, VA of its instance node), the overflow flag. -/
structure RayWalk where
  org : Vec
  dir : Vec
  inside : Option (Nat × Word)
  best : Option (Word × Word × Word × Word × Word)
  far : Word
  trail : Nat
  stack : List (Nat × Nat × Option Nat)
  spilt : Bool
/-- What follows a visit: a reference at a level, or the end with a status of R260 and the VA of R272. -/
inductive Then where
  | go (ref level : Nat)
  | stop (status va : Nat)
/-- The world ray is restored. -/
def RayWalk.outside (r : Nat → Word) (x : RayWalk) : RayWalk := { x with org := r, dir := fun i => r (3 + i), inside := none }
def RayWalk.status (x : RayWalk) : Nat := if x.best.isSome then 0 else 1

/-- Row `k` of an instance's matrix applied to a direction, and to a point (R256). -/
def turned (m : Nat → Byte) (va k : Nat) (d : Vec) : Word :=
  let w (c : Nat) : Word := nodeWord m va (4 * k + c)
  fFma (w 2) (d 2) (fFma (w 1) (d 1) (fMul (w 0) (d 0)))
/-- The world ray enters the instance node at `va`; the query goes on at `tgt`, or at the bottom-level root, at level `l` (R255, R256). -/
inductive Enters (v : State) (m : Nat → Byte) (r : Nat → Word) (x : RayWalk) (va : Nat) (tgt : Option Nat) (l : Nat) : RayWalk → Then → Prop
  | away : NodeAway v va → Enters v m r x va tgt l x (.stop 3 va)
  | bad : NodeAt v m va → (nodeWord m va 15 ≠ 0 ∨ ¬ RefOk (nodeRef m va 12) ∨ kindOf (nodeRef m va 12) ≠ 1 ∧ kindOf (nodeRef m va 12) ≠ 2) →
      Enters v m r x va tgt l x (.stop 4 0)
  | into : NodeAt v m va → nodeWord m va 15 = 0 → RefOk (nodeRef m va 12) → (kindOf (nodeRef m va 12) = 1 ∨ kindOf (nodeRef m va 12) = 2) →
      Enters v m r x va tgt l
        { x with
          org := fun k => fAdd (turned m va k r) (nodeWord m va (4 * k + 3)), dir := fun k => turned m va k fun i => r (3 + i)
          inside := some (va, nodeWord m va 14) }
        (.go (tgt.getD (nodeRef m va 12)) l)

/-- The deepest level below `l` whose trail bit is 0. -/
def RayWalk.Deepest (x : RayWalk) (l k : Nat) : Prop := k < l ∧ x.trail.testBit k = false ∧ ∀ i, k < i → i < l → x.trail.testBit i = true
/-- The pop from level `l` (R259). With no bit to set, or nothing to go on with, the query ends. -/
inductive Pops (v : State) (m : Nat → Byte) (r : Nat → Word) (root : Nat) (x : RayWalk) (l : Nat) : RayWalk → Then → Prop
  | last : (∀ k, k < l → x.trail.testBit k = true) → Pops v m r root x l x (.stop x.status 0)
  | top (k child b : Nat) (rest : List (Nat × Nat × Option Nat)) : x.Deepest l k → x.stack = (child, b, none) :: rest →
      Pops v m r root x l (RayWalk.outside r { x with trail := x.trail % 2 ^ k + 2 ^ k, stack := rest }) (.go child (k + 1))
  | under (k child b va : Nat) (rest : List (Nat × Nat × Option Nat)) (y : RayWalk) (e : Then) : x.Deepest l k →
      x.stack = (child, b, some va) :: rest →
      Enters v m r (RayWalk.outside r { x with trail := x.trail % 2 ^ k + 2 ^ k, stack := rest }) va (some child) (k + 1) y e →
      Pops v m r root x l y e
  | restart (k : Nat) : x.Deepest l k → x.stack = [] → x.spilt = true →
      Pops v m r root x l (RayWalk.outside r { x with trail := x.trail % 2 ^ k + 2 ^ k }) (.go root 0)
  | none (k : Nat) : x.Deepest l k → x.stack = [] → x.spilt = false →
      Pops v m r root x l { x with trail := x.trail % 2 ^ k + 2 ^ k } (.stop x.status 0)

/-- tnear of the box whose corners stand from word `w` on, and whether it is hit (R257). -/
def BoxIs (m : Nat → Byte) (va w : Nat) (tmin : Word) (x : RayWalk) (near : Word) (hit : Bool) : Prop :=
  let slab (k i : Nat) : Word := fMul (fSub (nodeWord m va k) (x.org i)) (rne32 (f32 (x.dir i)).rcp)
  ∃ a b p q : Nat → Word, p 0 = tmin ∧ q 0 = x.far ∧ near = p 3 ∧ (hit = true ↔ fLe (p 3) (q 3)) ∧
    ∀ i, i < 3 → Extreme true (slab (w + i) i) (slab (w + 3 + i) i) (a i) ∧ Extreme false (slab (w + i) i) (slab (w + 3 + i) i) (b i) ∧
      Extreme false (p i) (a i) (p (i + 1)) ∧ Extreme true (q i) (b i) (q (i + 1))
/-- The children of an interior node in their order, each with whether it is hit: the nearer first, ties and NaN to child 0. -/
def Children (m : Nat → Byte) (va : Nat) (tmin : Word) (x : RayWalk) (c d : Nat × Bool) : Prop :=
  ∃ n0 n1 : Word, ∃ h0 h1 : Bool, BoxIs m va 0 tmin x n0 h0 ∧ BoxIs m va 6 tmin x n1 h1 ∧
    let e0 : Nat × Bool := (nodeRef m va 12, h0 && kindOf (nodeRef m va 12) != 0)
    let e1 : Nat × Bool := (nodeRef m va 14, h1 && kindOf (nodeRef m va 14) != 0)
    let swap := fLe n1 n0 ∧ ¬ fLe n0 n1
    (swap → c = e1 ∧ d = e0) ∧ (¬ swap → c = e0 ∧ d = e1)

/-- The triangle of the leaf at `va` is missed, or becomes the best hit (R258). -/
def Tested (m : Nat → Byte) (tmin : Word) (x : RayWalk) (va : Nat) (y : RayWalk) : Prop :=
  let ray : Nat → Word := fun i => if i < 3 then x.org i else if i < 6 then x.dir (i - 3) else if i = 6 then tmin else x.far
  let hit := TriangleHit ray (nodeWord m va 10 == 1) (nodeWord m va) (fun i => nodeWord m va (3 + i)) fun i => nodeWord m va (6 + i)
  (∃ a b c, hit a b c ∧ y = { x with far := a, best := some (a, b, c, nodeWord m va 9, (x.inside.map (·.2)).getD 0xFFFFFFFF) }) ∨
    (∀ a b c, ¬ hit a b c) ∧ y = x
/-- The `n` leaves from `va` on, tested in node order; none: all have been tested (R255, R258). -/
inductive Leaves (v : State) (m : Nat → Byte) (tmin : Word) : RayWalk → Nat → Nat → RayWalk → Option Then → Prop
  | done (x : RayWalk) (va : Nat) : Leaves v m tmin x va 0 x none
  | away (x : RayWalk) (va n : Nat) : NodeAway v va → Leaves v m tmin x va (n + 1) x (some (.stop 3 va))
  | bad (x : RayWalk) (va n : Nat) : NodeAt v m va → (1 < (nodeWord m va 10).toNat ∨ ∃ k, 11 ≤ k ∧ k < 16 ∧ nodeWord m va k ≠ 0) →
      Leaves v m tmin x va (n + 1) x (some (.stop 4 0))
  | test (x y z : RayWalk) (va n : Nat) (e : Option Then) : NodeAt v m va → (nodeWord m va 10).toNat ≤ 1 →
      (∀ k, 11 ≤ k → k < 16 → nodeWord m va k = 0) → Tested m tmin x va y → Leaves v m tmin y ((va + 64) % 2 ^ 56) n z e →
      Leaves v m tmin x va (n + 1) z e

/-- An interior node is read; both references in it are good. -/
def Interior (v : State) (m : Nat → Byte) (ref l : Nat) : Prop := RefOk ref ∧ kindOf ref = 1 ∧ l < 64 ∧ NodeAt v m (ref % 2 ^ 56)
def GoodRefs (m : Nat → Byte) (va : Nat) : Prop := RefOk (nodeRef m va 12) ∧ RefOk (nodeRef m va 14)
/-- The visit of `ref` at level `l` (R255 to R259). Whether an INSTANCE below an instance ends the query when its parent is read or when
it is followed is left open. -/
inductive Visit (v : State) (m : Nat → Byte) (r : Nat → Word) (root : Nat) (x : RayWalk) (ref l : Nat) : RayWalk → Then → Prop
  | bad : ¬ RefOk ref → Visit v m r root x ref l x (.stop 4 0)
  | empty (y : RayWalk) (e : Then) : RefOk ref → kindOf ref = 0 → Pops v m r root x l y e → Visit v m r root x ref l y e
  | deep : RefOk ref → kindOf ref ≠ 0 → 64 ≤ l → Visit v m r root x ref l x (.stop 4 0)
  | away : RefOk ref → kindOf ref = 1 → l < 64 → NodeAway v (ref % 2 ^ 56) → Visit v m r root x ref l x (.stop 3 (ref % 2 ^ 56))
  | badChild : Interior v m ref l → (¬ RefOk (nodeRef m (ref % 2 ^ 56) 12) ∨ ¬ RefOk (nodeRef m (ref % 2 ^ 56) 14)) →
      Visit v m r root x ref l x (.stop 4 0)
  | nested : Interior v m ref l → x.inside ≠ none → (kindOf (nodeRef m (ref % 2 ^ 56) 12) = 3 ∨ kindOf (nodeRef m (ref % 2 ^ 56) 14) = 3) →
      Visit v m r root x ref l x (.stop 4 0)
  | near (c d : Nat) : Interior v m ref l → GoodRefs m (ref % 2 ^ 56) → Children m (ref % 2 ^ 56) (r 6) x (c, true) (d, true) → x.trail.testBit l = false →
      Visit v m r root x ref l
        { x with spilt := x.spilt || decide (8 ≤ x.stack.length), stack := (d, l, x.inside.map (·.1)) :: x.stack.take 7 } (.go c (l + 1))
  | second (c d : Nat) : Interior v m ref l → GoodRefs m (ref % 2 ^ 56) → Children m (ref % 2 ^ 56) (r 6) x (c, true) (d, true) → x.trail.testBit l = true →
      Visit v m r root x ref l x (.go d (l + 1))
  | finished (c d : Nat) (y : RayWalk) (e : Then) : Interior v m ref l → GoodRefs m (ref % 2 ^ 56) → Children m (ref % 2 ^ 56) (r 6) x (c, true) (d, false) →
      x.trail.testBit l = true → Pops v m r root x l y e → Visit v m r root x ref l y e
  | one (c d : Nat) : Interior v m ref l → GoodRefs m (ref % 2 ^ 56) → Children m (ref % 2 ^ 56) (r 6) x (c, true) (d, false) → x.trail.testBit l = false →
      Visit v m r root x ref l { x with trail := x.trail ||| 2 ^ l } (.go c (l + 1))
  | other (c d : Nat) : Interior v m ref l → GoodRefs m (ref % 2 ^ 56) → Children m (ref % 2 ^ 56) (r 6) x (c, false) (d, true) →
      Visit v m r root x ref l { x with trail := x.trail ||| 2 ^ l } (.go d (l + 1))
  | missed (c d : Nat) (y : RayWalk) (e : Then) : Interior v m ref l → GoodRefs m (ref % 2 ^ 56) → Children m (ref % 2 ^ 56) (r 6) x (c, false) (d, false) →
      Pops v m r root x l y e → Visit v m r root x ref l y e
  | leaves (y z : RayWalk) (e : Then) : RefOk ref → kindOf ref = 2 → l < 64 →
      Leaves v m (r 6) x (ref % 2 ^ 56) (ref / 2 ^ 56 % 16 + 1) y none → Pops v m r root y l z e → Visit v m r root x ref l z e
  | leafStop (y : RayWalk) (e : Then) : RefOk ref → kindOf ref = 2 → l < 64 →
      Leaves v m (r 6) x (ref % 2 ^ 56) (ref / 2 ^ 56 % 16 + 1) y (some e) → Visit v m r root x ref l y e
  | twice : RefOk ref → kindOf ref = 3 → l < 64 → x.inside ≠ none → Visit v m r root x ref l x (.stop 4 0)
  | enter (y : RayWalk) (e : Then) : RefOk ref → kindOf ref = 3 → l < 64 → x.inside = none →
      Enters v m r { x with trail := x.trail ||| 2 ^ l } (ref % 2 ^ 56) none (l + 1) y e → Visit v m r root x ref l y e

/-- `n` visits from a reference and a level on. -/
inductive Visits (v : State) (m : Nat → Byte) (r : Nat → Word) (root : Nat) : RayWalk → Nat → Nat → Nat → RayWalk → Then → Prop
  | zero (x : RayWalk) (ref l : Nat) : Visits v m r root x ref l 0 x (.go ref l)
  | stop (x y : RayWalk) (ref l st va : Nat) : Visit v m r root x ref l y (.stop st va) → Visits v m r root x ref l 1 y (.stop st va)
  | more (x y z : RayWalk) (ref l ref' l' n : Nat) (e : Then) : Visit v m r root x ref l y (.go ref' l') →
      Visits v m r root y ref' l' n z e → Visits v m r root x ref l (n + 1) z e
/-- A query at its start. -/
def RayWalk.start (r : Nat → Word) : RayWalk :=
  { org := r, dir := fun i => r (3 + i), inside := none, best := none, far := r 7, trail := 0, stack := [], spilt := false }

/-! #### Requests as they are served -/

/-- First destination, number of destinations and approximate mask of the engine instructions (13 R268, R269, R271). -/
inductive Answers : Instr → Nat → Nat → Option Nat → Prop
  | fetch (i : Instr) (d n mk : Nat) : Fetches i d n mk → Answers i d n (some mk)
  | trace (o : XOps) : Answers (.trace o) o.d.toNat 8 none

/-- The lanes that the rules below cover: a texture fetch with a descriptor, whose level and texels are determined; a hash-grid fetch with
one; any ray query. -/
inductive LaneRuled (v : State) (q : EngReq) (l : Nat) : Prop
  | texels (i : Instr) (base w h fmt addr top lat e : Nat) (bil : Bool) (ij lj : List (Nat × Nat)) (f g : List Word → Word) :
      Texture i q l base w h fmt addr top lat e bil ij f → (v.ten.readable (texelBytes base w h fmt e ij) = true ∨
        Footprint addr ((w + 15) / 16) ((h + 15) / 16) (unNan (q.arg l 0)) (unNan (q.arg l 1)) true lj g) → LaneRuled v q l
  | grid (dim cnt : Nat) (ps marks : List Word) : GridLane q l dim cnt ps marks → LaneRuled v q l
  | ray (o : XOps) : q.ins = .trace o → LaneRuled v q l

/-- What lane `l` of a request receives: its words, whether it is approximate, its STATUS bits, and addresses whose missing pages are asked
for. The 2^72 visits of `long` are the model's bound; by R259 no query makes as many. -/
inductive LaneServed (v : State) (m : Nat → Byte) (q : EngReq) (l : Nat) : List Word → Bool → Word → List Nat → Prop
  | exact (i : Instr) (base w h fmt addr top lat e : Nat) (bil : Bool) (ij : List (Nat × Nat)) (f : List Word → Word) (st : Word) :
      Texture i q l base w h fmt addr top lat e bil ij f → v.ten.readable (texelBytes base w h fmt e ij) = true →
      ReadsAs v (texelBytes base w h fmt e ij) m → FetchBits 0 [q.arg l 0, q.arg l 1] st →
      LaneServed v m q l ((List.range 4).map fun c => f (ij.map fun x => channel fmt m (texelAt base w h fmt e x) c)) false st []
  | latent (i : Instr) (base w h fmt addr top lat e : Nat) (bil : Bool) (ij lj : List (Nat × Nat)) (f g : List Word → Word) (as : List Nat)
      (st : Word) :
      Texture i q l base w h fmt addr top lat e bil ij f → v.ten.readable (texelBytes base w h fmt e ij) = false →
      Footprint addr ((w + 15) / 16) ((h + 15) / 16) (unNan (q.arg l 0)) (unNan (q.arg l 1)) true lj g →
      as = lj.map (fun x => (lat + 16 * (x.2 * ((w + 15) / 16) + x.1)) % 2 ^ 56) →
      ReadsAs v ((as.filter fun a => v.ten.readable (latentBytes a)).flatMap latentBytes) m → FetchBits 2 [q.arg l 0, q.arg l 1] st →
      LaneServed v m q l
        ((List.range 4).map fun c => (List.range 8).foldl
          (fun acc x => fFma (BitVec.ofNat 32 (numAt q.desc (0x20 + 32 * c + 4 * x) 4)) (g (as.map (latentAt v m x))) acc)
          (BitVec.ofNat 32 (numAt q.desc (0xA0 + 4 * c) 4)))
        true st (texelBytes base w h fmt e ij ++ as.flatMap latentBytes)
  | grid (dim cnt : Nat) (ps marks ws : List Word) (ap : Bool) (st : Word) (as : List Nat) : GridLane q l dim cnt ps marks →
      (∀ a, a < cnt → ∀ tb nl bf nf tl g f, LevelOf q ps a tb nl bf nf tl g f →
        (LevelExact v (marks.getD a 0) (levelReads dim tb nl nf tl g) → ReadsAs v (levelReads dim tb nl nf tl g) m ∧
          ∀ x, x < nf → ws.getD (levelBase q a + x) 0 = feature dim tb nl bf nf tl g f m x) ∧
        (¬ LevelExact v (marks.getD a 0) (levelReads dim tb nl nf tl g) → ap = true ∧
          (∀ x, x < nf → ws.getD (levelBase q a + x) 0 = 0) ∧ (marks.getD a 0 = 0 → ∀ y ∈ levelReads dim tb nl nf tl g, y ∈ as))) →
      (ap = true → ∃ a tb nl bf nf tl g f, a < cnt ∧ LevelOf q ps a tb nl bf nf tl g f ∧
        ¬ LevelExact v (marks.getD a 0) (levelReads dim tb nl nf tl g)) →
      FetchBits (if ap then 2 else 0) ps st → LaneServed v m q l ws ap st as
  | invalid (o : XOps) : q.ins = .trace o → RayInvalid (q.arg l) → LaneServed v m q l (rayWords 2 none 0) false 32 []
  | empty (o : XOps) : q.ins = .trace o → ¬ RayInvalid (q.arg l) → RayEmpty (q.arg l) → LaneServed v m q l (rayWords 1 none 0) false 0 []
  | ends (o : XOps) (n st va : Nat) (x : RayWalk) : q.ins = .trace o → ¬ RayInvalid (q.arg l) → ¬ RayEmpty (q.arg l) →
      Visits v m (q.arg l) (rootOf q) (RayWalk.start (q.arg l)) (rootOf q) 0 n x (.stop st va) →
      LaneServed v m q l (rayWords (BitVec.ofNat 32 st) x.best va) false 0 (if st = 3 then nodeBytes va else [])
  | long (o : XOps) (ref lv : Nat) (x : RayWalk) : q.ins = .trace o → ¬ RayInvalid (q.arg l) → ¬ RayEmpty (q.arg l) →
      Visits v m (q.arg l) (rootOf q) (RayWalk.start (q.arg l)) (rootOf q) 0 (2 ^ 72) x (.go ref lv) →
      LaneServed v m q l (rayWords (BitVec.ofNat 32 x.status) x.best 0) false 0 []

/-- R245 to R250, R252, R255 to R260, R268, R269, R271, R272: the reply of a request gives every lane what the rules say: a helper lane of
TEX its texels alone, an active lane also its mask bit, its STATUS bits and its page requests. One memory `m` stands for all that is read.
Byte `c` of an RGBA8 texel is channel `c` (assumption 26). -/
def RequestsServed : Prop :=
  ∀ (i : Instr) (s v : State) (n k j pos d c : Nat) (mk : Option Nat) (p : Pend) (q : EngReq), Serving s v n k j pos p q →
    q.ins = i → Answers i d c mk → (∀ o, i ≠ .tex o → q.help = 0) → (∀ l, (q.act ||| q.help).getLsbD l = true → LaneRuled v q l) →
    ∃ (t : State) (m : Nat → Byte) (ws : Nat → List Word) (ap : Nat → Bool) (st : Nat → Word) (as : Nat → List Nat),
      exec (.engineReply n k j) s = .next t ∧ EngineDone pos v t ∧
      (∀ l, (q.act ||| q.help).getLsbD l = true → LaneServed v m q l (ws l) (ap l) (st l) (as l)) ∧
      (∀ r l, l < 1024 → look 0 (1024 * r + l) t.team.v =
        if (q.act ||| q.help).getLsbD l = true ∧ d ≤ r ∧ r < d + c then (ws l).getD (r - d) 0 else look 0 (1024 * r + l) v.team.v) ∧
      (∀ r l, l < 1024 → l < v.team.lanes → (maskNow t.team r).getLsbD l =
        if q.act.getLsbD l = true ∧ mk = some r then ap l else (maskNow v.team r).getLsbD l) ∧
      (∀ b, t.team.status.getLsbD b = true ↔ v.team.status.getLsbD b = true ∨ ∃ l, q.act.getLsbD l = true ∧ (st l).getLsbD b = true) ∧
      ∀ l, q.act.getLsbD l = true → ∀ a ∈ as l, ∀ x, v.ten.pageAt a = some x → x.r = true → (x.st = .tier ∨ x.st = .stored) →
        x.va ∈ t.ten.pageReqs

/-- The words of TVIEW for a chunk number of a column with chunks `cs` (18 R318): status and count, place, rows, and key range. -/
def viewOf (cs : List ChunkDesc) (a : Nat) : List Word :=
  match cs[a]? with
  | some c => [BitVec.ofNat 32 (256 * cs.length), BitVec.ofNat 32 c.va, BitVec.ofNat 32 (c.rows * 2 ^ 24 + c.va / 2 ^ 32),
      BitVec.ofNat 32 c.first, BitVec.ofNat 32 c.last]
  | none => [BitVec.ofNat 32 (256 * cs.length + 4), 0, 0, 0, 0]
/-- R318: the reply of TVIEW without write access gives every lane the descriptor of its chunk in the view tick. -/
def ViewsArrive : Prop :=
  ∀ (s v : State) (n k j pos : Nat) (p : Pend) (q : EngReq) (o : XOps) (w : World) (ty : Nat), Placed n k s v →
    Outstanding v.team .tc j pos p → p.req = some q → p.ws = [] → q.ins = .tview o → o.fn = 0 →
    v.selector (q.sc.headD 0) true = some (w, ty) → v.poolStop (mapReads w (v.viewTick w) ty) [] = none →
    (q.src.map (·.1)).Nodup → (∀ x ∈ q.src, x.1 < 1024) →
    ∃ t, exec (.tableReply n k j) s = .next t ∧ t.team.tc = v.team.tc - 1 ∧ t.team.pend = v.team.pend.eraseIdx pos ∧
      (∀ l ws, (l, ws) ∈ q.src → ∀ r, r < 5 → look 0 (1024 * (o.d.toNat + r) + l) t.team.v =
        (viewOf ((v.viewTick w).col ty) (ws.getD 0 0).toNat).getD r 0) ∧
      t.team.s = v.team.s ∧ t.team.m = v.team.m ∧ t.team.exec = v.team.exec ∧ SameBytes v t

/-- R244 to R260, R265 to R272: the values that texture fetches, hash-grid fetches and ray queries return. -/
def EnginesReply : Prop := BareFetches ∧ RequestsServed

end Sys2Proof.Claims

/-- R24, R180, R182, R244 to R252, R255, R258, R260, R266 to R272, R317, R318: results, old values and table replies arrive as the rules say;
texture and hash-grid fetches and ray queries return the values of 12. When a request reads, and that a table request is served whole, is
the model's reading (assumptions 14 and 34); so are the order of the channels of an RGBA8 texel (assumption 26) and that the level of a hash
grid that lacked a page at issue stays +0 (assumption 71), what a first read of a directory entry gives (assumption 76), and that TRACE sets
no INVALID for a NaN of its tests (assumption 80). λ takes log2 in fixed point (assumption 66), and ADDR maps
texel indices alone (assumption 88). That a writer which has ended or is saved is in
the device alone, and that a returning atomic with no lane does not wait for the team's earlier batches, is the model's choice (assumption 74). -/
def Obligations.ArrivalsWriteResults : Prop := ResultsArrive ∧ ResolutionsArrive ∧ ViewsArrive ∧ AtomicsPerform ∧ EnginesReply

namespace Sys2Proof.Claims

/-! ### Copies, drains, event records, completion of batches, page arrivals (07 R158 to R167, 08 R172, R180, R181, 21 R345 to R347) -/

/-- R162, R179: a sector whose bytes have been read lands in its local-store buffer and leaves the sectors in flight; no other byte
changes; a sealed buffer with no further sector becomes FULL. -/
def SectorsLand : Prop :=
  ∀ (s u v : State) (n i : Nat) (x : Sector) (bs : List Byte) (e : BufEntry), Opened n s u → u.ten.sectors[i]? = some x →
    Placed n x.team s v → v.ten.sectors = u.ten.sectors → x.got = some bs → bs.length = x.src.length → (x.src.map (·.2)).Nodup →
    v.core.entry? x.entry = some e → e.spad = false → e.freed = false → v.core.num = x.core → x.up = true → x.skip = [] →
    ∃ t, exec (.copySectorArrival n i) s = .next t ∧ t.ten.sectors = u.ten.sectors.eraseIdx i ∧
      (∀ j p, x.src[j]? = some p → t.blk.ls.get (e.base + p.2) = bs.getD j 0) ∧
      (∀ a, (∀ p ∈ x.src, a ≠ e.base + p.2) → t.blk.ls.get a = v.blk.ls.get a) ∧
      (∀ sp a, (t.ten.space sp).get a = (v.ten.space sp).get a) ∧
      (∃ e', t.core.entry? x.entry = some e' ∧
        (e'.st = if e.st = .filling ∧ e.sealed = true ∧ ∀ y ∈ u.ten.sectors.eraseIdx i, y.core = x.core → y.entry ≠ x.entry then .full
          else e.st)) ∧
      t.team.s = v.team.s ∧ t.team.v = v.team.v ∧ t.team.m = v.team.m ∧ t.team.pc = v.team.pc

/-- The lines of some transfers (VA, buffer offset, width). -/
def transferLines (ws : List (Nat × Nat × Nat)) : Nat := linesOf (ws.flatMap fun w => span w.1 w.2.2)
/-- R158, R162, R172: the transfers of a drain whose lines fit the free slots of the copy engine take their bytes from the buffer; those
in flight finish; when all have, the record holds its data, and with the last drain of its handle the entry is FREE and its slot unbound.
Memory changes only when the batch completes. -/
def DrainsTakeData : Prop :=
  ∀ (s u v : State) (n i en cn : Nat) (x : Batch) (ws : List (Nat × Nat × Nat)) (fly got : List (Nat × List Byte)) (e : BufEntry),
    Opened n s u → findBy (·.id) x.id u.ten.queued = some x → Placed n x.team s v → x.recs[i]? = some (.drain cn en ws fly got) →
    v.core.entry? en = some e → v.team.wait ≠ .ended → v.ten.queued = u.ten.queued →
    ∃ t y, exec (.drainComplete n x.id i) s = .next t ∧ y ∈ t.ten.queued ∧ SameBytes v t ∧
      (ws ≠ [] → fly = [] → e.spad = false → ∃ k, k ≤ ws.length ∧ transferLines (ws.take k) ≤ v.ten.slotsFree cn ∧
        (k < ws.length → v.ten.slotsFree cn < transferLines (ws.take (k + 1))) ∧
        y = { x with recs := x.recs.set i (.drain cn en (ws.drop k)
          ((ws.take k).map fun w => (w.1, v.lsBytes (e.base + w.2.1) w.2.2)) got) } ∧ t.core.bt = v.core.bt) ∧
      (ws ≠ [] → fly ≠ [] → y = { x with recs := x.recs.set i (.drain cn en ws [] (got ++ fly)) } ∧ t.core.bt = v.core.bt) ∧
      (ws = [] → y = { x with recs := x.recs.set i (.copy (got ++ fly)) } ∧
        ((∀ z ∈ t.ten.queued, ∀ ws' fly' got', .drain cn en ws' fly' got' ∉ z.recs) →
          t.core.entry? en = none ∧ ∀ h, look none h t.team.h ≠ some en))

/-- R166 to R168: the oldest waiting record of a block joins its event queue while that holds fewer than 64 records, those counted that open
phases have popped. -/
def RecordsPost : Prop :=
  ∀ (s u : State) (n b : Nat), Opened n s u → ∃ t, exec (.eventRecordPost n b 0) s = .next t ∧
    t = { u with ten := { u.ten with blocks := u.ten.blocks.map fun x =>
      if x.key = b ∧ x.evq.length + u.ten.poppedOf b < 64 then { x with evq := x.evq ++ (x.evw.take 1).map (·.2), evw := x.evw.drop 1 } else x } }

/-- The writes of a batch of copy-outs whose data is there. -/
def copies (rs : List Rec) : List (Nat × List Byte) := rs.flatMap fun r => match r with | .copy ws => ws | _ => []

/-- No other batch has been sent to peers and not completed (24 R379). -/
def NoneSent (u : State) (b : Batch) : Prop := ∀ y ∈ u.ten.queued, y.id ≠ b.id → y.sent = false
/-- R172, R181: the first batch of a team completes in one step: every copy-out's bytes stand in memory, a later one over an earlier one,
and no other byte changes; the batch leaves the queue for the completion order. An atomic is performed on the newest value. -/
def BatchesComplete : Prop :=
  (∀ (s u : State) (n : Nat) (b : Batch), Opened n s u → findBy (·.id) b.id u.ten.queued = some b →
    (u.ten.queued.find? fun y => y.team == b.team) = some b → b.parts = [] → NoneSent u b →
    (∀ r ∈ b.recs, ∃ ws, r = .copy ws) → (∀ w ∈ copies b.recs, ∀ j, j < w.2.length → u.ten.remote (w.1 + j) = false) →
    (∀ w ∈ copies b.recs, u.ten.remote w.1 = false) →
    ∃ t, exec (.complete n b.id) s = .next t ∧
      (∀ a, t.ten.main.get a = match wsByte (copies b.recs) a with | some v => v | none => u.ten.main.get a) ∧
      (∀ d a, (t.ten.space (d + 1)).get a = (u.ten.space (d + 1)).get a) ∧
      t.ten.queued = u.ten.queued.filter (fun x => x.id != b.id) ∧
      t.ten.done = u.ten.done ++ [{ id := b.id, team := b.team, dom := b.dom }] ∧ t.ten.teams = u.ten.teams) ∧
  ∀ (s u : State) (n : Nat) (b : Batch) (op ty a : Nat) (st : Option Nat) (x c : DWord) (va : VA), Opened n s u →
    findBy (·.id) b.id u.ten.queued = some b → (u.ten.queued.find? fun y => y.team == b.team) = some b → b.parts = [] → NoneSent u b →
    b.recs = [.atomMm op ty [(a, x, c)] va st] → (op ≠ 0 ∨ ty ≠ 3) → (∀ j, j < 8 → u.ten.remote (a + j) = false ∧ u.ten.poisoned (a + j) = false) →
    op < 8 → (op = 1 ∨ op = 2 → ty ≠ 0) →
    ∃ t z, exec (.complete n b.id) s = .next t ∧ AtomNext ty (numIn u.ten.main.get a (atomBytes ty)) x c op z ∧
      t.ten.main.num a (atomBytes ty) =
        (match z with
          | some z => z.toNat
          | none => u.ten.main.num a (atomBytes ty)) ∧
      (∀ i, (i < a ∨ a + atomBytes ty ≤ i) → t.ten.main.get i = u.ten.main.get i) ∧
      t.ten.queued = u.ten.queued.filter (fun x => x.id != b.id)

/-- The frames that pages of a tenant need are free now (21 R347). -/
def Fits (u : State) (vas : List Nat) : Prop := u.ten.framesOf (u.ten.missing vas) ≤ u.framesFree

/-- `q` is a page of the tenant that holds one of the addresses and is not resident. -/
def Lacks (u : State) (vas : List Nat) (va : Nat) : Prop :=
  ∃ q ∈ u.ten.pages, q.va = va ∧ (∃ a ∈ vas, q.va ≤ a ∧ a < q.va + q.size) ∧ (q.st = .tier ∨ q.st = .stored)
/-- The pages that hold some addresses are resident; no other page changes, and no device address of a page in HBM. -/
def Resident (u t : State) (vas : List Nat) : Prop :=
  (∀ p, p ∈ t.ten.pages ↔ ∃ q ∈ u.ten.pages, (Lacks u vas q.va ∧ p = { q with st := .hbm }) ∨ ¬ Lacks u vas q.va ∧ p = q) ∧
    ∀ g ∈ u.ten.stage2, g.pa ≠ none → (∃ p ∈ t.ten.pages, p.st = .hbm ∧ p.gpa ≤ g.gpa ∧ g.gpa < p.gpa + p.size) → g ∈ t.ten.stage2
/-- No TLB holds a translation in the range. -/
def Untranslated (va len : Nat) (t : State) : Prop :=
  (∀ c ∈ t.ten.cores, ∀ r ∈ c.tlb, ∀ e ∈ r.2, e.2 < va ∨ va + len ≤ e.2) ∧
    ∀ p ∈ t.ten.panes, ∀ r ∈ p.tlb2, ∀ e ∈ r.2, e.2 < va ∨ va + len ≤ e.2
/-- The open phase of a team uses a translation in the range (21 R344, R346): a pending record, a scale fetch that waits, or a copy-in that
has source bytes in it still to read. -/
def UsesRange (u : State) (va len : Nat) (x : Team) : Prop :=
  x.openPhase? = true ∧ ((∃ r ∈ x.batch, ∃ a ∈ r.translated, va ≤ a ∧ a < va + len) ∨
    (∃ m ∈ u.ten.mops, m.team = x.key ∧ m.started = false ∧ ∃ h ∈ m.after, va ≤ h.1 ∧ h.1 < va + len) ∨
    ∃ y ∈ u.ten.sectors, y.team = x.key ∧ y.cur = true ∧ y.got = none ∧ ∃ q ∈ y.src, va ≤ q.1 ∧ q.1 < va + len)
/-- R345, R347: a page that was asked for arrives, and a team parked by a fault goes on at its phase start with its pages resident and
retained, where frames are free; no byte changes. INVALIDATE drops the cached translations of its range and discards the open
phases that use it. -/
def PagesArrive : Prop :=
  (∀ (s u : State) (n va : Nat), Opened n s u → va ∈ u.ten.pageReqs → va ∉ u.ten.unwell → u.ten.away = [] → Fits u [va] →
    ∃ t, exec (.pageArrival n va) s = .next t ∧ Resident u t [va] ∧ t.ten.pageReqs = u.ten.pageReqs.filter (fun x => x != va) ∧
      t = { u with ten := { u.ten with pages := t.ten.pages, stage2 := t.ten.stage2, pageReqs := t.ten.pageReqs } }) ∧
  (∀ (s u : State) (n k : Nat) (x : Team) (ps : List Nat), Opened n s u → u.ten.team? k = some x → x.wait = .pager ps → u.ten.away = [] → Fits u ps →
    ∃ t y, exec (.pagerRestart n k) s = .next t ∧ t.ten.team? k = some y ∧
      y = { x with wait := .run, retained := y.retained } ∧ (∀ p, p ∈ y.retained ↔ p ∈ x.retained ∨ p ∈ ps) ∧
      Resident u t ps ∧ t = { u with ten := { u.ten with pages := t.ten.pages, stage2 := t.ten.stage2, teams := t.ten.teams } }) ∧
  (∀ (s u v : State) (n k : Nat) (x : Team) (ps : List Nat), Opened n s u → u.ten.team? k = some x → x.wait = .pager ps →
    Placed n k u v → u.framesFree < u.ten.framesOf (u.ten.missing ps) → u.ten.evictable ps = [] →
    exec (.framesTimeout n k) s = .next (v.endFault 19 0 0 (ps.headD 0))) ∧
  ∀ (s u : State) (n va len : Nat), Opened n s u →
    (u.ten.users va len = [] → ∃ t, exec (.invalidate n va len) s = .next t ∧ Untranslated va len t ∧ SamePanes u t ∧
      t = { u with ten := { u.ten with cores := t.ten.cores, panes := t.ten.panes } }) ∧
    (InOrder u.ten → NoneStarted u.ten (u.ten.users va len) → ∃ t, exec (.invalidate n va len) s = .next t ∧ Untranslated va len t ∧
      (∀ x ∈ u.ten.teams, UsesRange u va len x → ∃ y ∈ t.ten.teams, Discarded x y ∧ y.v = x.v ∧ y.x = x.x ∧
        ∀ z ∈ t.ten.sectors, z.team = x.key → z.cur = false) ∧
      (∀ x ∈ u.ten.teams, ¬ UsesRange u va len x → x ∈ t.ten.teams) ∧ t.ten.queued = u.ten.queued ∧
      ∀ d a, (t.ten.space (d + 1)).get a = (u.ten.space (d + 1)).get a)

end Sys2Proof.Claims

/-- R158, R162, R167, R172, R181: copies land, drains take their data, event records are posted, batches complete in one step. What a
batch waits for is the model's reading (assumption 43). -/
def Obligations.MemoryUnitsStep : Prop := SectorsLand ∧ DrainsTakeData ∧ RecordsPost ∧ BatchesComplete

/-- R177, R345 to R347: pages arrive, a parked team restarts or ends with FRAMES, a range is invalidated and the phases that use it are
discarded. -/
def Obligations.PagerSteps : Prop := PagesArrive

namespace Sys2Proof.Claims

/-! ### Waits, the deadline, clause decode (03 R36 to R42, 08 R175, 09 R206 to R211) -/

/-- The phase that opens at `v` with the pane's default deadline; floor and phase start aside nothing else changes. -/
def OpensPhase (v t : State) (u : Team) : Prop :=
  t.team = { u with wait := .run, dl := 64 * v.pane.nd, floor := t.team.floor, snap := t.team.snap } ∧ t.team.snap.pc = u.pc ∧
    t.team.snap.dl = 64 * v.pane.nd ∧ (∀ b ∈ u.floor, b ∈ t.team.floor) ∧ t = { v with team := t.team }

/-- The service of functions 0 and 1 of R208: nothing; a log entry of 16 bytes and the vector, 1 where it does not fit in 64 KiB. -/
inductive Serves (u : State) (launch : Nat) (r : SyscReq) : Tenant → DWord → Prop
  | none_ : r.fn = 0 → Serves u launch r u.ten 0
  | log (bs : List Byte) : r.fn = 1 → bs = leBytes 4 r.vecBytes.length ++ leBytes 4 launch ++ leBytes 4 r.a0.toNat ++ leBytes 4 0 ++ r.vecBytes →
      (u.ten.log.map List.length).sum + bs.length ≤ 65536 → Serves u launch r { u.ten with log := u.ten.log ++ [bs] } 0
  | full : r.fn = 1 → 65536 < (u.ten.log.map List.length).sum + 16 + r.vecBytes.length → Serves u launch r u.ten 1

/-- The first event of an empty queue is announced to the tenant's first prefix (24 R375). -/
def announced (u : State) : List OutMsg :=
  if u.ten.evq = [] then (u.ten.pfx.take 1).map fun p => .notice p.1 u.ten.num else []

/-- R208, R211: SYSC_REPLY writes the pair and opens a phase; a service is performed once when the team's batches have completed: NULL,
LOG, TIME, and NOTIFY of every FN from 128 to 255. SLEEP_EXPIRY ends the hold and nothing else. -/
def CallsReturn : Prop :=
  (∀ (s v : State) (n k : Nat) (r : SyscReq) (x : DWord), Placed n k s v → v.team.wait = .sysc r → r.reply = some x →
    ∃ t, exec (.syscReply n k) s = .next t ∧
      (∀ j, look 0 j t.team.s = if j = r.dst then x.setWidth 32 else if j = r.dst + 1 then x.extractLsb' 32 32 else look 0 j v.team.s) ∧
      OpensPhase v t { v.team with s := t.team.s }) ∧
  (∀ (s u : State) (n k : Nat) (x : Team) (r : SyscReq), Opened n s u → u.ten.team? k = some x → x.wait = .sysc r → r.reply = none →
    u.ten.hasQueued k = false → r.fn ≤ 1 → ∃ t y ten rep, exec (.syscDeliver n k) s = .next t ∧ Serves u x.launch r ten rep ∧
      t.ten.team? k = some y ∧ y = { x with wait := .sysc { r with reply := some rep } } ∧
      t = { u with ten := { ten with teams := t.ten.teams } }) ∧
  (∀ (s u : State) (n k : Nat) (x : Team) (r : SyscReq), Opened n s u → u.ten.team? k = some x → x.wait = .sysc r → r.reply = none →
    u.ten.hasQueued k = false → r.fn = 2 → ∃ t y rep, exec (.syscDeliver n k) s = .next t ∧ t.ten.team? k = some y ∧
      y = { x with wait := .sysc { r with reply := some (BitVec.ofNat 64 rep) } } ∧ u.ten.timeLast ≤ rep ∧ t.ten.timeLast = rep ∧
      t.timeNs ≤ rep ∧ t = { u with ten := { u.ten with teams := t.ten.teams, timeLast := rep }, timeNs := t.timeNs, slew := t.slew }) ∧
  (∀ (s u : State) (n k : Nat) (x : Team) (r : SyscReq), Opened n s u → u.ten.team? k = some x → x.wait = .sysc r → r.reply = none →
    u.ten.hasQueued k = false → 128 ≤ r.fn → r.fn ≤ 255 →
    ∃ t y rep, exec (.syscDeliver n k) s = .next t ∧ t.ten.team? k = some y ∧ y = { x with wait := .sysc { r with reply := some rep } } ∧
      (u.ten.evFill + 16 + (r.notice x.launch).length ≤ evNotifyBytes → rep = 0 ∧ t = { u with
        out := u.out ++ announced u
        ten := { u.ten with
          teams := t.ten.teams, evq := u.ten.evq ++ [evRecord 0 u.ten.evSeq (r.notice x.launch)], evSeq := u.ten.evSeq + 1 } }) ∧
      (evNotifyBytes < u.ten.evFill + 16 + (r.notice x.launch).length → rep = 1 ∧ t = { u with ten := { u.ten with teams := t.ten.teams } })) ∧
  ∀ (s v : State) (n k : Nat) (w : Bool), Placed n k s v → v.team.wait = .sleep w →
    exec (.sleepExpiry n k) s = .next { v with team := { v.team with wait := .run } }

/-- R206: a team that can issue an instruction of more words than its deadline holds ends with DEADLINE at that instruction. -/
def DeadlineEnds : Prop :=
  ∀ (s v : State) (n k : Nat) (c : Clause), Placed n k s v → v.team.cl = some c → v.ready = true → v.issues = true →
    v.team.dl < wordsOf (opcOf ((c.words.drop c.pos).headD 0)) →
    exec (.deadline n k) s = .next ({ v with team := { v.team with wait := .run, park := false } }.endFault 16 0 c.va 0)

/-- R175: when every team of the block waits at a BAR and their batches have completed, each opens its next phase. -/
def BarriersRelease : Prop :=
  ∀ (s u : State) (n b : Nat), Opened n s u → InOrder u.ten →
    (∀ x ∈ u.ten.teams, x.blk = b → x.wait ≠ .ended → ∃ id, x.wait = .bar id ∧ ∀ q ∈ u.ten.queued, q.id ≠ id) →
    ∃ t, exec (.barRelease n b) s = .next t ∧
      ∀ x ∈ u.ten.teams, x.blk = b → x.wait ≠ .ended → ∃ y, t.stow.ten.team? x.key = some y ∧ y.wait = .run ∧ y.pc = x.pc ∧
        y.s = x.s ∧ y.v = x.v ∧ y.m = x.m ∧ y.exec = x.exec

/-- A clause header that keeps the rules of R36: N from 1 to 15, E from 0 to 4, the reserved bits 0. -/
def GoodHeader (w : Word) : Prop := w.toNat / 2 ^ 28 ≠ 0 ∧ w.toNat / 2 ^ 25 % 8 ≤ 4 ∧ w.toNat / 2 ^ 21 % 8 = 0 ∧ w.toNat % 2 ^ 16 = 0

/-- The first structural failure of the words of a clause of class `e` (03 R39 to R42), as position and subcode: an unassigned opcode (1), a
class that is not the clause's (3), a two-word instruction in the last word (5), a terminator before the end (4). -/
inductive Misshapen (e : Nat) : List Word → Nat → Nat → Prop
  | opcode (w : Word) (r : List Word) : wordsOf (opcOf w) = 0 → Misshapen e (w :: r) 0 1
  | cls (w : Word) (r : List Word) : wordsOf (opcOf w) ≠ 0 → classOf (opcOf w) ≠ 0 → classOf (opcOf w) ≠ e → Misshapen e (w :: r) 0 3
  | straddle (w : Word) : 1 < wordsOf (opcOf w) → (classOf (opcOf w) = 0 ∨ classOf (opcOf w) = e) → Misshapen e [w] 0 5
  | early1 (w : Word) (r : List Word) : wordsOf (opcOf w) = 1 → (classOf (opcOf w) = 0 ∨ classOf (opcOf w) = e) →
      isTermWords (opcOf w) 0 = true → r ≠ [] → Misshapen e (w :: r) 0 4
  | early2 (w w1 : Word) (r : List Word) : 1 < wordsOf (opcOf w) → (classOf (opcOf w) = 0 ∨ classOf (opcOf w) = e) →
      isTermWords (opcOf w) w1 = true → r ≠ [] → Misshapen e (w :: w1 :: r) 0 4
  | after1 (w : Word) (r : List Word) (p sub : Nat) : wordsOf (opcOf w) = 1 → (classOf (opcOf w) = 0 ∨ classOf (opcOf w) = e) →
      (isTermWords (opcOf w) 0 = false ∨ r = []) → Misshapen e r p sub → Misshapen e (w :: r) (p + 1) sub
  | after2 (w w1 : Word) (r : List Word) (p sub : Nat) : 1 < wordsOf (opcOf w) → (classOf (opcOf w) = 0 ∨ classOf (opcOf w) = e) →
      (isTermWords (opcOf w) w1 = false ∨ r = []) → Misshapen e r p sub → Misshapen e (w :: w1 :: r) (p + 2) sub

/-- R36 to R38, R42: the clause at the header is latched if it can be fetched and its header and structure are good; its W set holds the
team once. A page that cannot be fetched ends the team with FETCH, an absent one is asked for and the team waits; a bad header traps with
ILLEGAL, subcode 2, a misshapen clause with the subcode of its first failure, at the word that fails (R345). That every word is fetched before
the structure is looked at, and that a header at an unaligned VA is fetched there, is the model's choice (assumptions 78, 79). -/
def ClausesDecode : Prop :=
  ∀ (s v : State) (n k : Nat) (h : VA) (w : Word) (ws : List Word), Placed n k s v → v.team.cl = none → v.ready = true → v.issues = true →
    h = v.team.hdr.getD v.team.pc → w = v.ten.fetchWord v.ctr v.team.floor h.toNat →
    ws = (List.range (w.toNat / 2 ^ 28)).map (fun i => v.ten.fetchWord v.ctr v.team.floor (h.toNat + 4 * (i + 1))) →
    h.toNat + 64 < 2 ^ 56 →
    (v.ten.fetchCheck (codeBytes h 1) = .ok → GoodHeader w → v.ten.fetchCheck (codeBytes (h + 4#56) (w.toNat / 2 ^ 28)) = .ok →
      (∀ p sub, ¬ Misshapen (w.toNat / 2 ^ 25 % 8) ws p sub) →
      exec (.clauseDecode n k) s = .next { v with
        team := { v.team with
          cl := some {
            hdr := h, n := w.toNat / 2 ^ 28, words := ws, sw := w.getLsbD 24
            pos := if v.team.hdr = none then 0 else (v.team.pc - h).toNat / 4 - 1 }
          park := false
          wait := if w.toNat / 2 ^ 16 % 256 = 0 then .run else .counters (BitVec.ofNat 8 (w.toNat / 2 ^ 16)) 0 } }) ∧
    (∀ sub va, v.ten.fetchCheck (codeBytes h 1) = .bad sub va → exec (.clauseDecode n k) s = .next (v.endFault 21 sub h va)) ∧
    (v.ten.fetchCheck (codeBytes h 1) = .ok → ¬ GoodHeader w → exec (.clauseDecode n k) s = .next (v.takeTrap 1 2 0xFFFFFFFF#32 0 h h none)) ∧
    (∀ ps, v.ten.fetchCheck (codeBytes h 1) = .absent ps →
      exec (.clauseDecode n k) s = .next { v with ten := { v.ten with pageReqs := union v.ten.pageReqs ps } }) ∧
    (v.ten.fetchCheck (codeBytes h 1) = .ok → GoodHeader w →
      (∀ sub va, v.ten.fetchCheck (codeBytes (h + 4#56) (w.toNat / 2 ^ 28)) = .bad sub va →
        exec (.clauseDecode n k) s = .next (v.endFault 21 sub h va)) ∧
      (∀ ps, v.ten.fetchCheck (codeBytes (h + 4#56) (w.toNat / 2 ^ 28)) = .absent ps →
        exec (.clauseDecode n k) s = .next { v with ten := { v.ten with pageReqs := union v.ten.pageReqs ps } }) ∧
      ∀ p sub, v.ten.fetchCheck (codeBytes (h + 4#56) (w.toNat / 2 ^ 28)) = .ok → Misshapen (w.toNat / 2 ^ 25 % 8) ws p sub →
        exec (.clauseDecode n k) s = .next (v.takeTrap 1 sub 0xFFFFFFFF#32 0 h (h + BitVec.ofNat 56 (4 * (p + 1))) none))

end Sys2Proof.Claims

/-- R36 to R42, R175, R206, R208, R211: clause decode, barriers, the deadline, service calls and sleeps. The TIME service, the widths of
LOG and NOTIFY numbers and the reserve of the event queue are the model's reading (assumptions 45, 46, 49), the order of fetch and structure
failures, unaligned headers and that code is fetched without the first-level TLB its choice (assumptions 78, 79, 89). -/
def Obligations.TeamUnitsStep : Prop := ClausesDecode ∧ CallsReturn ∧ DeadlineEnds ∧ BarriersRelease

namespace Sys2Proof.Claims

/-! ### Launches (16 R283 to R291, 12 R264, 17 R302 to R311) -/

/-- The wait object is satisfied (16 R285): none named, or resident with a value that it has held at or above WAITV. -/
def WaitMet (t : Tenant) (x : Launch) : Prop :=
  x.rc.waitva = 0 ∨ t.objPage x.rc.waitva = .here ∧ ∃ v ∈ t.heldValues x.rc.waitva, x.rc.waitv ≤ v

/-- Only the launches of the tenant differ. -/
def OnlyLaunches (u t : State) : Prop := t = { u with ten := { u.ten with launches := t.ten.launches } }

/-- Rows of a column in a tick. -/
def rowCount (p : Tick) (k : Nat) : Nat := ((p.col k).map (·.rows)).sum
/-- The driving column of a query (17 R313): the required type with the fewest rows in the pinned tick, the lowest of those. -/
def Drives (q : Query) (p : Tick) (k : Nat) : Prop :=
  q.req.getLsbD k = true ∧ ∀ j, q.req.getLsbD j = true → rowCount p k < rowCount p j ∨ rowCount p k = rowCount p j ∧ k ≤ j

/-- The launch `l` is there as `y`; every other launch is as it was. -/
def LaunchIs (l : Nat) (y : Launch) (u t : State) : Prop :=
  t.ten.launch? l = some y ∧ (∀ z ∈ u.ten.launches, z.id ≠ l → z ∈ t.ten.launches) ∧ ∀ z ∈ t.ten.launches, z.id ≠ l → z ∈ u.ten.launches

/-- R285, R287, R303, R313: a queued launch whose wait object is satisfied is released, if no launch before it holds it, with its block count and
the published tick of every world; else it is held. One whose object is not satisfied stays queued. -/
def LaunchesRelease : Prop :=
  ∀ (s u : State) (n l : Nat) (x : Launch), Opened n s u → u.ten.launch? l = some x → x.st = .queued →
    (WaitMet u.ten x → u.ten.holds x = false → (x.rc.kind = 1 → x.rc.coop = false) → ∃ t y, exec (.launchRelease n l) s = .next t ∧
      OnlyLaunches u t ∧ LaunchIs l y u t ∧
      y = { x with st := .released, pins := u.ten.worlds.map (fun w => (w.num, w.p.num)), nblk := y.nblk, rows := y.rows } ∧
      (x.rc.kind = 0 → y.nblk = x.rc.blocks) ∧ (x.rc.kind = 1 → y.nblk = y.rows.length) ∧ (x.rc.kind = 2 → y.nblk = 1) ∧
      ∀ q w, x.rc.kind = 1 → u.ten.query? x.rc = some q → u.ten.world? x.rc.named = some w → q.req ≠ 0 →
        ∃ k, Drives q w.p k ∧ y.rows = (w.p.col k).map (·.rows)) ∧
    (WaitMet u.ten x → u.ten.holds x = true → ∃ t, exec (.launchRelease n l) s = .next t ∧ OnlyLaunches u t ∧
      LaunchIs l { x with st := .held } u t) ∧
    (¬ WaitMet u.ten x → u.ten.objPage x.rc.waitva = .here → exec (.launchRelease n l) s = .next u)

/-- A team just placed (02 R18, 16 R289): at the entry, every lane on, every register 0, nothing outstanding, a whole deadline. -/
def FreshTeam (r : LRec) (i core nd : Nat) (y : Team) : Prop :=
  y.idx = i ∧ y.core = core ∧ y.pc = BitVec.ofNat 56 r.entry ∧ y.hdr = none ∧ y.cl = none ∧ y.wait = .run ∧ y.park = false ∧
    (∀ k, y.exec.getLsbD k = true ↔ k < r.lanes ∧ k < 1024) ∧ y.s = [] ∧ y.v = [] ∧ y.m = [] ∧ y.x = [] ∧ y.acc = [] ∧ y.lanes = r.lanes ∧
    y.budget = r.vb ∧ y.gx = r.gx ∧ y.ga = r.ga ∧ y.z = r.spb ∧ y.lc = 0 ∧ y.ac = 0 ∧ y.mc = 0 ∧ y.xc = 0 ∧ y.tc = 0 ∧ y.status = 0 ∧
    y.rm = 0 ∧ y.seed = 0 ∧ y.priv = false ∧ y.depth = 0 ∧ y.crec = none ∧ y.batch = [] ∧ y.pend = [] ∧ y.spill = [] ∧ y.dl = 64 * nd

/-- R18, R288, R289: the next block of a launch that the distributor serves is placed on a core that takes it, with its teams as the
start state says and its local store zero but for a consumer's records; the launch is running. -/
def BlocksPlace : Prop :=
  ∀ (s u : State) (n l c : Nat) (x : Launch) (k : Core) (f : List Nat × Nat), Opened n s u → u.ten.launch? l = some x → u.ten.core? c = some k →
    x.waiting = true → u.served x = true → u.ten.frozen = false → u.ten.mig = none → (∀ y, u.ten.ctx? x.ctx = some y → y.saved = []) →
    u.ten.stagePages x.rc = [] → x.rc.coop = false → x.gang = none → u.ten.mayRun x k = true → u.ten.fitOn u.ctr x.rc k = some f →
    ∃ t b, exec (.blockPlace n l c) s = .next t ∧ b ∈ t.ten.blocks ∧ b.key = u.ten.nextBlk ∧ b.launch = l ∧ b.idx = x.placed ∧
      b.teams = x.rc.teams ∧ b.core = c ∧ b.ctx = x.ctx ∧ b.lsz = (x.rc.lsb + 4095) / 4096 * 4096 ∧
      (∀ a, b.ls.get a = (x.recs.flatMap fun r => r.flatMap leWord).getD a 0) ∧
      (∀ i, i < x.rc.teams → ∃ y ∈ t.ten.teams, y.key = u.ten.nextTeam + i ∧ y.blk = b.key ∧ y.launch = l ∧
        FreshTeam x.rc i c ((u.ten.pane? k.pane).elim Config.defaultNd (·.nd)) y) ∧
      t.ten.launches = changeBy (·.id) l (fun y => { y with st := .running, placed := y.placed + 1 }) u.ten.launches ∧
      (∀ y ∈ u.ten.teams, y ∈ t.ten.teams) ∧ (∀ sp a, (t.ten.space sp).get a = (u.ten.space sp).get a)

/-- R286, 24 R381: a launch whose blocks have all retired and whose batches have completed, of a gang that has committed, leaves; its completion object, if resident, is raised by
one, and no other byte changes. -/
def LaunchesRetire : Prop :=
  ∀ (s u : State) (n l : Nat) (x : Launch), Opened n s u → u.ten.launch? l = some x → x.rc.kind ≠ 3 → x.st = .running → x.placed = x.nblk →
    x.retired = x.nblk → x.held = 0 → (∀ b ∈ u.ten.queued, b.launch ≠ l) → (∀ g, x.gang = some g → g.decided = some true) → u.ten.binWait = [] →
    (x.rc.done = 0 ∨ u.ten.objPage x.rc.done = .here) →
    ∃ t, exec (.launchRetire n l) s = .next t ∧ t.ten.launches = u.ten.launches.filter (fun y => y.id != l) ∧
      (x.rc.done ≠ 0 → t.ten.main.num x.rc.done 8 = (u.ten.main.num x.rc.done 8 + 1) % 2 ^ 64) ∧
      (∀ a, (x.rc.done = 0 ∨ a < x.rc.done ∨ x.rc.done + 8 ≤ a) → t.ten.main.get a = u.ten.main.get a) ∧
      (∀ d a, (t.ten.space (d + 1)).get a = (u.ten.space (d + 1)).get a) ∧ t.ten.teams = u.ten.teams ∧ t.ten.queued = u.ten.queued

/-- R264: when a bin's age expires, a consumer launch takes all its free records; with none there is no launch. -/
def BinsAge : Prop :=
  ∀ (s u : State) (n die bin : Nat) (b : BinDesc), Opened n s u → findBy (·.num) bin u.ten.bins = some b → u.ten.binWait = [] →
    u.ten.launches.length < 4096 →
    ((∀ e ∈ u.ten.ring die bin, e.2 ≠ none) → exec (.binAgeExpiry n die bin) s = .next u) ∧
    ((∃ e ∈ u.ten.ring die bin, e.2 = none) → ∃ t y, exec (.binAgeExpiry n die bin) s = .next t ∧
      t.ten.launches = u.ten.launches ++ [y] ∧ y.id = u.ten.nextLaunch ∧ y.sub = u.ten.nextSub ∧ y.st = .queued ∧ y.ctx = b.ctx ∧
      y.bin = some (bin, die) ∧ y.rc = b.record ((u.ten.ring die bin).filter fun e => e.2.isNone).length ∧
      (∀ e ∈ t.ten.ring die bin, e.2 ≠ none) ∧
      t = { u with ten := { u.ten with
        launches := t.ten.launches, rings := t.ten.rings, nextLaunch := u.ten.nextLaunch + 1, nextSub := u.ten.nextSub + 1 } })

/-- The outcomes of step 4 of a sync (17 R308). -/
inductive Fate where
  | applied
  | absent
  | stale
  deriving DecidableEq, Repr

/-- INDEX and GEN of a record's handle (17 R298). -/
def indexOf (r : QRec) : Nat := r.handle.toNat % 2 ^ 32
def genOf (r : QRec) : Nat := r.handle.toNat / 2 ^ 32 % 2 ^ 24
/-- The record's handle names an entry of its generation, in state `st`. -/
def Finds (cap : Nat) (f : Nat → DirEnt) (r : QRec) (st : Nat) : Prop :=
  indexOf r < cap ∧ genOf r = (f (indexOf r)).gen ∧ (f (indexOf r)).st = st
/-- The entries `f` with that of the record's index changed, its STICK the tick's number. -/
def changedTo (num : Nat) (f : Nat → DirEnt) (r : QRec) (st : Nat) (pres : BitVec 256) : Nat → DirEnt :=
  fun j => if j = indexOf r then { f j with st := st, pres := pres, stick := num } else f j

/-- One record on W's entries `f`: the entries after it, its outcome, the rows (column, index) that columns gain or lose (17 R308). -/
inductive Applied (num cap : Nat) (f : Nat → DirEnt) (r : QRec) : (Nat → DirEnt) → Fate → List (Nat × Nat) → Prop
  | new : r.op = .new → Finds cap f r 1 → Applied num cap f r (changedTo num f r 2 0) .applied []
  | del : r.op = .del → Finds cap f r 2 → Applied num cap f r (changedTo num f r 0 0) .applied
      (((List.range 256).filter fun k => (f (indexOf r)).pres.getLsbD k).map fun k => (k, indexOf r))
  | add : r.op = .add → Finds cap f r 2 → (f (indexOf r)).pres.getLsbD r.ty = false →
      Applied num cap f r (changedTo num f r 2 ((f (indexOf r)).pres ||| BitVec.ofNat 256 (2 ^ r.ty))) .applied [(r.ty, indexOf r)]
  | replace : r.op = .add → Finds cap f r 2 → (f (indexOf r)).pres.getLsbD r.ty = true → Applied num cap f r f .applied []
  | rem : r.op = .rem → Finds cap f r 2 → (f (indexOf r)).pres.getLsbD r.ty = true →
      Applied num cap f r (changedTo num f r 2 ((f (indexOf r)).pres &&& ~~~(BitVec.ofNat 256 (2 ^ r.ty)))) .applied [(r.ty, indexOf r)]
  | absent : r.op = .rem → Finds cap f r 2 → (f (indexOf r)).pres.getLsbD r.ty = false → Applied num cap f r f .absent []
  | stale : ¬ Finds cap f r (if r.op = .new then 1 else 2) → Applied num cap f r f .stale []
/-- Records in turn, with their outcomes. -/
inductive AppliedAll (num cap : Nat) : (Nat → DirEnt) → List QRec → (Nat → DirEnt) → List Fate → List (Nat × Nat) → Prop
  | nil (f : Nat → DirEnt) : AppliedAll num cap f [] f [] []
  | cons (f g h : Nat → DirEnt) (r : QRec) (rs : List QRec) (o : Fate) (os : List Fate) (m ms : List (Nat × Nat)) :
      Applied num cap f r g o m → AppliedAll num cap g rs h os ms → AppliedAll num cap f (r :: rs) h (o :: os) (m ++ ms)

/-- The cut in ascending order of the records' keys. -/
def InKeyOrder (cut ys : List QRec) : Prop :=
  ys.Perm cut ∧ ys.Pairwise fun x y => x.key = y.key ∨ List.Lex (· < ·) x.key y.key

/-- The sync report at `a` (17 R311). -/
def Reports (m : Space) (a tick applied stale absent dropped : Nat) (nospace : Bool) (logged : List QRec) : Prop :=
  m.num a 8 = tick % 2 ^ 64 ∧ m.num (a + 0x08) 4 = applied % 2 ^ 32 ∧ m.num (a + 0x0C) 4 = stale % 2 ^ 32 ∧
    m.num (a + 0x10) 4 = absent % 2 ^ 32 ∧ m.num (a + 0x14) 4 = dropped % 2 ^ 32 ∧ m.num (a + 0x18) 4 = (if nospace then 1 else 0) ∧
    (∀ b, 0x1C ≤ b → b < 0x40 → m.get (a + b) = 0) ∧
    ∀ k, k < 64 → m.num (a + 0x4C + 16 * k) 4 = 0 ∧
      (logged[k]? = none → m.num (a + 0x40 + 16 * k) 8 = 0 ∧ m.num (a + 0x48 + 16 * k) 4 = 0) ∧
      ∀ r, logged[k]? = some r → m.num (a + 0x40 + 16 * k) 8 = r.handle.toNat ∧
        m.num (a + 0x48 + 16 * k) 4 = (match r.op with
          | .new => 0
          | .del => 1
          | .add => 256 * r.ty + 2
          | .rem => 256 * r.ty + 3)

/-- The rows of column `k` of a tick, chunk by chunk: ascending indices of the LIVE entries with the component (17 R300, R301). -/
def Rows (p : Tick) (k : Nat) (gs : List (List Nat)) : Prop :=
  (p.col k).map (fun c => (c.rows, c.first, c.last)) = gs.map (fun g => (g.length, g.headD 0, g.getLastD 0)) ∧ [] ∉ gs ∧
    gs.flatten.Pairwise (· < ·) ∧ ∀ i, i ∈ gs.flatten ↔ (p.ent i).st = 2 ∧ (p.ent i).pres.getLsbD k = true
/-- The first chunk that lost a row or whose range an inserted row falls into or directly follows; all of them where there is none (17 R309). -/
def firstRebuilt (gs : List (List Nat)) (is : List Nat) : Nat :=
  (is.map fun i => (gs.filter fun g => g.headD 0 ≤ i).length - 1).foldl min gs.length
/-- The value that the last applied ADD of component `k` to entity `i` gives. -/
def lastAdd (ys : List QRec) (os : List Fate) (k i : Nat) : Option (List Word) :=
  ((ys.zip os).filter fun p => p.2 == .applied && p.1.op == .add && p.1.ty == k && indexOf p.1 == i).getLast?.map (·.1.val)

/-- The places of the chunks and directory chunks of W, as (VA, size). -/
def placesOf (w : World) : List (Nat × Nat) :=
  ((List.range 256).flatMap fun k => (w.w.col k).map fun c => (c.va, 256 + 256 * look 0 k w.types)) ++
    (List.range ((w.cap + 63) / 64)).map fun k => (w.dirVA w.w k, 3072)
/-- A world as the table engine keeps it (17 R299 to R302, R305): entries and places in order, the pool in reach and not poisoned, the records
fit their types, the report apart from the pool. -/
def WorldInOrder (t : Tenant) (w : World) (gs : Nat → List (List Nat)) : Prop :=
  (w.w.dir.map (·.1)).Pairwise (· < ·) ∧ (∀ k, k < 256 → Rows w.w k (gs k)) ∧ (∀ i, w.cap ≤ i → (w.w.ent i).st = 0) ∧ w.cap ≤ 2 ^ 28 ∧
    (placesOf w).Pairwise (fun x y => x.1 + x.2 ≤ y.1 ∨ y.1 + y.2 ≤ x.1) ∧
    (∀ x ∈ placesOf w, w.pool ≤ x.1 ∧ x.1 + x.2 ≤ w.pool + w.poolsz) ∧
    (∀ a, w.pool ≤ a → a < w.pool + w.poolsz → t.objPage a = .here ∧ t.poisoned a = false) ∧
    (∀ r ∈ w.q, r.ty < 256 ∧ (r.op = .add → r.val.length = look 0 r.ty w.types)) ∧
    t.objPage w.report = .here ∧ t.objPage (w.report + 1087) = .here ∧ (w.report + 1088 ≤ w.pool ∨ w.pool + w.poolsz ≤ w.report)

/-- The bytes of the row of entity `i` in column `k` after a sync that applied `ys`: the last value added, or what W held. -/
def RowHolds (u t : State) (w : World) (gs : List (List Nat)) (ys : List QRec) (os : List Fate) (k i at_ : Nat) : Prop :=
  ∀ j, j < 4 * look 0 k w.types →
    (∀ v, lastAdd ys os k i = some v → t.ten.main.get (at_ + j) = (v.flatMap leWord).getD j 0) ∧
      (lastAdd ys os k i = none → ∀ c r d, (gs.getD c [])[r]? = some i → (w.w.col k)[c]? = some d →
        t.ten.main.get (at_ + j) = u.ten.main.get (d.va + 256 + 4 * look 0 k w.types * r + j))

/-- R309: column `k` as published: the chunks before the first changed one stand, from there on rows are packed by 64; every row holds its
value, every new chunk its keys. -/
def ColumnPublished (u t : State) (w y : World) (gs : List (List Nat)) (ys : List QRec) (os : List Fate) (ms : List (Nat × Nat)) (k : Nat) :
    Prop :=
  ∃ gs' k0, k0 = firstRebuilt gs ((ms.filter fun m => m.1 == k).map (·.2)) ∧ Rows y.p k gs' ∧ gs'.take k0 = gs.take k0 ∧
    (∀ g ∈ gs'.drop k0, g.length ≤ 64) ∧ (∀ c, k0 ≤ c → c + 1 < gs'.length → (gs'.getD c []).length = 64) ∧
    (∀ c, c < k0 → (∀ r ∈ ys, r.op = .add → r.ty = k → indexOf r ∉ gs.getD c []) → (y.p.col k)[c]? = (w.w.col k)[c]?) ∧
    ∀ c d, (y.p.col k)[c]? = some d → (∀ r i, (gs'.getD c [])[r]? = some i →
        RowHolds u t w gs ys os k i (d.va + 256 + 4 * look 0 k w.types * r)) ∧
      (k0 ≤ c → ∀ r, r < 64 → t.ten.main.num (d.va + 4 * r) 4 = (gs'.getD c []).getD r 0xFFFFFFFF)

/-- R302, R308, R309, R311: a released sync whose world has no draining tick applies the records of the queue in key order, rebuilds the
columns that gained or lost rows, publishes W as the next tick and opens a new W with an empty queue; where the pool has no room it changes
nothing and reports NOSPACE. The launch leaves, its completion object is raised by one. -/
def WorldsSync : Prop :=
  ∀ (s u : State) (n l : Nat) (x : Launch) (w : World) (gs : Nat → List (List Nat)), Opened n s u → u.ten.launch? l = some x →
    x.rc.kind = 3 → x.st = .released → u.ten.world? x.rc.named = some w → w.d = none → WorldInOrder u.ten w gs →
    (∀ p ∈ u.ten.pages, p.st ≠ .tier ∧ p.st ≠ .stored) → u.ten.binWait = [] →
    (x.rc.done ≠ 0 → (x.rc.done + 8 ≤ w.report ∨ w.report + 1088 ≤ x.rc.done) ∧
      ∀ z ∈ u.ten.worlds, x.rc.done + 8 ≤ z.pool ∨ z.pool + z.poolsz ≤ x.rc.done) →
    ∃ t y, exec (.worldSync n l) s = .next t ∧ t.ten.world? w.num = some y ∧
      (w.rebuild u.ten u.ctr w.applyAll ≠ none → ∃ ys os ms f,
        y = { w with d := y.d, p := y.p, w := { y.p with num := w.w.num + 1 }, q := [], dropped := 0 } ∧ y.p.num = w.w.num ∧
        (y.d = none ∨ y.d = some w.p) ∧
        (y.d = some w.p ↔ ∃ z ∈ u.ten.launches, z.id ≠ l ∧ (w.num, w.p.num) ∈ z.pins) ∧
        InKeyOrder w.q ys ∧ AppliedAll w.w.num w.cap w.w.ent ys f os ms ∧ (∀ i, y.p.ent i = f i) ∧
        (∀ k, k < 256 → ColumnPublished u t w y (gs k) ys os ms k) ∧
        Reports t.ten.main w.report w.w.num (os.count .applied) (os.count .stale) (os.count .absent) w.dropped false
          (((ys.zip os).filter fun p => p.2 == .stale).map (·.1))) ∧
      (w.rebuild u.ten u.ctr w.applyAll = none → y = { w with dropped := 0 } ∧
        Reports t.ten.main w.report w.p.num 0 0 0 w.dropped true []) ∧
      (x.rc.done ≠ 0 → u.ten.objPage x.rc.done = .here → t.ten.main.num x.rc.done 8 = (u.ten.main.num x.rc.done 8 + 1) % 2 ^ 64) ∧
      (∀ a, (a < w.pool ∨ w.pool + w.poolsz ≤ a) → (a < w.report ∨ w.report + 1088 ≤ a) →
        (x.rc.done = 0 ∨ a < x.rc.done ∨ x.rc.done + 8 ≤ a) → t.ten.main.get a = u.ten.main.get a) ∧
      (∀ z ∈ u.ten.worlds, z.num ≠ w.num → ∃ z' ∈ t.ten.worlds, z' = { z with d := z'.d }) ∧
      t.ten.launches = u.ten.launches.filter (fun y => y.id != l) ∧ t.ten.teams = u.ten.teams ∧
      ∀ d a, (t.ten.space (d + 1)).get a = (u.ten.space (d + 1)).get a

end Sys2Proof.Claims

/-- R264, R283 to R289, R302, R303, R308, R309, R311, R313: launches are released, placed and retired, bins age, worlds sync. Wait and
completion objects off the module, the order of contexts, where chunks are placed and details of a sync are the model's reading
(assumptions 33, 36 to 38, 47); so is that a placement waits for the page of the entry's function word (assumption 89). -/
def Obligations.LaunchUnitsStep : Prop := LaunchesRelease ∧ BlocksPlace ∧ LaunchesRetire ∧ BinsAge ∧ WorldsSync

namespace Sys2Proof.Claims

/-- FLAGS of the reply to `q` (24 R369): REPLY, and of the request's flags the three above it, CTX. -/
def replyFlagsOf (q : Datagram) : Word := BitVec.ofNat 32 (1 + q.flags.toNat / 2 % 8 * 2)

/-! ### Contexts and gangs (21 R348 to R351, 24 R380, R381) -/

/-- The running context of a pane is still listed, as `y`; nothing else of `u` differs. -/
def ContextIs (k : Nat) (y : Ctx) (u t : State) : Prop :=
  t = { u with ten := { u.ten with ctxs := t.ten.ctxs } } ∧ t.ten.ctx? k = some y ∧ ∀ j, j ≠ k → t.ten.ctx? j = u.ten.ctx? j

/-- R348, R349: at the end of a quantum with other work the pane's blocks of the running context are saved, once their drains and copies
are done, with their teams as the discard left them, and the pane passes to the next context. With no other work nothing is saved; until
the drains and copies are done the save waits; one that meets an unmapped page stalls. -/
def QuantaExpire : Prop :=
  ∀ (s u u1 : State) (n p : Nat) (q : Pane), Opened n s u → u.ten.pane? p = some q →
    u1 = u.dropTeams ((u.ten.teamsIn (u.ten.paneBlocks q.ctx p)).map (·.key)) →
    (∀ c, u.ten.nextCtx q = none → u.ten.ctx? q.ctx = some c → ∃ t y, exec (.quantumExpiry n p false) s = .next t ∧ ContextIs q.ctx y u t ∧
      y = { c with stalled := y.stalled, saving := y.saving } ∧ (∀ x, x ∈ y.stalled ↔ x ∈ c.stalled ∧ x ≠ p) ∧
      ∀ x, x ∈ y.saving ↔ x ∈ c.saving ∧ x ≠ p) ∧
    (∀ nx c0 stall, u.ten.nextCtx q = some nx → u1.ten.ctx? q.ctx = some c0 → u1.ten.quiet (u1.ten.paneBlocks q.ctx p) = false →
      ∃ t y, exec (.quantumExpiry n p stall) s = .next t ∧ ContextIs q.ctx y u1 t ∧ y = { c0 with saving := y.saving } ∧
        ∀ x, x ∈ y.saving ↔ x ∈ c0.saving ∨ x = p) ∧
    (∀ nx c0, u.ten.nextCtx q = some nx → u1.ten.ctx? q.ctx = some c0 → u1.ten.quiet (u1.ten.paneBlocks q.ctx p) = true →
      ∃ t y, exec (.quantumExpiry n p true) s = .next t ∧ ContextIs q.ctx y u1 t ∧ y = { c0 with stalled := y.stalled } ∧
        ∀ x, x ∈ y.stalled ↔ x ∈ c0.stalled ∨ x = p) ∧
    ∀ nx c0, u.ten.nextCtx q = some nx → u1.ten.ctx? q.ctx = some c0 → u1.ten.quiet (u1.ten.paneBlocks q.ctx p) = true →
      (u1.ten.blocks.map (·.key)).Nodup → ∃ t, exec (.quantumExpiry n p false) s = .next t ∧ (∀ x ∈ t.ten.panes, x.num = p → x.ctx = nx) ∧
        (∀ b ∈ t.ten.blocks, b.ctx = q.ctx → ∀ c ∈ t.ten.cores, c.num = b.core → c.pane ≠ p) ∧
        (∀ b ∈ u1.ten.paneBlocks q.ctx p, ∃ c1 y, t.ten.ctx? q.ctx = some c1 ∧ y ∈ c1.saved ∧ y.blk = b ∧ y.pane = p ∧
          y.teams = (u1.ten.teams.filter fun x => x.blk == b.key && x.wait != .ended).map fun x => { x with retained := [] }) ∧
        (∀ sp a, (t.ten.space sp).get a = (u1.ten.space sp).get a)

/-- R351: a saved block goes to a core that takes it, with a fresh TLB range and run; its teams keep their registers and waits. -/
def ContextsRestore : Prop :=
  ∀ (s u : State) (n b c : Nat) (x : Saved) (k : Core) (l : Launch) (f : List Nat × Nat), Opened n s u →
    ((u.ten.ctxs.flatMap (·.saved)).find? fun y => y.blk.key == b) = some x → u.ten.core? c = some k → u.ten.launch? x.blk.launch = some l →
    u.ten.frozen = false → u.ten.mig = none → u.ten.mayRun { l with ctx := x.blk.ctx } k = true → u.ten.stagePages l.rc = [] →
    u.ten.fitWith u.ctr { l.rc with teams := x.teams.length } l.rc.units k = some f → u.putBack x l k f ≠ none →
    ∃ t y, exec (.contextRestore n b c) s = .next t ∧ y ∈ t.ten.blocks ∧
      y = { x.blk with core := c, tlbBase := y.tlbBase, tlbN := y.tlbN, run := f.2, runN := l.rc.units } ∧
      (∀ tm ∈ x.teams, ∃ z ∈ t.ten.teams, z.key = tm.key ∧ z.core = c ∧ z.s = tm.s ∧ z.v = tm.v ∧ z.m = tm.m ∧ z.exec = tm.exec ∧ z.x = tm.x ∧
        z.acc = tm.acc ∧ z.accC = tm.accC ∧ z.pc = tm.pc ∧ z.wait = tm.wait ∧ z.dl = tm.dl ∧ z.floor = tm.floor ∧ z.spill = tm.spill) ∧
      (∀ y' ∈ t.ten.ctxs, y'.num = x.blk.ctx → ∀ z ∈ y'.saved, z.blk.key ≠ b) ∧
      ∀ sp a, (t.ten.space sp).get a = (u.ten.space sp).get a

/-- R350: when the page of a stalled save was not mapped in time the context is LOST: nothing of it is saved, its launches are gone,
one report names the page. -/
def SavesTimeOut : Prop :=
  ∀ (s u : State) (n p : Nat) (va : DWord) (q : Pane) (c : Ctx), Opened n s u → u.ten.pane? p = some q → u.ten.ctx? q.ctx = some c → p ∈ c.stalled →
    u.ten.binWait = [] → ∃ t, exec (.saveMapTimeout n p va) s = .next t ∧
      (∃ y, t.ten.ctx? q.ctx = some y ∧ y.lost = true ∧ y.saved = []) ∧ (∀ l ∈ t.ten.launches, l.ctx ≠ q.ctx) ∧
      (u.ten.evWait = [] → u.ten.evFill + 48 ≤ evBytes →
        t.ten.evq = u.ten.evq ++ [evRecord 1 u.ten.evSeq (faultBytes 24 0 0 0 0 0xFFFF 0 va.toNat)])

/-- The launch number of the member of gang `g`, listed or gone before the decision, with its gang block. -/
def Member (u : State) (g l : Nat) (x : Gang) : Prop := u.ten.member? g = some (l, x)

/-- A member that aborts (24 R381): its launch is gone with the blocks not yet placed, no other launch is; its teams have ended, their open
phases dropped, and none of its blocks is left in a save area; no byte of memory changes, its completion object among them, where no team has
reserved an entry, which a discard gives up; GANG_FAIL with the cause is reported, even where the launch had left before. -/
def MemberGone (u t : State) (l : Nat) (x : Gang) (cause : Nat) : Prop :=
  t.ten.launches.map (·.id) = (u.ten.launches.map (·.id)).filter (fun i => i != l) ∧ (∀ y ∈ t.ten.gangLeft, y.1 ≠ l) ∧
    (InOrder u.ten → ∀ x ∈ u.ten.teams, (∃ b ∈ u.ten.blocks, b.key = x.blk ∧ b.launch = l) → ∀ y ∈ t.ten.teams, y.key = x.key →
      y.wait = .ended ∧ (x.wait ≠ .ended → y.batch = [] ∧ y.pend = [] ∧ y.readSet = [])) ∧
    (∀ c ∈ t.ten.ctxs, ∀ b ∈ c.saved, b.blk.launch ≠ l) ∧
    (InOrder u.ten → (∀ x ∈ u.ten.teams, x.resv = []) → ∀ sp a, (t.ten.space sp).get a = (u.ten.space sp).get a) ∧
    (u.ten.evWait = [] → u.ten.evFill + 28 ≤ evBytes →
      t.ten.evq = u.ten.evq ++ [evRecord 2 u.ten.evSeq (leBytes 8 x.id.toNat ++ leBytes 4 cause)])

/-- The gang block of launch `l` replaced; one that has left is kept until the decision. -/
def GangSet (u t : State) (l : Nat) (x : Gang) : Prop :=
  t.ten.launches = changeBy (·.id) l (fun y => { y with gang := some x }) u.ten.launches ∧
    t.ten.gangLeft = (changeBy (·.1) l (fun _ => (l, x)) u.ten.gangLeft).filter fun y => y.2.decided.isNone

/-- R380, R381: READY at rank 0 is noted, and the last one decides COMMIT, which the other members are told; COMMIT and ABORT reach a member;
a missing READY, an unreachable rank 0 and ABORT end the member's launch. Here no LAUNCH request of the member is open. A launch that has left
takes part until the decision (assumption 40). -/
def GangsDecide : Prop :=
  ∀ (s u : State) (n g l : Nat) (x : Gang), Opened n s u → Member u g l x → u.ten.binWait = [] → x.q = none →
    (∀ rank, x.rank = 0 → x.decided = none → rank < x.nmem → (∃ r, r < x.nmem ∧ r ≠ rank ∧ r ∉ x.got) →
      ∃ t x', exec (.ready n g rank) s = .next t ∧ GangSet u t l x' ∧ x' = { x with got := x'.got } ∧
        (∀ r, r ∈ x'.got ↔ r ∈ x.got ∨ r = rank) ∧
        t = { u with ten := { u.ten with launches := t.ten.launches, gangLeft := t.ten.gangLeft } }) ∧
    (∀ rank, x.rank = 0 → x.decided = none → rank < x.nmem → (∀ r, r < x.nmem → r = rank ∨ r ∈ x.got) →
      ∃ t x', exec (.ready n g rank) s = .next t ∧ GangSet u t l x' ∧ x'.decided = some true ∧
        t.out = u.out ++ (x.addrs.drop 1).map (fun a => .gangDecision a x.id true) ∧
        t.ten.gangDec = u.ten.gangDec ++ [(x.id, true, x.addrs)]) ∧
    (x.decided = none → ∃ t, exec (.commit n g) s = .next t ∧ GangSet u t l { x with decided := some true } ∧
      t = { u with ten := { u.ten with launches := t.ten.launches, gangLeft := t.ten.gangLeft } }) ∧
    (∀ rank, x.decided ≠ some true → ∃ t, exec (.abort n g rank) s = .next t ∧ MemberGone u t l x rank) ∧
    (x.rank = 0 → x.decided = none → ∃ t r, exec (.gangTimeout n g) s = .next t ∧ MemberGone u t l x r ∧
      ((∃ m, m < x.nmem ∧ m ∉ x.got) → r < x.nmem ∧ r ∉ x.got ∧ ∀ m, m < r → m ∈ x.got) ∧
      t.ten.gangDec = u.ten.gangDec ++ [(x.id, false, x.addrs)]) ∧
    (∀ rank, x.rank ≠ 0 → x.decided = none → exec (.gangDecisionQuery n g rank true) s =
      .next { u with out := u.out ++ [.gangAsk (x.addrs.headD 0) x.id x.rank] }) ∧
    (∀ rank, x.rank ≠ 0 → x.decided = none → ∃ t, exec (.gangDecisionQuery n g rank false) s = .next t ∧ MemberGone u t l x 0) ∧
    ∃ t, exec (.gangDecisionExpiry n g) s = .next t ∧ t = { u with ten := { u.ten with gangDec := t.ten.gangDec } } ∧
      ∀ d, d ∈ t.ten.gangDec ↔ d ∈ u.ten.gangDec ∧ d.1.toNat ≠ g

/-- A READY that comes before rank 0's own submission is kept for it, unless the gang is decided: the model's reading of R380 (assumption 40). -/
def ReadiesKept : Prop :=
  ∀ (s u : State) (n g rank : Nat), Opened n s u → u.ten.member? g = none → (∀ d ∈ u.ten.gangDec, d.1.toNat ≠ g) →
    ∃ t, exec (.ready n g rank) s = .next t ∧ t = { u with ten := { u.ten with readies := t.ten.readies } } ∧
      ∀ x, x ∈ t.ten.readies ↔ x ∈ u.ten.readies ∨ x = (g, rank)

/-- R381: a LAUNCH request of a member that is still open, as it may be until the decision (assumption 40), is answered with the decision: OK and
the launch identifier, or GANG_FAIL. -/
def GangsAnswer : Prop :=
  ∀ (s u : State) (n g l : Nat) (x : Gang) (q : Datagram), Opened n s u → Member u g l x → u.ten.binWait = [] → x.q = some q →
    x.decided = none →
    (∃ t, exec (.commit n g) s = .next t ∧ GangSet u t l { x with decided := some true, q := none } ∧
      t = { u with
        out := u.out ++ [.reply q.src q.method.toNat q.tenant.toNat q.reqid 0 (replyFlagsOf q) (leBytes 4 l ++ leBytes 4 0)]
        ten := { u.ten with launches := t.ten.launches, gangLeft := t.ten.gangLeft, sources := t.ten.sources } }) ∧
    ∀ rank, ∃ t, exec (.abort n g rank) s = .next t ∧ MemberGone u t l x rank ∧
      .reply q.src q.method.toNat q.tenant.toNat q.reqid 13 (replyFlagsOf q) [] ∈ t.out

end Sys2Proof.Claims

/-- R348 to R351, R380, R381: contexts are saved, restored and lost; gangs decide. That early READYs are kept, that
members which have left take part and that a LAUNCH request stays open until the decision (assumption 40), details of the shutter and the
payload of GANG_FAIL (assumptions 45 and 48) are the model's reading. -/
def Obligations.ContextAndGangSteps : Prop := QuantaExpire ∧ ContextsRestore ∧ SavesTimeOut ∧ GangsDecide ∧ ReadiesKept ∧ GangsAnswer

namespace Sys2Proof.Claims

/-! ### Peers, migration, checkpoints (24 R377 to R383, 25 R384 to R388) -/

/-- A peer's operation on `n` bytes may go (24 R377): the module is up; the key names a tenant and a window with the permission, for the
source's prefix and the range; the pages are here, all of them, with the page permissions; the tenant has not moved. A read meets no
poisoned sector. -/
def PeerMay (q : PeerOp) (use : WinUse) (n : Nat) (s u : State) : Prop :=
  s.power = .up ∧ Opened (q.rkey.toNat / 65536) s u ∧ u.ten.mig = none ∧ u.ten.moved = none ∧
    u.ten.missing (u.ten.pageVAs (span q.va.toNat n)) = [] ∧
    (∃ x, findBy (·.id) (q.rkey.toNat % 65536) u.ten.windows = some x ∧ x.grants use = true ∧
      (∃ p ∈ x.pfx, prefixHas q.src p = true) ∧ x.va ≤ q.va.toNat ∧ q.va.toNat + n ≤ x.va + x.len) ∧
    ∀ a, q.va.toNat ≤ a → a < q.va.toNat + n → (use = .w ∨ u.ten.poisoned a = false) ∧
      ∃ p, u.ten.pageAt a = some p ∧ (p.st = .hbm ∨ p.st = .direct) ∧ (use ≠ .w → p.r = true) ∧ (use ≠ .r → p.w = true)

/-- No window takes the operation in (24 R377): the key names none, or one without the permission, without the source's prefix, or not
holding the range. -/
def TurnedAway (q : PeerOp) (use : WinUse) (n : Nat) (u : State) : Prop :=
  ∀ x, findBy (·.id) (q.rkey.toNat % 65536) u.ten.windows = some x →
    x.grants use = false ∨ (∀ p ∈ x.pfx, prefixHas q.src p = false) ∨ q.va.toNat < x.va ∨ x.va + x.len < q.va.toNat + n

/-- Memory after a peer's or the host's write: the bytes at the address, every other byte as before, and the completion order longer; a world
whose pool it does not touch is as before. -/
def Overwritten (va : Nat) (bs : List Byte) (u t : State) : Prop :=
  (∀ a, t.ten.main.get a = if va ≤ a ∧ a < va + bs.length then bs.getD (a - va) 0 else u.ten.main.get a) ∧
    t = { u with
      out := t.out
      ten := { u.ten with
        main := t.ten.main, done := t.ten.done, nextBatch := u.ten.nextBatch + 1, poison := t.ten.poison, sources := t.ten.sources
        worlds := t.ten.worlds } } ∧
  ∀ w ∈ u.ten.worlds, (∀ a, va ≤ a → a < va + bs.length → a < w.pool ∨ w.pool + w.poolsz ≤ a) → w ∈ t.ten.worlds

/-- R377, R379: a peer's write, read, fetch-and-add and compare-and-swap on a window; a part of two writes, whose second lands over the
first, as one batch; what is not one of these, what no window takes in and a misaligned atomic receive a NAK and change nothing. -/
def PeersAccess : Prop :=
  (∀ (q : PeerOp) (s u : State), q.part = [] → PeerMay q .w q.data.length s u → ∃ t, exec (.rdmaWrite q) s = .next t ∧ Overwritten q.va.toNat q.data u t ∧
    t.out = u.out ++ [.peerAck q.src]) ∧
  (∀ (q : PeerOp) (s u : State) (k : Word) (a : DWord) (d : List Byte), q.part = [.write k a d] → d ≠ [] →
    k.toNat / 65536 = q.rkey.toNat / 65536 → PeerMay q .w q.data.length s u → PeerMay { q with rkey := k, va := a } .w d.length s u →
    ∃ t, exec (.rdmaWrite q) s = .next t ∧ t.ten.nextBatch = u.ten.nextBatch + 1 ∧ t.out = u.out ++ [.peerAck q.src] ∧
      ∀ x, t.ten.main.get x = if a.toNat ≤ x ∧ x < a.toNat + d.length then d.getD (x - a.toNat) 0
        else if q.va.toNat ≤ x ∧ x < q.va.toNat + q.data.length then q.data.getD (x - q.va.toNat) 0 else u.ten.main.get x) ∧
  (∀ (q : PeerOp) (s u : State), PeerMay q .r q.len s u →
    exec (.rdmaRead q) s = .next { u with out := u.out ++ [.peerData q.src (u.ten.main.gets q.va.toNat q.len)] }) ∧
  (∀ (q : PeerOp) (s u : State), PeerMay q .a 8 s u → q.va.toNat % 8 = 0 → ∃ t, exec (.fetchAdd q) s = .next t ∧
    Overwritten q.va.toNat (leBytes 8 (u.ten.main.num q.va.toNat 8 + q.arg.toNat)) u t ∧
    t.out = u.out ++ [.peerOld q.src (BitVec.ofNat 64 (u.ten.main.num q.va.toNat 8))]) ∧
  (∀ (q : PeerOp) (s u : State) (x : Nat), PeerMay q .a 8 s u → q.va.toNat % 8 = 0 → x = u.ten.main.num q.va.toNat 8 →
    ∃ t, exec (.compareSwap q) s = .next t ∧ t.out = u.out ++ [.peerOld q.src (BitVec.ofNat 64 x)] ∧
      (x = q.cmp.toNat → Overwritten q.va.toNat (leBytes 8 q.arg.toNat) u t) ∧ (x ≠ q.cmp.toNat → ∀ a, t.ten.main.get a = u.ten.main.get a)) ∧
  (∀ (q : PeerOp) (s : State), s.power = .up → exec (.peerUnsupportedOp q) s = .next { s with out := s.out ++ [.peerNak q.src] }) ∧
  (∀ (q : PeerOp) (s : State), s.power = .up → q.va.toNat % 8 ≠ 0 → exec (.fetchAdd q) s = .next { s with out := s.out ++ [.peerNak q.src] } ∧
    exec (.compareSwap q) s = .next { s with out := s.out ++ [.peerNak q.src] }) ∧
  ∀ (q : PeerOp) (s u t : State), s.power = .up → Opened (q.rkey.toNat / 65536) s u → t = { u with out := u.out ++ [.peerNak q.src] } →
    (TurnedAway q .w q.data.length u → exec (.rdmaWrite q) s = .next t) ∧ (TurnedAway q .r q.len u → exec (.rdmaRead q) s = .next t) ∧
    (TurnedAway q .a 8 u → q.va.toNat % 8 = 0 → exec (.fetchAdd q) s = .next t ∧ exec (.compareSwap q) s = .next t)

/-- R379: a part that a peer acknowledges is open no longer; one that fails is dropped, the mapping that it went through has failed, and an
event is queued. -/
def PartsEnd : Prop :=
  (∀ (s u : State) (n b p : Nat), Opened n s u → ∃ t, exec (.peerAck n b p) s = .next t ∧
    t = { u with ten := { u.ten with queued := u.ten.queued.map fun x =>
      if x.id = b then { x with parts := x.parts.filter fun y => y != p } else x } }) ∧
  ∀ (s u : State) (n b p : Nat) (x : Batch) (m : PeerMap), Opened n s u → findBy (·.id) b u.ten.queued = some x → x.sent = true → p ∈ x.parts →
    u.ten.partMaps b p = [m] → ∃ t, exec (.peerfail n b p) s = .next t ∧
      t.ten.peers = u.ten.peers.map (fun y => if y.idx = m.idx then { y with failed := true } else y) ∧ (∀ y ∈ t.ten.queued, y.id = b → p ∉ y.parts) ∧
      (u.ten.evWait = [] → u.ten.evFill + 36 ≤ evNotifyBytes →
        t.ten.evq = u.ten.evq ++ [evRecord 3 u.ten.evSeq (leBytes 16 m.peer.toNat ++ leBytes 4 m.win)]) ∧
      ∀ sp a, (t.ten.space sp).get a = (u.ten.space sp).get a

/-- R382: the contexts go to the target when everything queued has completed, then page after page; with the last one the panes and slots are
free, MIGRATE is answered, and requests and windows go on being answered MOVED. -/
def MigrationsPush : Prop :=
  ∀ (s u : State) (n : Nat) (m : Mig), Opened n s u → u.ten.mig = some m →
    (m.moved = false → u.ten.still = true → ∃ t img, exec (.migratePagePush n) s = .next t ∧ .migrate m.target m.tten img ∈ t.out ∧
      t.ten.moved = some m.target ∧ t.ten.teams = [] ∧ t.ten.blocks = [] ∧
      (∃ m', t.ten.mig = some m' ∧ m'.moved = true ∧ m'.left = (u.ten.pages.filter fun p => p.st != .remote).map (·.va)) ∧
      ∀ a, t.ten.main.get a = u.ten.main.get a) ∧
    (∀ va rest, m.moved = true → m.left = va :: rest → ∃ t, exec (.migratePagePush n) s = .next t ∧
      t = { u with
        out := u.out ++ [.page m.target m.tten va (u.ten.main.cells.filter fun c =>
          decide (va ≤ c.1) && decide (c.1 < va + ((findBy (·.va) va u.ten.pages).map (·.size)).getD 0))]
        ten := { u.ten with mig := some { m with left := m.left.filter fun x => x != va } } }) ∧
    (m.moved = true → m.left = [] → exec (.migrateEnd n) s = .next { u with
      out := u.out ++ [.reply m.q.src m.q.method.toNat m.q.tenant.toNat m.q.reqid 0 (replyFlagsOf m.q) []]
      cal := u.cal.filter fun e => !(e.2.getLsbD 7 && e.2.toNat % 32 == u.ten.num)
      ten := { num := u.ten.num, live := true, pfx := u.ten.pfx, windows := u.ten.windows, moved := u.ten.moved } })

/-- R386: a TAKE whose wait object is due freezes the tenant and, once everything queued has completed, records it, sends shards and manifest
to the buddy and thaws it; when both
manifests are durable it is answered OK and the checkpoint is complete, here and at the buddy, each keeping the two newest; a TAKE that fails leaves no part of it. -/
def CheckpointsComplete : Prop :=
  ∀ (s u : State) (n : Nat) (k : Take), Opened n s u → u.ten.take = some k →
    (k.recorded = false → k.tab = none → (k.waitva = 0 ∨ u.ten.objPage k.waitva = .here ∧ k.waitv ≤ u.ten.main.num k.waitva 8) →
      u.freeze.ten.still = true → ∃ t c, exec (.checkpointFreeze n) s = .next t ∧ t.ckpts = u.ckpts ++ [c] ∧ .shards k.buddy c ∈ t.out ∧ c.tenant = u.freeze.ten.num ∧
        c.step = k.step ∧ c.shards = k.shards ∧ c.complete = false ∧ t.ten.frozen = false ∧ t.ten.take = some { k with recorded := true } ∧
        ∀ sp a, (t.ten.space sp).get a = (u.freeze.ten.space sp).get a) ∧
    (k.recorded = false → k.tab = none → u.ten.frozen = false → k.waitva ≠ 0 → u.ten.objPage k.waitva = .here → u.ten.main.num k.waitva 8 < k.waitv →
      exec (.checkpointFreeze n) s = .next u) ∧
    (∀ c, u.ckpts.find? (fun c => c.tenant == n && !c.complete) = some c → (u.ckpts.map fun x => (x.tenant, x.seq)).Nodup →
      (∀ x ∈ u.ckpts, x.tenant = n → x.seq ≤ c.seq) → (∀ b ∈ u.buddies, b.2.tenant = n → b.2.seq < c.seq) →
      ∃ t xs, exec (.checkpointComplete n true) s = .next t ∧
        t.ten.take = none ∧ { c with complete := true } ∈ t.ckpts ∧ (k.buddy, { c with complete := true }) ∈ t.buddies ∧
        t.out = u.out ++ [.settled k.buddy n c.seq true] ++ xs ++
          [.reply k.q.src k.q.method.toNat k.q.tenant.toNat k.q.reqid 0 (replyFlagsOf k.q) []] ∧
        (∀ o ∈ xs, ∃ b ∈ u.buddies, b ∉ t.buddies ∧ b.2.tenant = n ∧ o = .settled b.1 n b.2.seq false) ∧
        (t.ckpts.filter fun x => x.tenant == n && x.complete).length ≤ 2) ∧
    ∃ t st, exec (.checkpointComplete n false) s = .next t ∧ t.ten.take = none ∧ t.ten.frozen = false ∧ t.buddies = u.buddies ∧
      (∀ c, c ∈ t.ckpts ↔ c ∈ u.ckpts ∧ (c.tenant = n → c.complete = true)) ∧ (st = 14 ∨ st = 6) ∧
      t.out = u.out ++ ((u.ckpts.filter fun c => c.tenant == n && !c.complete).map fun c => .settled k.buddy n c.seq false) ++
        [.reply k.q.src k.q.method.toNat k.q.tenant.toNat k.q.reqid st (replyFlagsOf k.q) []]

end Sys2Proof.Claims

/-- R377, R379: operations of peers on windows, and the ends of parts sent to peers. The NAKs, the payload of PEERFAIL and the reserve
of the event queue are the model's reading (assumptions 45, 49, 50). -/
def Obligations.PeerSteps : Prop := PeersAccess ∧ PartsEnd
/-- R382, R386: the steps of a migration and of a checkpoint. The target of a migration and the answers of a failed TAKE are the model's
choices (assumptions 57 and 58). -/
def Obligations.MigrationAndCheckpointSteps : Prop := MigrationsPush ∧ CheckpointsComplete

namespace Sys2Proof.Claims

/-! ### What matrix and relation operations write (04 R77 to R79, 10 R214 to R229, 11 R233 to R243) -/

/-- The operation owns row or lane `i`: a lane up to 63 of Active() at its issue (10 R222, 11 R230). -/
def Owns (m : MatOp) (i : Nat) : Prop := i < 64 ∧ m.act.getLsbD i = true

/-- Tile `d` takes the values `f`, other tiles keep theirs. -/
def TileTakes (d : Nat) (f : Nat → Nat → BitVec 36) (v t : State) : Prop :=
  ∀ k i n, i < 64 → n < 256 → t.team.accAt k i n = if k = d then f i n else v.team.accAt k i n
/-- Relation register `d` holds bit (i, j) just where `b` says; other registers keep theirs. -/
def RelationTakes (d : Nat) (b : Nat → Nat → Prop) (v t : State) : Prop :=
  ∀ r i j, i < 64 → j < 64 →
    ((t.team.xrow r i).getLsbD j = true ↔ (r = d ∧ b i j) ∨ (r ≠ d ∧ (v.team.xrow r i).getLsbD j = true))
/-- The lanes that `m` owns of the `n` registers from `d` on take the values `f`; other lanes and registers keep theirs. -/
def OwnedLanesTake (m : MatOp) (d n : Nat) (f : Nat → Nat → Word) (v t : State) : Prop :=
  (∀ k i, k < n → Owns m i → look 0 (1024 * (d + k) + i) t.team.v = f k i) ∧
    ∀ r i, i < 1024 → (¬ Owns m i ∨ r < d ∨ d + n ≤ r) → look 0 (1024 * r + i) t.team.v = look 0 (1024 * r + i) v.team.v

/-- Kinds of state that an operation leaves alone. -/
def KeepsVectors (v t : State) : Prop := t.team.v = v.team.v ∧ t.team.status = v.team.status
def KeepsRelations (v t : State) : Prop := t.team.x = v.team.x
def KeepsTiles (v t : State) : Prop := t.team.acc = v.team.acc ∧ t.team.mstat = v.team.mstat
def KeepsMacros (v t : State) : Prop := t.core.macs = v.core.macs
/-- Macro `k` becomes `mac`, the others stay. -/
def MacroTakes (k : Nat) (mac : Mac) (v t : State) : Prop :=
  t.core.macs[k]? = some mac ∧ ∀ j, j ≠ k → t.core.macs[j]? = v.core.macs[j]?

/-- A bit of a relation register. -/
def bitAt (v : State) (r i j : Nat) : Prop := (v.team.xrow r i).getLsbD j = true
/-- Six rounds of composition (11 R242). -/
def closure : Nat → (Nat → Nat → Prop) → Nat → Nat → Prop
  | 0, t, i, j => t i j
  | n + 1, t, i, j => closure n (fun a b => t a b ∨ ∃ k, k < 64 ∧ t a k ∧ t k b) i j

/-- Lane `i` of a source register as the operation reads it; lanes above the team's last quad read 0 (06 R141). -/
def sourceLane (v : State) (r i : Nat) : Word := if i < (v.team.lanes + 3) / 4 * 4 then v.vreg r i else 0

/-- The operation reads byte `b` at offset `off` of its buffer, whatever is open: in local store no store since the team's last MFENCE, in
neither store a copy in flight (08 R180, R184). -/
def OperandByte (v : State) (m : MatOp) (off : Nat) (b : Byte) : Prop :=
  (m.spad = false ∧ v.lsOpen (m.base + off) = false ∧ v.blk.ls.get (m.base + off) = b ∧
    ∀ e r, look [] (m.base + off) v.blk.ls.hist = e :: r → e.2 ≤ m.fence) ∨
  (m.spad = true ∧ v.spOpen v.core.die (m.base + off) = false ∧ (v.ten.space (1 + v.core.die)).get (m.base + off) = b)

/-- Blocks of 32 elements along K (10 R214), and the width of an element. -/
def blocks (fmt : Nat) : Nat := if fmt = 8 then 12 else if fmt = 10 then 6 else 24
def bitsOf (fmt : Nat) : Nat := if fmt = 8 then 8 else if fmt = 10 then 16 else 4
/-- Element `k` of 384 packed bytes as an integer: S8, S16, S4, or E2M1 in half units (04 R60, R62). -/
def element (fmt : Nat) (f : Nat → Byte) (k : Nat) : Int :=
  if fmt = 8 then (f k).toInt
  else if fmt = 10 then (BitVec.ofNat 16 ((f (2 * k)).toNat + 256 * (f (2 * k + 1)).toNat)).toInt
  else
    let x := if k % 2 = 0 then (f (k / 2)).toNat % 16 else (f (k / 2)).toNat / 16
    if fmt = 5 then (if x < 8 then 1 else -1) * [0, 1, 2, 3, 4, 6, 8, 12].getD (x % 8) 0
    else if x < 8 then x else (x : Int) - 16
/-- h of R77: one half for each E2M1 operand. -/
def halfOf (n : Nat) : Fv := .fin false 1 (-(n : Int))
/-- Rounding to FP36 (04 R59). -/
def to36 (x : Fv) : BitVec 36 := BitVec.ofNat 36 (fFP36.round 0 0 x).1
def of36 (x : BitVec 36) : Fv := fFP36.unpack x.toNat

/-- Column `n` of the B tile. -/
def columnOf (mac : Mac) (n : Nat) (b : Nat) : Byte := look 0 (384 * n + b) mac.b
/-- The exact sum of block `k` of row `i` and column `n`, the A operand being the bytes `f` (04 R77). -/
def blockSum (fmt : Nat) (mac : Mac) (f : Nat → Byte) (i n k : Nat) : Int :=
  ((List.range 32).map fun e =>
    element fmt (fun b => f (384 * i + b)) (32 * k + e) * element mac.bfmt (columnOf mac n) (32 * k + e)).sum
/-- What the checksum columns give for the block (10 R224; their form is the model's, assumption 70). -/
def checkSum (fmt : Nat) (mac : Mac) (f : Nat → Byte) (i k : Nat) : Int :=
  ((List.range 32).map fun e => element fmt (fun b => f (384 * i + b)) (32 * k + e) * look 0 (32 * k + e) mac.chk).sum
/-- The accumulation of one value over its blocks (04 R77). -/
def accumulated (o : XOps) (mac : Mac) (f : Nat → Byte) (i n : Nat) (acc : BitVec 36) : BitVec 36 :=
  let fmt := o.fn.toNat
  (List.range (blocks fmt)).foldl (fun a k =>
    let sum := blockSum fmt mac f i n k
    let sa := if o.mod.getLsbD 0 then f (384 * (o.c.toNat + 1) + blocks fmt * i + k) else 0x38
    let sb := look 0x38 (24 * n + k) mac.scales
    if sum = 0 then a
    else to36 (fsum false [of36 a, (((intFv sum).mul (fE4M3.unpack sa.toNat)).mul (fE4M3.unpack sb.toNat)).mul
      (halfOf ((if fmt = 5 then 1 else 0) + if mac.bfmt = 5 then 1 else 0))])) acc

/-- An event of tile `k` on macro `mac`: `bits` set, MACRO named; RERUNS has risen by `runs` below its limit (10 R225). -/
def TileEvent (k mac : Nat) (bits : Word) (runs : Nat) (v t : State) : Prop :=
  (∀ b, b < 4 → ((look 0 k t.team.mstat).getLsbD b = ((look 0 k v.team.mstat).getLsbD b || bits.getLsbD b))) ∧
    (look 0 k t.team.mstat).toNat / 16 % 4 = mac ∧
    (look 0 k t.team.mstat).toNat / 65536 = min 65535 ((look 0 k v.team.mstat).toNat / 65536 + runs) ∧
    ∀ j, j ≠ k → look 0 j t.team.mstat = look 0 j v.team.mstat

/-- MMA (10 R219, R222, R224, 11 R234): a macro in KEYS mode or of another width changes no row; else owned rows accumulate when the test of
the block sums passes, at first or after one rerun; a second mismatch leaves owned rows undefined. -/
def MmaResult (m : MatOp) (mism : Nat) (o : XOps) (v t : State) : Prop :=
  ∀ mac, v.core.macs[o.a.toNat]? = some mac →
    (mac.keyMode = true ∨ bitsOf o.fn.toNat ≠ bitsOf mac.bfmt →
      t.team.acc = v.team.acc ∧ TileEvent o.d.toNat o.a.toNat 4 0 v t) ∧
    (mac.keyMode = false → bitsOf o.fn.toNat = bitsOf mac.bfmt →
      (∀ k i n, i < 64 → n < 256 → (k ≠ o.d.toNat ∨ ¬ Owns m i ∨ o.c.toNat < i) → t.team.accAt k i n = v.team.accAt k i n) ∧
      (2 ≤ mism → TileEvent o.d.toNat o.a.toNat 3 1 v t) ∧
      ∀ f : Nat → Byte, (∀ x, x < rowBytes o → OperandByte v m x (f x)) →
        (∀ i k, Owns m i → i ≤ o.c.toNat → k < blocks o.fn.toNat →
          ((List.range 256).map fun n => blockSum o.fn.toNat mac f i n k).sum = checkSum o.fn.toNat mac f i k) →
        mism ≤ 1 → (∀ i n, Owns m i → i ≤ o.c.toNat → n < 256 →
            t.team.accAt o.d.toNat i n = accumulated o mac f i n (v.team.accAt o.d.toNat i n)) ∧
          (mism = 0 → t.team.mstat = v.team.mstat) ∧ (mism = 1 → TileEvent o.d.toNat o.a.toNat 1 1 v t))

/-- Entry `e` of an outlier list whose bytes are `f` (10 R223). -/
def outlier (f : Nat → Byte) (e : Nat) : DWord := BitVec.ofNat 64 (leNat ((List.range 8).map fun b => f (8 * e + b)))
/-- The entry keeps the layout: reserved bits 0, K below the tile's. -/
def goodOutlier (mac : Mac) (e : DWord) : Bool :=
  e.toNat / 2 ^ 16 % 2 ^ 16 == 0 && decide (e.toNat / 2 ^ 6 % 2 ^ 10 < 32 * blocks mac.bfmt)
/-- The entry added to a value of column `n` of its row (04 R78). -/
def outlierAdded (mac : Mac) (n : Nat) (acc : BitVec 36) (e : DWord) : BitVec 36 :=
  let k := e.toNat / 2 ^ 6 % 2 ^ 10
  let value := f32 (BitVec.ofNat 32 (e.toNat / 2 ^ 32))
  let b := ((intFv (element mac.bfmt (columnOf mac n) k)).mul (fE4M3.unpack (look 0x38 (24 * n + k / 32) mac.scales).toNat)).mul
    (halfOf (if mac.bfmt = 5 then 1 else 0))
  if (value.mul b).isZero = true ∧ value.isInf = false ∧ b.isInf = false then acc
  else to36 (fsum false [of36 acc, value.mul b])

/-- MOUTL (04 R78, 10 R222, R223, 11 R235). -/
def MoutlResult (m : MatOp) (o : XOps) (v t : State) : Prop :=
  ∀ mac, v.core.macs[o.a.toNat]? = some mac →
    (mac.keyMode = true → t.team.acc = v.team.acc ∧ TileEvent o.d.toNat o.a.toNat 4 0 v t) ∧
    (mac.keyMode = false → ∀ (f : Nat → Byte) (n : Word), m.sc = [n] → (∀ x, x < 8 * n.toNat → OperandByte v m x (f x)) →
      (∀ k i c, i < 64 → c < 256 → (k ≠ o.d.toNat ∨ ¬ Owns m i) → t.team.accAt k i c = v.team.accAt k i c) ∧
      (∀ i c, Owns m i → c < 256 → t.team.accAt o.d.toNat i c =
        (((List.range n.toNat).map (outlier f)).filter fun e => goodOutlier mac e && e.toNat % 64 == i).foldl (outlierAdded mac c)
          (v.team.accAt o.d.toNat i c)) ∧
      ((∀ k, k < n.toNat → goodOutlier mac (outlier f k) = true) → t.team.mstat = v.team.mstat) ∧
      ∀ k, k < n.toNat → goodOutlier mac (outlier f k) = false → TileEvent o.d.toNat o.a.toNat 8 0 v t)

/-- The product of an accumulator and the tensor scale, with INVALID (04 R79). -/
def scaledRead (a g : Fv) : Fv × Word :=
  if a.isNan = true ∨ g.isNan = true then (.nan, 0)
  else if a.isZero = true then (.fin (a.neg != g.neg) 0 0, 0)
  else if a.isInf = true ∧ g.isZero = true then (.nan, 8)
  else (a.mul g, 0)
/-- What MRD writes for lane `i` and column `c + k`, and its STATUS bits: column, scale, mode, overflow table and SEED of the issue; the stream position that the
operation finds, or the one noted for it when SEED was written since (11 R236, 05 R90; assumption 20). -/
def mrdOf (v : State) (m : MatOp) (o : XOps) (k i : Nat) : Word × Word :=
  let arg (n : Nat) : Word := m.sc.getD n 0
  let rc : RCtx := { mode := (arg 2).toNat, seed := arg 4, pos := m.pos.getD v.team.spos }
  let j := o.loNib.toNat
  let x := scaledRead (of36 (v.team.accAt o.a.toNat i ((arg 0).toNat + k))) (f32 (arg 1))
  let y := rc.r32 i (2 * (8 * k + j)) x.1
  if o.hiNib = 0 then
    match o.sat, f32 y with
    | true, .inf neg => (if neg then 0xFF7FFFFF else 0x7F7FFFFF, x.2 ||| 16)
    | _, _ => (y, x.2)
  else
    let r := narrow ((arg 3).setWidth 8) o.hiNib.toNat rc.mode (rc.draw i (2 * (8 * k + j) + 1)) o.sat (f32 y)
    (if elemWidth o.hiNib.toNat = 32 then BitVec.ofNat 32 r.1
      else setElem (elemWidth o.hiNib.toNat) j r.1 (look 0 (1024 * (o.d.toNat + k) + i) v.team.v), x.2 ||| r.2)

/-- MRD (11 R236): the rounded elements; STATUS; under SR the stream position moves on as the roundings are done. -/
def MrdResult (m : MatOp) (o : XOps) (v t : State) : Prop :=
  OwnedLanesTake m o.d.toNat (o.fn.toNat + 1) (fun k i => (mrdOf v m o k i).1) v t ∧
    (∀ b, t.team.status.getLsbD b = true ↔ v.team.status.getLsbD b = true ∨
      ∃ k i, k ≤ o.fn.toNat ∧ Owns m i ∧ (mrdOf v m o k i).2.getLsbD b = true) ∧
    t.team.spos = if m.sc.getD 2 0 = 4 then v.team.spos + 1 else v.team.spos

/-- The order key of a value under a macro's settings; none is UNORD (10 R227). -/
def orderKey (mac : Mac) (x : Word) : Option Nat :=
  if mac.ktype = 0 then some x.toNat
  else if mac.ktype = 1 then some (x ^^^ 0x80000000#32).toNat
  else if 0x7F800000 < x.toNat % 2 ^ 31 then (if mac.nanp = 1 then some 0xFFFFFFFF else if mac.nanp = 2 then some 0 else none)
  else if mac.tot = false ∧ x = 0x80000000#32 then some 0x80000000
  else if x.msb then some (~~~x).toNat
  else some (x ^^^ 0x80000000#32).toNat
/-- Bit (i, j) of relation `rel` between order keys (10 R228). -/
def related (rel i j : Nat) (p q : Option Nat) : Prop :=
  match p, q with
  | some p, some q => (rel = 0 ∧ p < q) ∨ (rel = 1 ∧ p ≤ q) ∨ (rel = 2 ∧ p = q) ∨ (rel = 3 ∧ p ≠ q) ∨ (rel = 4 ∧ q < p) ∨ (rel = 5 ∧ q ≤ p) ∨
      (rel = 6 ∧ (p < q ∨ (p = q ∧ i < j)))
  | _, _ => rel = 3 ∨ rel = 7

/-- XLDB (10 R226, 11 R239) and MLDB (10 R215, R224, 11 R233): the macro's new state, with its checksum columns (in the form of assumption 70);
no other macro changed. -/
def XldbResult (m : MatOp) (o : XOps) (v t : State) : Prop :=
  ∀ (old : Mac) (b : Word), v.core.macs[o.d.toNat]? = some old → m.sc = [b] → o.a.toNat ∉ m.taint →
    ∃ mac, MacroTakes o.d.toNat mac v t ∧
      mac = { old with keyMode := true, keys := mac.keys, nb := min b.toNat 64, ktype := o.fn.toNat, nanp := o.lo8.toNat % 4, tot := o.lo8.getLsbD 2 } ∧
      ∀ j, look 0 j mac.keys = if j < min b.toNat 64 then sourceLane v o.a.toNat j else 0
def MldbResult (m : MatOp) (o : XOps) (v t : State) : Prop :=
  ∀ (old : Mac) (f : Nat → Byte), v.core.macs[o.d.toNat]? = some old → (∀ x, x < 98304 → OperandByte v m x (f x)) →
    ∃ mac, MacroTakes o.d.toNat mac v t ∧
      mac = { old with keyMode := false, bfmt := o.fn.toNat, b := mac.b, scales := mac.scales, chk := mac.chk, nb := 0 } ∧
      (∀ x, x < 98304 → look 0 x mac.b = f x) ∧
      (∀ k, k < 32 * blocks o.fn.toNat → look 0 k mac.chk =
        ((List.range 256).map fun n => element o.fn.toNat (columnOf mac n) k).sum) ∧
      ∀ n k, n < 256 → k < blocks o.fn.toNat → look 0x38 (24 * n + k) mac.scales = m.scales.getD (blocks o.fn.toNat * n + k) 0x38

/-- XROW and XCOL: a value for lane `i` from the `n` bits `b` (11 R241). -/
def tileCount (fn n : Nat) (b : Nat → Bool) : Word :=
  let c := (List.range n).countP b
  if fn = 0 then BitVec.ofNat 32 c
  else if fn = 1 then (if c = 0 then 0 else 1)
  else if fn = 2 then (if c = n then 1 else 0)
  else match (List.range n).find? b with
    | some j => BitVec.ofNat 32 j
    | none => 0xFFFFFFFF

/-- What operation `m` gives at its completion, with `mism` mismatches of the checksum met. -/
def OpResult (m : MatOp) (mism : Nat) (v t : State) : Prop :=
  match m.ins with
  | .mldb o => MldbResult m o v t ∧ KeepsVectors v t ∧ KeepsRelations v t ∧ KeepsTiles v t
  | .xldb o => XldbResult m o v t ∧ KeepsVectors v t ∧ KeepsRelations v t ∧ KeepsTiles v t
  | .mma o => MmaResult m mism o v t ∧ KeepsVectors v t ∧ KeepsRelations v t ∧ KeepsMacros v t
  | .moutl o => MoutlResult m o v t ∧ KeepsVectors v t ∧ KeepsRelations v t ∧ KeepsMacros v t
  | .mzero o => TileTakes o.d.toNat (fun _ _ => 0) v t ∧ t.team.mstat = v.team.mstat ∧ KeepsVectors v t ∧ KeepsRelations v t ∧ KeepsMacros v t
  | .mrd o => MrdResult m o v t ∧ KeepsRelations v t ∧ KeepsTiles v t ∧ KeepsMacros v t
  | .xcmp o =>
    (∀ mac, v.core.macs[o.a.toNat]? = some mac → o.b.toNat ∉ m.taint → RelationTakes o.d.toNat (fun i j =>
      m.act.getLsbD i = true ∧ mac.keyMode = true ∧ j < mac.nb ∧
        related o.fn.toNat i j (orderKey mac (sourceLane v o.b.toNat i)) (orderKey mac (look 0 j mac.keys))) v t) ∧
    KeepsVectors v t ∧ KeepsTiles v t ∧ KeepsMacros v t
  | .xrow o => OwnedLanesTake m o.d.toNat 1 (fun _ i => tileCount o.fn.toNat o.lo8.toNat fun j => (v.team.xrow o.a.toNat i).getLsbD j) v t ∧
      t.team.status = v.team.status ∧ KeepsRelations v t ∧ KeepsTiles v t ∧ KeepsMacros v t
  | .xcol o => OwnedLanesTake m o.d.toNat 1 (fun _ j => tileCount o.fn.toNat o.lo8.toNat fun i => (v.team.xrow o.a.toNat i).getLsbD j) v t ∧
      t.team.status = v.team.status ∧ KeepsRelations v t ∧ KeepsTiles v t ∧ KeepsMacros v t
  | .xclos o => RelationTakes o.d.toNat (fun i j => closure 6 (fun a b => a < 64 ∧ b < 64 ∧ bitAt v o.a.toNat a b) i j ∨ (o.fn = 1 ∧ i = j)) v t ∧
      KeepsVectors v t ∧ KeepsTiles v t ∧ KeepsMacros v t
  | .xcomp o => RelationTakes o.d.toNat (fun i j => ∃ k, k < 64 ∧ bitAt v o.a.toNat i k ∧ bitAt v o.b.toNat k j) v t ∧
      KeepsVectors v t ∧ KeepsTiles v t ∧ KeepsMacros v t
  | .xtrn o => RelationTakes o.d.toNat (fun i j => bitAt v o.a.toNat j i) v t ∧ KeepsVectors v t ∧ KeepsTiles v t ∧ KeepsMacros v t
  | .xlog o => RelationTakes o.d.toNat (fun i j =>
      (o.fn = 0 ∧ bitAt v o.a.toNat i j ∧ bitAt v o.b.toNat i j) ∨ (o.fn = 1 ∧ (bitAt v o.a.toNat i j ∨ bitAt v o.b.toNat i j)) ∨
        (o.fn = 2 ∧ ¬ (bitAt v o.a.toNat i j ↔ bitAt v o.b.toNat i j)) ∨ (o.fn = 3 ∧ bitAt v o.a.toNat i j ∧ ¬ bitAt v o.b.toNat i j)) v t ∧
      KeepsVectors v t ∧ KeepsTiles v t ∧ KeepsMacros v t
  | .xset o => RelationTakes o.d.toNat (fun i j => o.fn = 2 ∨ (o.fn = 1 ∧ i = j)) v t ∧ KeepsVectors v t ∧ KeepsTiles v t ∧ KeepsMacros v t
  | .xmov o =>
    (o.fn = 0 → OwnedLanesTake m o.d.toNat 2 (fun k i => (v.team.xrow o.a.toNat i).extractLsb' (32 * k) 32) v t ∧ KeepsRelations v t) ∧
    (o.fn ≠ 0 → o.a.toNat ∉ m.taint → o.a.toNat + 1 ∉ m.taint → RelationTakes o.d.toNat (fun i j =>
        (Owns m i ∧ (sourceLane v (o.a.toNat + 1) i ++ sourceLane v o.a.toNat i).getLsbD j = true) ∨ (¬ Owns m i ∧ bitAt v o.d.toNat i j)) v t ∧
      t.team.v = v.team.v) ∧
    t.team.status = v.team.status ∧ KeepsTiles v t ∧ KeepsMacros v t
  | _ => True

end Sys2Proof.Claims

namespace Sys2Proof.Claims

/-! ### Errors, repair, loops, power, firmware (24 R363, R366, 25 R390 to R397) -/

/-- Supplies gone (25 R394): the module is off with no tenant; fuses, firmware in service and what NVMe holds, complete checkpoints and
those kept for others, stay. -/
def SuppliesGone (s t : State) : Prop :=
  t.power = .off ∧ t.ten = {} ∧ t.tens = [] ∧ t.core = {} ∧ t.blk = {} ∧ t.team = {} ∧ t.cal = [] ∧ t.fwTab = [] ∧ t.fuse = s.fuse ∧
    t.fwVersion = s.fwVersion ∧ t.rollback = s.rollback ∧ t.fwDigests = s.fwDigests ∧ t.buddies = s.buddies ∧ t.hosted = s.hosted ∧
    t.ckpts = s.ckpts.filter (fun c => c.complete)

/-- The root of trust accepts an image (25 R397): its signature verifies under the fused vendor key and its version is not rolled back. -/
def Trusted (s : State) (w : FwImage) : Prop :=
  Config.sha512 w.key = Config.vendorKeyDigest ∧ Config.verify w.key (leBytes 64 (Config.sha512 w.body).toNat) w.sig = true ∧
    s.rollback ≤ w.version
/-- The module up with firmware of version `n` and digests `ds`, the units `us` in the firmware tables (25 R396). -/
def CameUp (us : List HwUnit) (n : Nat) (ds : List (BitVec 512)) (s t : State) : Prop :=
  t = { s with power := .up, fwTab := t.fwTab, fwVersion := n, fwDigests := ds } ∧ (us = [] → t.fwTab = s.fwTab) ∧
    (∀ b c, .core b c ∈ us → c ∈ (look {} b t.fwTab).cores) ∧ ∀ b c, .channel b c ∈ us → c ∈ (look {} b t.fwTab).channels

/-- R394 to R397: supplies, bring-up, temperature and firmware images. Retraining and retries that repair their lane group change
nothing; a lane group that none repairs takes the module out of service; a droop stretch is counted. -/
def ModuleSteps : Prop :=
  (∀ s : State, ∃ t, exec .powerLoss s = .next t ∧ SuppliesGone s t) ∧
  (∀ (s : State) (c : Nat), s.power ≠ .off →
    (105 ≤ c → ∃ t, exec (.thermalShutdown c) s = .next t ∧ SuppliesGone s t) ∧ (c < 105 → exec (.thermalShutdown c) s = .next s) ∧
    (95 < c → exec (.thermalThrottle c) s = .next { s with clockMHz := s.clockMHz - 50 }) ∧
    (c ≤ 95 → exec (.thermalThrottle c) s = .next s)) ∧
  (∀ (s : State) (us : List HwUnit) (w : FwImage), s.power = .off →
    (Trusted s w → ∃ t, exec (.bringUp us w) s = .next t ∧ CameUp us w.version [Config.sha512 w.body] s t) ∧
    (¬ Trusted s w → s.fwDigests ≠ [] → s.rollback ≤ s.fwVersion →
      ∃ t, exec (.bringUp us w) s = .next t ∧ CameUp us s.fwVersion s.fwDigests s t) ∧
    (¬ Trusted s w → s.fwDigests = [] ∨ s.fwVersion < s.rollback → exec (.bringUp us w) s = .next s)) ∧
  (∀ (s : State) (w : FwImage),
    (s.power ≠ .off → Trusted s w →
      exec (.firmwareImageCheck w) s = .next { s with fwVersion := w.version, fwDigests := [Config.sha512 w.body] }) ∧
    (s.power = .off ∨ ¬ Trusted s w → exec (.firmwareImageCheck w) s = .next s)) ∧
  (∀ (s : State) (d : Int), s.power = .up → exec (.precisionTimeProtocol d) s = .next { s with slew := d }) ∧
  (∀ (s : State) (p : Nat), exec (.linkCrcRetry p true) s = .next s) ∧
  (∀ (s : State) (p : Nat), s.power = .up → ∃ t, exec (.linkCrcRetry p false) s = .next t ∧ t.power = .outOfService ∧ t.ten = {} ∧
    t.tens = [] ∧ t.team = {}) ∧
  (∀ (s : State) (c : Nat), exec (.hbmRetrain c) s = .next s) ∧
  ∀ (s u : State) (n c d : Nat), Opened n s u → ∃ t, exec (.droopStretch n c d) s = .next t ∧
    t = { u with ten := { u.ten with cores := u.ten.cores.map fun k =>
      if k.num = c then { k with strCnt := (k.strCnt + d) % 2 ^ 64 } else k } }

/-- Unit `w` is tested for an error in `u` (24 R363, 25 R392): the quarter of a team's register file, the core of its local store and its TLB, the
scratchpad of its die, the channel that holds a sector; any other unit itself. -/
def TestedFor (s : State) (u w : HwUnit) : Prop :=
  let home (n k : Nat) (f : Core → Prop) : Prop :=
    ∀ o x c, Opened n s o → o.ten.team? k = some x → o.ten.core? x.core = some c → f c
  match u with
  | .regfile n k => home n k fun c => ∃ q, w = .quarter c.bay c.phys q
  | .localStore n k | .tlb n k => home n k fun c => w = .core c.bay c.phys
  | .scratchpad n k => home n k fun c => w = .spad c.die
  | .sector n va => ∀ o, Opened n s o → w = u ∨ ∃ p ∈ o.ten.panes, ∃ c, w = .channel p.bay c
  | _ => w = u

/-- R390 to R392: an uncorrected error is noted for its self-test, a corrected one when a second meets the same unit within 1 s; an uncorrected
one of a main-memory sector poisons it and asks for its page to be moved, one in a register file ends the team with HWERR. A self-test that passes logs a transient
error; one that fails marks the unit in the firmware table; a unit with no error noted is not tested. -/
def ErrorsSteps : Prop :=
  (∀ (s : State) (u : HwUnit), s.power = .up → ∃ t w, exec (.eccError u false) s = .next t ∧ TestedFor s u w ∧ t.errors = s.errors ++ [w]) ∧
  (∀ (s : State) (u : HwUnit), s.power = .up → ∃ t w, exec (.eccError u true) s = .next t ∧ TestedFor s u w ∧ s.timeNs ≤ t.timeNs ∧
    ((∃ x, (w, x) ∈ s.once ∧ t.timeNs - x ≤ 1000000000) → t.errors = s.errors ++ [w] ∧ ∀ x, (w, x) ∉ t.once) ∧
    ((∀ x, (w, x) ∈ s.once → 1000000000 < t.timeNs - x) → t.errors = s.errors ∧ ∀ x, (w, x) ∈ t.once ↔ x = t.timeNs)) ∧
  (∀ (s u : State) (n va : Nat), s.power = .up → Opened n s u → ∃ t, exec (.eccError (.sector n va) false) s = .next t ∧
    (∀ a, t.ten.poisoned a = true ↔ u.ten.poisoned a = true ∨ a / 32 = va / 32) ∧
    (∀ p, (u.ten.pages.find? fun p => decide (p.va ≤ va) && decide (va < p.va + p.size)) = some p → p.st = .hbm →
      p.va ∈ t.ten.unwell ∧ p.va ∈ t.ten.pageReqs) ∧ (∀ sp a, (t.ten.space sp).get a = (u.ten.space sp).get a)) ∧
  (∀ (s v : State) (n k : Nat) (c : Clause), s.power = .up → Placed n k s v → v.team.wait ≠ .ended → v.team.cl = some c →
    ∃ w, TestedFor s (.regfile n k) w ∧
      exec (.eccError (.regfile n k) false) s = .next { v.endFault 23 0 c.va 0 with errors := s.errors ++ [w] }) ∧
  (∀ (s : State) (u : HwUnit) (pass : Bool), s.power = .up → u ∈ s.errors → bayOf u = none →
    exec (.selfTest u pass) s = .next { s with errors := s.errors.filter fun x => x != u, hwLog := s.hwLog ++ [u] }) ∧
  (∀ (s : State) (u : HwUnit) (pass : Bool), s.power = .up → u ∉ s.errors → exec (.selfTest u pass) s = .next s) ∧
  ∀ (s : State) (b c : Nat), s.power = .up → .core b c ∈ s.errors → (∀ t ∈ s.allTens, ∀ p ∈ t.panes, p.bay ≠ b) →
    exec (.selfTest (.core b c) true) s =
        .next { s with errors := s.errors.filter fun x => x != .core b c, hwLog := s.hwLog ++ [.core b c] } ∧
    ∃ t, exec (.selfTest (.core b c) false) s = .next t ∧ c ∈ (look {} b t.fwTab).cores ∧
      (∀ b', b' ≠ b → look {} b' t.fwTab = look {} b' s.fwTab) ∧ t.fuse = s.fuse

/-- R231, R344, R347: an operation that shares no unit with an earlier one starts when its scales are read; nothing else starts with it. Where a
page of its scale fetch is not resident the phase is discarded and the team parks for the pages; where one may not be read the team ends. The
pages are looked up in the TLBs in each case. -/
def MatrixOperationsStart : Prop :=
  (∀ (s u v : State) (n id : Nat) (m : MatOp), Opened n s u → u.ten.op? id = some m → m.started = false → u.ten.opFree m = true →
    Placed n m.team u v →
    (∀ c sub info seen, v.pageStop { r := true, w := false, remote := false } m.fetch = some (.access c sub info seen) →
      exec (.matrixOpStart n id) s = .next ((v.touchPages m.fetch).endFault c sub m.va info)) ∧
    ∀ ps, v.pageStop { r := true, w := false, remote := false } m.fetch = some (.fault ps) →
      (v.ten.framesOf (union v.team.retained ps) ≤ v.tenChannels * 32768 - v.ten.pinned → NoneStarted v.ten [v.team.key] →
        ∃ t y, exec (.matrixOpStart n id) s = .next t ∧ Discarded v.team y ∧ y.v = v.team.v ∧ y.x = v.team.x ∧
          t.team = { y with retained := union v.team.retained ps, wait := .pager ps } ∧
          t.ten.mops = v.ten.mops.filter (fun x => x.team != v.team.key) ∧ t.ten.queued = v.ten.queued ∧ t.ten.teams = v.ten.teams) ∧
      (v.tenChannels * 32768 - v.ten.pinned < v.ten.framesOf (union v.team.retained ps) →
        exec (.matrixOpStart n id) s = .next ((v.touchPages m.fetch).endFault 18 0 m.va (ps.headD 0)))) ∧
  ∀ (s u v : State) (n id : Nat) (m : MatOp) (bs : List Byte) (tm : Team), Opened n s u → u.ten.op? id = some m → m.started = false →
    u.ten.opFree m = true → Placed n m.team u v →
    v.pageStop { r := true, w := false, remote := false } m.fetch = none → loadBytes v.ten v.ctr m.after 0 m.fetch v.team = .ok (bs, tm) →
    ∃ t, exec (.matrixOpStart n id) s = .next t ∧
      t.ten.mops = v.ten.mops.map (fun x => if x.id = id then { x with started := true, scales := bs } else x) ∧ t.team.pend = v.team.pend ∧
      t.team.v = v.team.v ∧ t.team.acc = v.team.acc ∧ t.team.mc = v.team.mc ∧ SameBytes v t

/-- What is still outstanding after a matrix operation: the first other one holds its destinations on, which stay undefined until MC is zero
(02 R35, 11 R230). -/
def PassedOn (vs : List (Nat × Mask)) (ps qs : List Pend) : Prop :=
  qs.length = ps.length ∧ ∀ j x, ps[j]? = some x →
    qs[j]? = some (if x.kind = .mc ∧ ∀ y ∈ ps.take j, y.kind ≠ .mc then { x with vdst := x.vdst ++ vs } else x)

/-- R217, R220 to R229, R230, R233 to R243: an operation that has started and completes writes its results, leaves the sequencer, its result is no
longer outstanding and MC falls by one; the committed banks of the tiles, every other operation and every byte of memory stay as they
were. -/
def MatrixOperationsComplete : Prop :=
  ∀ (s u v : State) (n id mism i : Nat) (m : MatOp) (p : Pend), Opened n s u → u.ten.op? id = some m → m.started = true →
    Placed n m.team u v → m.ins.wf = true → v.core.macs.length = 4 →
    v.team.pend.findIdx? (fun p => p.mop == id && p.kind == .mc) = some i → v.team.pend[i]? = some p → p.ws = [] →
    ∃ t, exec (.matrixOpComplete n id mism) s = .next t ∧ OpResult m mism v t ∧
      t.team.mc = v.team.mc - 1 ∧ PassedOn p.vdst (v.team.pend.eraseIdx i) t.team.pend ∧ t.team.accC = v.team.accC ∧ t.team.s = v.team.s ∧
      t.team.m = v.team.m ∧ t.team.exec = v.team.exec ∧ t.team.pc = v.team.pc ∧ t.team.cl = v.team.cl ∧
      t.ten.mops.map (·.id) = (v.ten.mops.map (·.id)).filter (fun x => x != id) ∧ SameBytes v t

end Sys2Proof.Claims

/-- R390 to R397, R208, R213: errors, self-tests, power, temperature, firmware images, the clock. What survives loss of supplies and a
module out of service, which unit an error marks and what becomes of the pane of a lost bay is the model's
(assumptions 59, 60, 82, 85); so is that a module without an image in service, or with a rolled-back one, stays down, and that the digest of
an accepted image is the running list (assumption 7). -/
def Obligations.ModuleUnitsStep : Prop := ModuleSteps ∧ ErrorsSteps

/-- R77 to R79, R214 to R243: a matrix or relation operation starts and completes with the values that the rules give. Which stale bytes an
operation reads is left free; the form of the checksum columns, and that MRD draws at the stream position of its completion, are the
model's (assumptions 20, 21, 70), as is an infinity for INF of the overflow table under SR (assumption 88). -/
def Obligations.MatrixUnitsStep : Prop := MatrixOperationsStart ∧ MatrixOperationsComplete

namespace Sys2Proof.Claims

/-! ### Requests of hosts and operators (24 R365 to R376, 23 R361, R362) -/

/-- Field of the payload: `n` bytes from `o` on, little-endian. -/
def arg (q : Datagram) (o n : Nat) : Nat := leNat ((q.payload.drop o).take n)

/-- The datagram is a request of protocol version 1 with a clean header (24 R369). -/
def CleanRequest (q : Datagram) (m : Nat) : Prop :=
  q.magic = 0x4350524F#32 ∧ q.version = 1#16 ∧ q.method.toNat = m ∧ q.flags.toNat % 2 = 0 ∧ q.flags.toNat < 16 ∧ q.status = 0 ∧
    q.len.toNat = q.payload.length ∧ q.payload.length ≤ 8160

/-- A tenant's request that is executed (24 R367 to R369, R374): from one of its prefixes, for a context that it has, from a tracked address or
one of 64, while no earlier request waits, with a REQID above every one executed and not answered before. `u` has the tenant in the focus and tracks the address. -/
def Accepted (q : Datagram) (m : Nat) (s u : State) : Prop :=
  s.power = .up ∧ CleanRequest q m ∧ ∃ u0, Opened q.tenant.toNat s u0 ∧ (∃ p ∈ u0.ten.pfx, prefixHas q.src p = true) ∧ u0.ten.moved = none ∧
    ((∃ x ∈ u0.ten.sources, x.addr = q.src) ∨ u0.ten.sources.length < 64) ∧ u0.ten.ctx? (q.flags.toNat / 2) ≠ none ∧
    u0.ten.pending q = false ∧ u0.ten.inbox = [] ∧
    (∀ x ∈ u0.ten.sources, x.addr = q.src → (∀ k ∈ x.kept, k.1 ≠ q.reqid.toNat) ∧ ∀ h, x.high = some h → h ≤ q.reqid.toNat) ∧
    u = { u0 with ten := u0.ten.track q.src }

/-- The same for a request whose REQID does not matter, one that was executed before too (24 R374). -/
def Heard (q : Datagram) (m : Nat) (s u : State) : Prop :=
  s.power = .up ∧ CleanRequest q m ∧ ∃ u0, Opened q.tenant.toNat s u0 ∧ (∃ p ∈ u0.ten.pfx, prefixHas q.src p = true) ∧ u0.ten.moved = none ∧
    ((∃ x ∈ u0.ten.sources, x.addr = q.src) ∨ u0.ten.sources.length < 64) ∧ u0.ten.ctx? (q.flags.toNat / 2) ≠ none ∧
    u0.ten.inbox = [] ∧ u = { u0 with ten := u0.ten.track q.src }

/-- The reply leaves the module and is kept; nothing else of `w` changes. -/
def Replied (q : Datagram) (st : Nat) (bs : List Byte) (w t : State) : Prop :=
  t = { w with
    ten := { w.ten with sources := t.ten.sources }
    out := w.out ++ [.reply q.src q.method.toNat q.tenant.toNat q.reqid st (replyFlagsOf q) bs] }

/-- Bytes that a host may access now (24 R374): mapped and here. -/
def HostMay (w : Bool) (va n : Nat) (u : State) : Prop :=
  u.ten.missing (u.ten.pageVAs (span va n)) = [] ∧ ∀ a, va ≤ a → a < va + n →
    (w = true ∨ u.ten.poisoned a = false) ∧ ∃ p, u.ten.pageAt a = some p ∧ (p.st = .hbm ∨ p.st = .direct) ∧ (w = true → p.w = true)

/-- R374: READ answers the bytes and changes nothing; WRITE stores them, and a byte that it does not name is as before. -/
def HostAccesses : Prop :=
  (∀ (q : Datagram) (s u : State), Accepted q 4 s u → q.payload.length = 16 → arg q 8 4 ≤ 8160 → arg q 12 4 = 0 →
    HostMay false (arg q 0 8) (arg q 8 4) u →
    ∃ t, exec (.read q) s = .next t ∧ Replied q 0 (u.ten.main.gets (arg q 0 8) (arg q 8 4)) u t) ∧
  ∀ (q : Datagram) (s u : State), Accepted q 5 s u → q.payload.length = 16 + arg q 8 4 → 0 < arg q 8 4 → arg q 8 4 ≤ 8144 → arg q 12 4 = 0 →
    HostMay true (arg q 0 8) (arg q 8 4) u →
    ∃ t w, exec (.write q) s = .next t ∧ Replied q 0 [] w t ∧ Overwritten (arg q 0 8) (q.payload.drop 16) u w

/-- Page size and placement of ALLOC (24 R371). -/
def askedSize (q : Datagram) : Nat := if arg q 16 1 = 0 then 65536 else if arg q 16 1 = 1 then 2097152 else 1073741824

/-- R371: ALLOC maps pages of the size, place and permissions asked for over a range that nothing meets, all bytes 0; FREE unmaps whole pages that
nothing uses; no byte outside changes. -/
def HostMaps : Prop :=
  (∀ (q : Datagram) (s u : State) (va len : Nat), Accepted q 2 s u → q.payload.length = 24 → va = arg q 0 8 → len = arg q 8 8 →
    arg q 16 1 ≤ 2 → arg q 17 1 ≤ 2 → arg q 18 1 ≤ 7 → arg q 19 1 ≤ 1 → arg q 20 4 = 0 → len ≠ 0 → va % askedSize q = 0 → len % askedSize q = 0 →
    va + len ≤ 2 ^ 56 → (∀ p ∈ u.ten.pages, p.va + p.size ≤ va ∨ va + len ≤ p.va) →
    (arg q 17 1 = 0 → len / 65536 ≤ u.framesFree) → (arg q 17 1 ≠ 0 → len / 65536 ≤ u.tierFree) →
    ∃ t w, exec (.alloc q) s = .next t ∧ Replied q 0 [] w t ∧
      (∀ a, w.ten.main.get a = if va ≤ a ∧ a < va + len then 0 else u.ten.main.get a) ∧ (∀ p ∈ u.ten.pages, p ∈ w.ten.pages) ∧
      (∀ i, i < len / askedSize q → ∃ p ∈ w.ten.pages, p.va = va + i * askedSize q ∧ p.size = askedSize q ∧ p.r = (arg q 18 1 % 2 == 1) ∧
        p.w = (arg q 18 1 / 2 % 2 == 1) ∧ p.x = (arg q 18 1 / 4 == 1) ∧ p.pin = (arg q 19 1 == 1) ∧
        p.st = (if arg q 17 1 = 0 then .hbm else if arg q 17 1 = 1 then .direct else .tier))) ∧
  ∀ (q : Datagram) (s u : State) (va len : Nat), Accepted q 3 s u → q.payload.length = 16 → va = arg q 0 8 → len = arg q 8 8 → len ≠ 0 →
    (∀ p ∈ u.ten.pages, p.va < va + len → va < p.va + p.size → va ≤ p.va ∧ p.va + p.size ≤ va + len) →
    ((u.ten.pages.filter fun p => decide (p.va < va + len) && decide (va < p.va + p.size)).map (·.size)).sum = len →
    u.ten.users va len = [] → u.ten.inUse va len = false →
    ∃ t w, exec (.free q) s = .next t ∧ Replied q 0 [] w t ∧ (∀ p, p ∈ w.ten.pages ↔ p ∈ u.ten.pages ∧ (p.va < va ∨ va + len ≤ p.va)) ∧
      (∀ a, a < va ∨ va + len ≤ a → w.ten.main.get a = u.ten.main.get a) ∧ w.ten.teams = u.ten.teams

/-- R361, R362: LOAD of an inline image that breaks the format is answered BADIMAGE and maps nothing; an image that is placed and relocated is
answered OK with its section count, and joins the tenant's images with its digest. -/
def ImagesLoad : Prop :=
  ∀ (q : Datagram) (s u : State) (f : List Byte), Accepted q 1 s u → arg q 0 4 = 0 → arg q 4 4 = 0 → arg q 36 4 = 0 → arg q 8 8 ≤ 8112 →
    q.payload.length = 48 + arg q 8 8 → f = q.payload.drop 48 →
    (readDrx f = none → ∃ t, exec (.load q) s = .next t ∧ Replied q 5 [] u t) ∧
    ∀ d t0 vas bs, readDrx f = some d → u.roomIn .hbm ((d.secs.map fun x => x.span / 65536).foldl (· + ·) 0) = true →
      Tenant.placeSecs u.ctr d.secs 0 u.ten = some (t0, vas) → (∀ x ∈ d.syms, x.sec ≠ 0xFFFF) →
      relocate d vas d.rels 0 (d.secs.map (·.bytes)) = .ok bs →
      ∃ t w rep im, exec (.load q) s = .next t ∧ Replied q 0 rep w t ∧ rep.take 4 = leBytes 4 d.secs.length ∧
        w.ten.images = u.ten.images ++ [im] ∧ im.digest = Config.sha512 f ∧ (d.trap = none → im.trap = 0) ∧
        im.secs = vas.zip (d.secs.map fun x => x.bytes.length) ∧ w.ten.pages = t0.pages ∧ w.ten.teams = u.ten.teams

/-- R283, R370, R371: LAUNCH of a good record, and SYNC as the record of kind 3 that it stands for, are queued and answered with the launch identifier;
a record outside its limits is refused with SHAPE and changes nothing but the submission number. A gang member's LAUNCH may stay open until the
gang decides; rank 0 takes in the READYs that came before it (R381; which of the two is a free choice). -/
def LaunchesSubmit : Prop :=
  (∀ (q : Datagram) (s u : State), Accepted q 6 s u → q.payload.length = 72 → arg q 64 4 = 0 → arg q 68 4 = 0 →
    (u.ten.recordStatus (q.payload.take 64) = 0 → ∃ t w y, exec (.rpcLaunch q) s = .next t ∧
      Replied q 0 (leBytes 4 u.ten.nextLaunch ++ leBytes 4 0) w t ∧ y.id = u.ten.nextLaunch ∧ y.sub = u.ten.nextSub ∧ y.st = .queued ∧
      y.ctx = q.flags.toNat / 2 ∧ y.rc = readLRec (q.payload.take 64) ∧ y.gang = none ∧
      w = { u with ten := { u.ten with
        launches := u.ten.launches ++ [y], nextLaunch := u.ten.nextLaunch + 1, nextSub := u.ten.nextSub + 1 } }) ∧
    (u.ten.recordStatus (q.payload.take 64) ≠ 0 → ∃ t, exec (.rpcLaunch q) s = .next t ∧
      Replied q (u.ten.recordStatus (q.payload.take 64)) (leBytes 8 0) { u with ten := { u.ten with nextSub := u.ten.nextSub + 1 } } t)) ∧
  (∀ (q : Datagram) (s u : State), Accepted q 6 s u → q.payload.length = 88 + 16 * arg q 80 2 → arg q 64 4 = 1 → arg q 68 4 = 0 →
    2 ≤ arg q 80 2 → arg q 80 2 ≤ 64 → arg q 82 2 < arg q 80 2 → 1000 ≤ arg q 84 4 → arg q 84 4 ≤ 10000000 →
    u.ten.recordStatus (q.payload.take 64) = 0 → ∃ t w y g, exec (.rpcLaunch q) s = .next t ∧
      ((Replied q 0 (leBytes 4 u.ten.nextLaunch ++ leBytes 4 0) w t ∧ g.q = none) ∨
        (t = { w with ten := { w.ten with sources := t.ten.sources } } ∧ g.q = some q)) ∧ w.ten.launches = u.ten.launches ++ [y] ∧ y.gang = some g ∧
      g.id.toNat = arg q 72 8 ∧ g.nmem = arg q 80 2 ∧ g.rank = arg q 82 2 ∧ g.tmo = arg q 84 4 ∧ g.decided = none ∧
      (∀ x, x ∈ g.got ↔ g.rank = 0 ∧ x ≠ 0 ∧ x < g.nmem ∧ (arg q 72 8, x) ∈ u.ten.readies) ∧
      (∀ x, x ∈ w.ten.readies ↔ x ∈ u.ten.readies ∧ x.1 ≠ arg q 72 8) ∧
      ∀ i, i < g.nmem → g.addrs[i]? = some (BitVec.ofNat 128 (arg q (88 + 16 * i) 16))) ∧
  ∀ (q : Datagram) (s u : State) (rec : List Byte), Accepted q 8 s u → q.payload.length = 32 →
    rec = leBytes 7 0 ++ [3#8] ++ q.payload.take 4 ++ leBytes 12 0 ++ (q.payload.drop 4).take 4 ++ leBytes 12 0 ++ q.payload.drop 8 →
    u.ten.recordStatus rec = 0 → ∃ t w y, exec (.sync q) s = .next t ∧ Replied q 0 (leBytes 4 u.ten.nextLaunch ++ leBytes 4 0) w t ∧
      w.ten.launches = u.ten.launches ++ [y] ∧ y.rc = readLRec rec ∧ y.id = u.ten.nextLaunch ∧ y.st = .queued

/-- R371: WAIT on an object that holds at least its value is answered OK with the value; else it stays open until it does, or until its time is
over, which is answered TIMEOUT. -/
def WaitsAnswer : Prop :=
  (∀ (q : Datagram) (s u : State) (va : Nat), Accepted q 7 s u → q.payload.length = 24 → va = arg q 0 8 → va % 8 = 0 → arg q 16 4 ≤ 10000000 →
    arg q 20 4 = 0 → u.ten.objPage va = .here → (∀ w ∈ u.ten.waits, w.q ≠ q) →
    (arg q 8 8 ≤ u.ten.main.num va 8 → ∃ t, exec (.wait q) s = .next t ∧ Replied q 0 (leBytes 8 (u.ten.main.num va 8)) u t) ∧
    (u.ten.main.num va 8 < arg q 8 8 → ∃ t, exec (.wait q) s = .next t ∧
      t = { u with ten := { u.ten with
        sources := t.ten.sources, waits := u.ten.waits ++ [{ q := q, va := va, val := arg q 8 8 }] } })) ∧
  ∀ (s u : State) (n i : Nat) (w : OpenWait), Opened n s u → u.ten.waits[i]? = some w → ∃ t st, exec (.waitTimeout n i) s = .next t ∧
    st = (if u.ten.objPage w.va = .here ∧ w.val ≤ u.ten.main.num w.va 8 then 0 else 14) ∧
    t.out = u.out ++ [.reply w.q.src w.q.method.toNat w.q.tenant.toNat w.q.reqid st (replyFlagsOf w.q) (leBytes 8 (u.ten.main.num w.va 8))] ∧
    (∀ y ∈ t.ten.waits, y ∈ u.ten.waits ∧ ¬ (y.q.src = w.q.src ∧ y.q.reqid = w.q.reqid)) ∧
    t = { u with out := t.out, ten := { u.ten with waits := t.ten.waits, sources := t.ten.sources } }

end Sys2Proof.Claims

/-- R283, R361, R362, R370, R371, R374: requests of a host that move data, map pages, load images, submit launches and wait. Submission
numbers, when a gang's LAUNCH is answered, the record of refused headers, memory that is short and the top bytes of a kind-3 record's
objects are the model's reading (assumptions 35, 40, 51, 52, 75), and that fields which a LOAD does not use may hold anything its choice
(assumption 87). -/
def Obligations.HostRequestsComplete : Prop := HostAccesses ∧ HostMaps ∧ ImagesLoad ∧ LaunchesSubmit ∧ WaitsAnswer

namespace Sys2Proof.Claims

/-! ### Registration, reports, settings, windows, tenants, contexts, checkpoints (24 R365 to R382, 25 R384 to R388, R397) -/

/-- The `n` bytes of the descriptor at DVA, which a REGISTER of kind `what` reads. -/
def descriptor (q : Datagram) (n : Nat) (u : State) : List Byte := u.ten.main.gets (arg q 16 8) n
/-- A REGISTER of kind `what` that is accepted, its descriptor readable (24 R371). -/
def Registers (q : Datagram) (what n : Nat) (s u : State) : Prop :=
  Accepted q 9 s u ∧ q.payload.length = 24 ∧ arg q 0 4 = what ∧ arg q 12 4 = 0 ∧ HostMay false (arg q 16 8) n u

/-- R244, R246, R262, R296, R312: a descriptor that keeps its rules registers a world with an empty directory, a query, a bin or a texture with
its latent pages pinned. -/
def DescriptorsRegister : Prop :=
  (∀ (q : Datagram) (s u : State) (d types : List Byte), Registers q 0 64 s u → arg q 8 4 = 0 → d = descriptor q 64 u → arg q 4 4 ≤ 15 →
    u.ten.world? (arg q 4 4) = none → worldOk d = true → HostMay false (field d 24 7) 256 u → types = u.ten.main.gets (field d 24 7) 256 →
    (∀ b ∈ types, b.toNat ≤ 64) → 3072 * ((field d 16 4 + 63) / 64) ≤ field d 8 8 →
    ∃ t w x, exec (.registerWorld q) s = .next t ∧ Replied q 0 [] w t ∧ x ∈ w.ten.worlds ∧ x.num = arg q 4 4 ∧ x.pool = field d 0 7 ∧
      x.poolsz = field d 8 8 ∧ x.cap = field d 16 4 ∧ x.qcap = field d 20 4 ∧ x.report = field d 32 7 ∧ x.p.num = 0 ∧ x.w.num = 1 ∧ x.d = none ∧
      x.q = [] ∧ x.p.dir = [] ∧ x.p.cols = [] ∧ (∀ k, k < 256 → look 0 k x.types = field types k 1) ∧
      (∀ a, a < x.pool ∨ x.pool + x.poolsz ≤ a → w.ten.main.get a = u.ten.main.get a) ∧ ∀ y ∈ u.ten.worlds, y ∈ w.ten.worlds) ∧
  (∀ (q : Datagram) (s u : State) (d : List Byte) (x : World), Registers q 1 96 s u → d = descriptor q 96 u →
    u.ten.world? (arg q 4 4) = some x → 1 ≤ arg q 8 4 → arg q 8 4 ≤ 65535 →
    (∀ y ∈ u.ten.queries, ¬ (y.world = arg q 4 4 ∧ y.id = arg q 8 4)) → field d 0 32 ≠ 0 →
    (∀ k, k < 256 → (BitVec.ofNat 256 (field d 0 32)).getLsbD k = true → look 0 k x.types ≠ 0 ∧
      ((BitVec.ofNat 256 (field d 32 32)).getLsbD k = true ∨ (BitVec.ofNat 256 (field d 64 32)).getLsbD k = true)) →
    ∃ t, exec (.registerQuery q) s = .next t ∧ Replied q 0 [] { u with ten := { u.ten with queries := u.ten.queries ++ [{
      world := arg q 4 4, id := arg q 8 4, req := BitVec.ofNat 256 (field d 0 32), rd := BitVec.ofNat 256 (field d 32 32)
      wr := BitVec.ofNat 256 (field d 64 32) }] } } t) ∧
  (∀ (q : Datagram) (s u : State) (d : List Byte) (b : BinDesc), Registers q 2 64 s u → arg q 8 4 = 0 → d = descriptor q 64 u →
    arg q 4 4 ≤ 255 → findBy (·.num) (arg q 4 4) u.ten.bins = none → binOk d = true → b = readBin (arg q 4 4) (q.flags.toNat / 2) d →
    u.ten.shapeOk (b.record b.thr) = true → b.ring + b.cap * 4 * b.rsw ≤ u.ten.leastScratch →
    ∃ t w, exec (.registerBin q) s = .next t ∧ Replied q 0 [] w t ∧ b ∈ w.ten.bins ∧ (∀ y ∈ u.ten.bins, y ∈ w.ten.bins) ∧
      w = { u with ten := { u.ten with bins := w.ten.bins } }) ∧
  ∀ (q : Datagram) (s u : State) (d : List Byte) (x : Tex) (size : Nat), Registers q 3 256 s u → arg q 4 4 = 0 → arg q 8 4 = 0 →
    d = descriptor q 256 u → arg q 16 8 % 256 = 0 → texOk d = true → x = readTex d → size = 16 * ((x.w + 15) / 16) * ((x.h + 15) / 16) →
    HostMay false x.lat size u →
    ∃ t w, exec (.registerTexture q) s = .next t ∧ Replied q 0 [] w t ∧ w.ten.textures = u.ten.textures ++ [(arg q 16 8, x.lat, size)] ∧
      (∀ p ∈ u.ten.pages, (∃ a, x.lat ≤ a ∧ a < x.lat + size ∧ p.va ≤ a ∧ a < p.va + p.size) → { p with pin := true } ∈ w.ten.pages) ∧
      ∀ sp a, (w.ten.space sp).get a = (u.ten.space sp).get a

/-- The panes after CONFIG: the one named gets its quantum and its two periods (24 R376). -/
def paneSet (q : Datagram) (ps : List Pane) : List Pane :=
  changeBy (·.num) (arg q 0 4) (fun x => { x with quantum := arg q 4 4, nd := arg q 8 4, nm := arg q 12 4 }) ps

/-- The descriptor of a pane (24 R365): CHANS in bits [28:24], and for logical core j of the pane its quarters less one in bits [2j + 1:2j]. -/
def paneWord (u : State) (p : Pane) : Nat :=
  u.channels p.bay * 2 ^ 24 + ((u.ten.cores.filter fun c => c.pane == p.num).map fun c => (c.quarters - 1) * 4 ^ (c.num - 12 * p.num)).sum
/-- The bytes of the entries of a queue. -/
def fill (es : List (List Byte)) : Nat := (es.map List.length).sum
/-- The reply of STATUS (24 R372): the panes, the highest REQID executed for the source, dropped page requests, UNMAPPED events, the bytes in
the event queue and in the log, the pane descriptors. -/
def statusReply (q : Datagram) (u : State) : List Byte :=
  leBytes 4 u.ten.panes.length ++ leBytes 4 0 ++ leBytes 8 (((u.ten.sources.find? fun x => x.addr == q.src).bind (·.high)).getD 0) ++
    leBytes 8 u.ten.dropReq ++ leBytes 8 u.ten.unmapped ++ leBytes 4 (fill u.ten.evq) ++ leBytes 4 (fill u.ten.log) ++
    u.ten.panes.flatMap fun p => leBytes 4 (paneWord u p)

/-- R365, R372, R375, R376, R397: EVENTS and LOG hand over whole entries, oldest first, and keep the rest; STATUS is answered whatever its REQID,
with the highest REQID, the counts, the fills and the pane descriptors; CONFIG sets a pane; ATTEST answers the nonce, the version, NFW, NIMG, the
digests of the running firmware and of the images loaded, at most 118 and the most recent ones, and signs them all. -/
def ReportsAnswer : Prop :=
  (∀ (q : Datagram) (s u : State), Accepted q 14 s u → q.payload.length = 4 → 16 ≤ arg q 0 4 → arg q 0 4 ≤ 8160 → u.ten.evWait = [] →
    ∃ t w es, exec (.events q) s = .next t ∧ Replied q 0 es.flatten w t ∧ u.ten.evq = es ++ w.ten.evq ∧ es.flatten.length ≤ arg q 0 4 ∧
      (∀ e r, w.ten.evq = e :: r → arg q 0 4 < es.flatten.length + e.length) ∧ w = { u with ten := { u.ten with evq := w.ten.evq } }) ∧
  (∀ (q : Datagram) (s u : State), Accepted q 15 s u → q.payload.length = 4 → 16 ≤ arg q 0 4 → arg q 0 4 ≤ 8160 →
    ∃ t w es, exec (.log q) s = .next t ∧ Replied q 0 es.flatten w t ∧ u.ten.log = es ++ w.ten.log ∧ es.flatten.length ≤ arg q 0 4 ∧
      (∀ e r, w.ten.log = e :: r → arg q 0 4 < es.flatten.length + e.length) ∧ w = { u with ten := { u.ten with log := w.ten.log } }) ∧
  (∀ (q : Datagram) (s u : State), Heard q 13 s u → q.payload = [] →
    exec (.status q) s = .next { u with out := u.out ++ [.reply q.src 13 q.tenant.toNat q.reqid 0 (replyFlagsOf q) (statusReply q u)] }) ∧
  (∀ (q : Datagram) (s u : State) (p : Pane), Accepted q 16 s u → q.payload.length = 16 → u.ten.pane? (arg q 0 4) = some p → 100 ≤ arg q 4 4 →
    arg q 4 4 ≤ 100000 → 1 ≤ arg q 8 4 → arg q 8 4 ≤ arg q 12 4 → arg q 12 4 ≤ 2 ^ 24 → ∃ t, exec (.config q) s = .next t ∧
      Replied q 0 [] { u with ten := { u.ten with panes := paneSet q u.ten.panes } } t) ∧
  ∀ (q : Datagram) (s u : State), Accepted q 12 s u → q.payload.length = 32 → u.fwDigests.length ≤ 118 →
    ∃ t body older newer, exec (.attest q) s = .next t ∧ Replied q 0 (body ++ Config.sign body) u t ∧
      body = q.payload ++ leBytes 8 u.fwVersion ++ leBytes 4 u.fwDigests.length ++ leBytes 4 newer.length ++
        (u.fwDigests ++ newer).flatMap (fun d => leBytes 64 d.toNat) ∧
      u.ten.images.map (·.digest) = older ++ newer ∧ u.fwDigests.length + newer.length ≤ 118 ∧
      (older ≠ [] → u.fwDigests.length + newer.length = 118)

/-- The operator's request is clean and comes from an operator address (24 R367). -/
def Operates (q : Datagram) (s : State) : Prop :=
  s.power = .up ∧ CleanRequest q 19 ∧ q.tenant = 0xFFFFFFFF#32 ∧ Config.isOperator q.src = true ∧
    q.payload.length = 24 + 4 * arg q 8 4 + 20 * arg q 16 4

/-- R292, R293, R367, R368: an operator creates a tenant on free bays that yield panes and with slots free along all its routes, which it owns
at each port one slot later than at the port before; an operator removes a tenant with all it had; a tenant creates and destroys its
contexts, whose save areas take frames. -/
def TenantsAndContexts : Prop :=
  (∀ (q : Datagram) (s : State) (bays : List Nat), Operates q s → arg q 0 4 = 0 → arg q 4 4 ≤ 31 → arg q 8 4 ≠ 0 → 1 ≤ arg q 12 4 → arg q 12 4 ≤ 128 →
    arg q 20 4 = 0 → bays = (List.range (arg q 8 4)).map (fun i => arg q (24 + 4 * i) 4) →
    (∀ i, i < arg q 16 4 → arg q (24 + 4 * arg q 8 4 + 20 * i + 16) 4 ≤ 128) → (∀ t ∈ s.allTens, t.num ≠ arg q 4 4) → bays.Nodup →
    (∀ b ∈ bays, s.yields b = true ∧ ∀ t ∈ s.allTens, ∀ p ∈ t.panes, p.bay ≠ b) → (∀ p k, slotOwner (s.slotAt p k) ≠ some (arg q 4 4)) →
    arg q 12 4 ≤ (s.freeSlots (portsOf (distinct (bays.map (· / 8))))).length →
    ∃ t x, exec (.tenantCreate q) s = .next t ∧ x ∈ t.allTens ∧ x.num = arg q 4 4 ∧ x.live = true ∧ x.panes.map (·.bay) = bays ∧
      x.slots = arg q 12 4 ∧ x.pfx.length = arg q 16 4 ∧ x.teams = [] ∧ x.pages = [] ∧ x.ctxs.map (·.num) = [0] ∧ x.main = {} ∧
      t.out = s.out ++ [.reply q.src 19 q.tenant.toNat q.reqid 0 (replyFlagsOf q) []] ∧
      ∃ ks : List Nat, ks.Nodup ∧ ks.length = arg q 12 4 ∧ (∀ p ∈ portsOf (distinct (bays.map (· / 8))), ∀ k, k < 128 →
        (slotOwner (t.slotAt p (k + p.phase)) = some (arg q 4 4) ↔ k ∈ ks))) ∧
  (∀ (dies : List Nat), (∀ d ∈ dies, d < 4) → ∀ r ∈ routesOf dies, ∀ i p p', r[i]? = some p → r[i + 1]? = some p' → p'.phase = p.phase + 1) ∧
  (∀ (q : Datagram) (s : State), Operates q s → arg q 0 4 = 1 → arg q 20 4 = 0 → (∃ t ∈ s.allTens, t.num = arg q 4 4) →
    ∃ t, exec (.tenantRemove q) s = .next t ∧
    (∀ x ∈ t.allTens, x.num ≠ arg q 4 4) ∧ (∀ p k, slotOwner (t.slotAt p k) ≠ some (arg q 4 4)) ∧
    t.out = s.out ++ [.reply q.src 19 q.tenant.toNat q.reqid 0 (replyFlagsOf q) []]) ∧
  (∀ (q : Datagram) (s u : State), Accepted q 20 s u → q.payload.length = 8 → arg q 0 4 = 0 → arg q 4 4 = 0 →
    (∃ n, n < 8 ∧ u.ten.ctx? n = none) → Config.saveFrames ≤ u.framesFree →
    ∃ t w n, exec (.contextCreate q) s = .next t ∧ Replied q 0 (leBytes 4 n) w t ∧ n < 8 ∧ u.ten.ctx? n = none ∧
      (∃ c ∈ w.ten.ctxs, c = { num := n, frames := Config.saveFrames }) ∧ (∀ c ∈ u.ten.ctxs, c ∈ w.ten.ctxs) ∧ w = { u with ten := { u.ten with ctxs := w.ten.ctxs } }) ∧
  ∀ (q : Datagram) (s u : State) (c : Ctx), Accepted q 20 s u → q.payload.length = 8 → arg q 0 4 = 1 → arg q 4 4 ≠ 0 →
    u.ten.ctx? (arg q 4 4) = some c → (∀ l ∈ u.ten.launches, l.ctx ≠ arg q 4 4) →
    ∃ t w, exec (.contextDestroy q) s = .next t ∧ Replied q 0 (leBytes 4 (arg q 4 4)) w t ∧ w.ten.ctx? (arg q 4 4) = none ∧
      (∀ p ∈ w.ten.panes, p.ctx ≠ arg q 4 4)

/-- R372, R377, R378: windows are created and removed; PEERMAP maps REMOTE pages over a range that nothing meets. -/
def WindowsOpen : Prop :=
  (∀ (q : Datagram) (s u : State), Accepted q 17 s u → arg q 28 4 ≤ 16 → q.payload.length = 32 + 20 * arg q 28 4 → arg q 0 4 = 0 → arg q 4 4 = 0 →
    arg q 8 8 % 65536 = 0 → arg q 16 8 % 65536 = 0 → arg q 16 8 ≠ 0 → arg q 8 8 + arg q 16 8 ≤ 2 ^ 56 → arg q 24 4 ≤ 7 → arg q 28 4 ≠ 0 →
    (∀ i, i < arg q 28 4 → arg q (32 + 20 * i + 16) 4 ≤ 128) → (∃ i, 0 < i ∧ i < 4096 ∧ findBy (·.id) i u.ten.windows = none) →
    ∃ t w x, exec (.windowCreate q) s = .next t ∧ Replied q 0 (leBytes 4 x.id) w t ∧ x ∈ w.ten.windows ∧ 0 < x.id ∧ x.id < 4096 ∧
      findBy (·.id) x.id u.ten.windows = none ∧ x.va = arg q 8 8 ∧ x.len = arg q 16 8 ∧ x.r = (arg q 24 4 % 2 == 1) ∧
      x.w = (arg q 24 4 / 2 % 2 == 1) ∧ x.a = (arg q 24 4 / 4 == 1) ∧ x.pfx.length = arg q 28 4 ∧ ∀ y ∈ u.ten.windows, y ∈ w.ten.windows) ∧
  (∀ (q : Datagram) (s u : State) (x : Window), Accepted q 17 s u → arg q 28 4 ≤ 16 → q.payload.length = 32 + 20 * arg q 28 4 → arg q 0 4 = 1 → arg q 24 4 ≤ 7 →
    findBy (·.id) (arg q 4 4) u.ten.windows = some x → ∃ t, exec (.windowRemove q) s = .next t ∧
      Replied q 0 (leBytes 4 (arg q 4 4)) { u with ten := { u.ten with windows := u.ten.windows.filter fun y => y.id != arg q 4 4 } } t) ∧
  ∀ (q : Datagram) (s u : State) (lva len : Nat), Accepted q 18 s u → q.payload.length = 48 → lva = arg q 24 8 → len = arg q 32 8 →
    arg q 16 4 ≤ 31 → 1 ≤ arg q 20 4 → arg q 20 4 ≤ 4095 → lva % 65536 = 0 → len % 65536 = 0 → len ≠ 0 → lva + len ≤ 2 ^ 56 →
    (∀ p ∈ u.ten.pages, p.va + p.size ≤ lva ∨ lva + len ≤ p.va) →
    ∃ t w m, exec (.peermap q) s = .next t ∧ Replied q 0 [] w t ∧ w.ten.peers = u.ten.peers ++ [m] ∧ (∀ y ∈ u.ten.peers, y.idx ≠ m.idx) ∧
      m.peer = BitVec.ofNat 128 (arg q 0 16) ∧ m.pten = arg q 16 4 ∧ m.win = arg q 20 4 ∧ m.lva = lva ∧ m.len = len ∧ m.rva = arg q 40 8 ∧
      m.failed = false ∧ ∀ i, i < len / 65536 → ∃ p ∈ w.ten.pages, p.va = lva + 65536 * i ∧ p.size = 65536 ∧ p.st = .remote ∧ p.peer = m.idx

/-- The shard requests of a TAKE, from their bytes. -/
def ShardsAre (bs : List Byte) (n : Nat) (xs : List (Nat × Nat × Nat)) : Prop :=
  xs.length = n ∧ ∀ i, i < n → xs[i]? = some (field bs (24 * i) 4, field bs (24 * i + 8) 8, field bs (24 * i + 16) 8)

/-- R382, R384, R386, R388, R370: TAKE and MIGRATE are taken up and answered later, a TAKE with a table in memory too, whose pages it awaits while
it is open. RESTORE of a checkpoint that verifies replaces the tenant's state, here with every pane on the die that it was recorded on; the newer
steps, here and at the buddies, are deleted; requests that are open stay so, a TAKE that has been recorded fails (assumption 86); the control
registers of the cores stay (assumption 83). A TAKE during a TAKE or a migration, at its source or its target, is refused with BUSY. LIST names the steps, newest first; an unassigned
method is refused with BADREQ. -/
def CheckpointRequests : Prop :=
  (∀ (q : Datagram) (s u : State) (bs : List Byte), Accepted q 10 s u → arg q 0 4 = 0 → 1 ≤ arg q 4 4 → arg q 16 8 % 8 = 0 →
    (arg q 48 8 = 0 → arg q 4 4 ≤ 337 ∧ q.payload.length = 56 + 24 * arg q 4 4 ∧ bs = q.payload.drop 56) →
    (arg q 48 8 ≠ 0 → arg q 4 4 ≤ 4096 ∧ q.payload.length = 56 ∧ arg q 48 8 % 8 = 0 ∧ HostMay false (arg q 48 8) (24 * arg q 4 4) u ∧
      bs = u.ten.main.gets (arg q 48 8) (24 * arg q 4 4)) →
    u.ten.take = none → u.ten.mig = none → u.ten.away = [] → shardsOk bs (arg q 4 4) = true →
    ∃ t k, exec (.checkpointTake q) s = .next t ∧ t = { u with ten := { u.ten with sources := t.ten.sources, take := some k } } ∧
      k.step = arg q 8 8 ∧ k.waitva = arg q 16 8 ∧ k.waitv = arg q 24 8 ∧ k.buddy = BitVec.ofNat 128 (arg q 32 16) ∧ k.q = q ∧
      k.recorded = false ∧ k.tab = none ∧ ShardsAre bs (arg q 4 4) k.shards) ∧
  (∀ (q : Datagram) (s u : State), Accepted q 10 s u → arg q 0 4 = 0 → 1 ≤ arg q 4 4 → arg q 4 4 ≤ 4096 → arg q 16 8 % 8 = 0 → arg q 48 8 ≠ 0 →
    arg q 48 8 % 8 = 0 → q.payload.length = 56 → u.ten.take = none → u.ten.mig = none → u.ten.away = [] →
    (∀ a, arg q 48 8 ≤ a → a < arg q 48 8 + 24 * arg q 4 4 → u.ten.poisoned a = false ∧ ∃ p, u.ten.pageAt a = some p ∧ p.st ≠ .remote) →
    u.ten.missing (u.ten.pageVAs (span (arg q 48 8) (24 * arg q 4 4))) ≠ [] →
    ∃ t k, exec (.checkpointTake q) s = .next t ∧ t = { u with ten := { u.ten with sources := t.ten.sources, take := some k } } ∧
      k.step = arg q 8 8 ∧ k.q = q ∧ k.recorded = false ∧ k.tab = some (arg q 48 8)) ∧
  (∀ (q : Datagram) (s u : State) (c : Ckpt), Accepted q 10 s u → arg q 0 4 = 1 → arg q 4 4 = 0 → q.payload.length = 16 →
    (u.ckpts.find? fun c => c.tenant == u.ten.num && c.step == arg q 8 8 && c.complete) = some c → c.verifies = true →
    (∀ p ∈ c.image.panes, ∀ r ∈ u.ten.panes, r.num = p.num → r.bay / 8 = p.bay / 8) → (∀ k, u.ten.take = some k → k.recorded = false) →
    ∃ t w, exec (.checkpointRestore q) s = .next t ∧ Replied q 0 [] w t ∧ w.ten.num = u.ten.num ∧ w.ten.pfx = u.ten.pfx ∧
      w.ten.main = c.image.main ∧ w.ten.scratch = c.image.scratch ∧ w.ten.pages = c.image.pages ∧ w.ten.ctxs = c.image.ctxs ∧
      w.ten.launches = c.image.launches ∧ w.ten.worlds = c.image.worlds ∧ w.ten.panes.length = u.ten.panes.length ∧
      (∀ k ∈ w.ten.cores, ∃ k0 ∈ (State.stow u).ten.cores, k = { k0 with macs := k.macs, macGrp := k.macGrp, bt := [], tlb := [], wins := [] }) ∧
      w.ten.take = u.ten.take ∧ w.ten.mig = u.ten.mig ∧ w.ten.waits = u.ten.waits ∧
      (∀ x, x ∈ w.ckpts ↔ x ∈ u.ckpts ∧ (x.tenant = u.ten.num → x.complete = true ∧ x.seq ≤ c.seq)) ∧
      (∀ x, x ∈ w.buddies ↔ x ∈ u.buddies ∧ (x.2.tenant = u.ten.num → x.2.complete = true ∧ x.2.seq ≤ c.seq)) ∧
      ∀ m, m ∈ w.out ↔ m ∈ u.out ∨ (∃ x ∈ u.buddies, x ∉ w.buddies ∧ m = .settled x.1 u.ten.num x.2.seq false) ∨
        ∃ x ∈ u.buddies, x.2.tenant = u.ten.num ∧ m = .newer x.1 u.ten.num c.image.birth c.seq) ∧
  (∀ (q : Datagram) (s u : State) (c : Ckpt) (k : Take), Accepted q 10 s u → arg q 0 4 = 1 → arg q 4 4 = 0 → q.payload.length = 16 →
    (u.ckpts.find? fun c => c.tenant == u.ten.num && c.step == arg q 8 8 && c.complete) = some c → c.verifies = true →
    u.ten.take = some k → k.recorded = true →
    ∃ t st, exec (.checkpointRestore q) s = .next t ∧ t.ten.take = none ∧ (st = 14 ∨ st = 6) ∧
      .reply k.q.src k.q.method.toNat k.q.tenant.toNat k.q.reqid st (replyFlagsOf k.q) [] ∈ t.out ∧
      .reply q.src 10 q.tenant.toNat q.reqid 0 (replyFlagsOf q) [] ∈ t.out) ∧
  (∀ (q : Datagram) (s u : State), Accepted q 10 s u → arg q 0 4 = 0 →
    (arg q 48 8 = 0 → q.payload.length = 56 + 24 * arg q 4 4) → (arg q 48 8 ≠ 0 → q.payload.length = 56) → arg q 16 8 % 8 = 0 → arg q 48 8 % 8 = 0 →
    u.ten.take ≠ none ∨ u.ten.mig ≠ none ∨ u.ten.away ≠ [] → ∃ t, exec (.checkpointTake q) s = .next t ∧ Replied q 11 [] u t) ∧
  (∀ (q : Datagram) (s u : State), Accepted q 10 s u → arg q 0 4 = 2 → q.payload.length = 4 → ∃ t, exec (.checkpointList q) s = .next t ∧
    Replied q 0 (leBytes 4 (u.ckpts.filter fun c => c.tenant == u.ten.num && c.complete).length ++ leBytes 4 0 ++
      (((u.ckpts.filter fun c => c.tenant == u.ten.num && c.complete).map (·.step)).reverse.flatMap fun x => leBytes 8 x)) u t) ∧
  (∀ (q : Datagram) (s u : State), Accepted q 11 s u → q.payload.length = 24 → arg q 16 4 ≤ 31 → arg q 20 4 = 0 → u.ten.take = none →
    u.ten.mig = none → u.ten.away = [] → InOrder u.ten → u.fitsTarget (Config.targetPanes (BitVec.ofNat 128 (arg q 0 16)) (arg q 16 4)) = true →
    ∃ t, exec (.migrate q) s = .next t ∧ t.out = u.freeze.out ∧ t.ten.mig = some {
      target := BitVec.ofNat 128 (arg q 0 16), tten := arg q 16 4, q := q, moved := false, left := [] } ∧
      (∀ x ∈ t.ten.teams, x.batch = [] ∨ x.openPhase? = false) ∧ ∀ sp a, (t.ten.space sp).get a = (u.freeze.ten.space sp).get a) ∧
  ∀ (q : Datagram) (s u : State) (m : Nat), Accepted q m s u → m = 0 ∨ 21 ≤ m → ∃ t, exec (.unassignedMethod q) s = .next t ∧
    t = { u with out := u.out ++ [.reply q.src m q.tenant.toNat q.reqid 9 (replyFlagsOf q) []] }

end Sys2Proof.Claims

/-- R244, R262, R296, R312, R365, R372, R375 to R377, R397: registration, reports, settings, attestation. The statuses of malformed
registrations are the model's reading (assumptions 51 and 55), the limits of ARG and DONE of a bin its choice (assumption 90). -/
def Obligations.RegistrationAndReports : Prop := DescriptorsRegister ∧ ReportsAnswer
/-- R292, R293, R367, R368, R370, R372, R377, R378, R382, R384, R386, R388: tenants, contexts, windows, peer mappings, checkpoints, migration, other
methods. Numbers that the module picks, what a restored checkpoint holds, and the core registers after a RESTORE are the model's choices
(assumptions 53, 55 to 58, 77, 83, 86); so are that a refused method leaves its REQID unrecorded (assumption 51) and that fields which a
remove does not use may hold anything (assumption 87). -/
def Obligations.TenantRequestsComplete : Prop := TenantsAndContexts ∧ WindowsOpen ∧ CheckpointRequests

namespace Sys2Proof.Claims

/-! ### Steps, words, reset, and rules of every instruction -/

/-- 02 R34, 03 R43, R56: on its turn a team that may issue runs the instruction that its clause's next words hold, decodes a clause when it
has none in issue, and traps with ILLEGAL, subcode RESERVED, where the words hold no well-formed instruction (assumption 73), if the deadline holds
them (assumption 11). -/
def TurnsIssue : Prop :=
  ∀ (s u : State) (n k : Nat) (rest : List Move), s.agenda = .issue n k :: rest → Placed n k { s with agenda := rest } u →
    u.ready = true → u.issues = true →
    (∀ (c : Clause) (i : Instr) (ws : List Word), u.team.cl = some c → decode (c.words.drop c.pos) = .ok (i, ws) →
      step s = tick (exec i { u with team := { u.team with wait := .run, park := false } })) ∧
    (u.team.cl = none → step s = tick (exec (.clauseDecode n k) u)) ∧
    (∀ (c : Clause) (r : Reject), u.team.cl = some c → decode (c.words.drop c.pos) = .error r →
      wordsOf (opcOf ((c.words.drop c.pos).headD 0)) ≤ u.team.dl →
      step s = tick (.next ({ u with team := { u.team with wait := .run, park := false } }.takeTrap 1 6 0xFFFFFFFF#32 0 c.va c.va
        (some (c.hdr, c.n)))))

/-- Other moves: what the agenda names runs, an instruction word never outside its team's turn; with an empty agenda some possible move
comes, and where none is possible only the number of the free values moves on. -/
def MovesRun : Prop :=
  (∀ (s : State) (i : Instr) (rest : List Move), s.agenda = .event i :: rest →
    (i.isWord = false → step s = tick (exec i { s with agenda := rest })) ∧
    (i.isWord = true → step s = .next { s with agenda := rest, ctr := s.ctr + 1 })) ∧
  ∀ s : State, s.agenda = [] → (s.moves = [] → step s = .next { s with ctr := s.ctr + 1 }) ∧
    (s.moves ≠ [] → ∃ m ∈ s.moves, step s = tick (act m s))

/-- The words that the spec writes out, and what they stand for. -/
def SpelledWords : List (List Word × Instr) :=
  [([0x1A000204#32], .callv { d := 0, a := 2, b := 4 }),
   ([0x43030102#32, 0x00002800#32], .vfma { d := 3, a := 1, b := 2, c := 0, fn := 0, mod := 0x2800 }),
   ([0x80030200#32, 0x0000000C#32], .vcvt { d := 3, a := 2, b := 0, c := 0, fn := 0, mod := 0x000C }),
   ([0xA0030201#32, 0x00000000#32], .ldl { d := 3, a := 2, b := 1, c := 0, fn := 0, mod := 0 }),
   ([0xA8080109#32, 0x00000000#32], .ldh { d := 8, a := 1, b := 9, c := 0, fn := 0, mod := 0 }),
   ([0xB90E1000#32, 0x00000000#32], .gatom { d := 14, a := 16, b := 0, c := 0, fn := 0, mod := 0 }),
   ([0xB4011415#32, 0x00000000#32], .hopen { d := 1, a := 20, b := 21, c := 0, fn := 0, mod := 0 }),
   ([0xB5010000#32], .hseal { d := 1, a := 0, b := 0 }),
   ([0xB0010604#32, 0x00000002#32], .cpyin { d := 1, a := 6, b := 4, c := 0, fn := 0, mod := 2 }),
   ([0xB10C0A00#32, 0x00000000#32], .cpyout { d := 12, a := 10, b := 0, c := 0, fn := 0, mod := 0 }),
   ([0xF0030000#32, 0x00000000#32], .yield_ { d := 3, a := 0, b := 0, imm := 0 }),
   ([0xC3100009#32, 0x0A000000#32], .mrd { d := 16, a := 0, b := 9, c := 10, fn := 0, mod := 0 }),
   ([0xC4000000#32], .mzero { d := 0, a := 0, b := 0 }),
   ([0xD5030102#32, 0x00010000#32], .rnd { d := 3, a := 1, b := 2, c := 0, fn := 1, mod := 0 })]

/-- Bytes that a history holds stay: a write is the newest entry and every older one is as before (08 R170). -/
def Kept (m m' : Space) (b a : Nat) : Prop :=
  (∀ x, look [] x m'.hist = if x = a then (m.get a, b) :: look [] a m.hist else look [] x m.hist) ∧ m'.lines = m.lines

end Sys2Proof.Claims

/-- 02 R34, 03 R43, R56: a step runs the instruction that the words at the team's program counter decode to. The agenda, and what a move
does that cannot happen, are the model's (assumptions 2 and 10); so is the trap of words that decode refuses at issue, which only a word entered
in the middle can be (assumption 73), and that the deadline comes before it (assumption 11). -/
def Obligations.StepRunsDecodedInstruction : Prop := TurnsIssue ∧ MovesRun

/-- The words that the spec spells decode to the instructions they are named for; words cut short, opcodes without an instruction and
fields out of range are refused (03 R41, R44 to R55). -/
def Obligations.SpelledWordsDecode : Prop :=
  (∀ p ∈ SpelledWords, decode p.1 = .ok (p.2, [])) ∧ decode [0x43030102#32] = .error .straddle ∧
    (∀ w : Word, fmtOf (opcOf w) = none → ∀ rest, decode (w :: rest) = .error .opcode) ∧ decode [0xC4000001#32] = .error .reserved

/-- 03 R44 to R47, R54: decoding the words of a well-formed instruction gives that instruction back, every field at every value, and
leaves the words after it. -/
def Obligations.DecodeOfEncode : Prop :=
  ∀ (i : Instr) (rest : List Word), i.isWord = true → i.wf = true → decode (encode i ++ rest) = .ok (i, rest)

/-- 03 R50: what scalar source codes and mask codes supply; larger codes are refused. A register that an outstanding result will write is not
covered: its reads are undefined (02 R35). -/
def Obligations.CodesSupplyValues : Prop :=
  ∀ (s : State) (c : Byte),
    (c.toNat < 128 → (∀ p ∈ s.team.pend, c.toNat ∉ p.sdst) → s.sval c = look 0 c.toNat s.team.s) ∧
    (128 ≤ c.toNat → c.toNat < 192 → (s.sval c).toInt = (c.toNat : Int) - 128) ∧
    (192 ≤ c.toNat → c.toNat < 208 → (s.sval c).toInt = (c.toNat : Int) - 208) ∧
    (s.sval 208 = 0x3F000000#32 ∧ s.sval 209 = 0xBF000000#32 ∧ s.sval 210 = 0x3F800000#32 ∧ s.sval 211 = 0xBF800000#32 ∧
      s.sval 212 = 0x40000000#32 ∧ s.sval 213 = 0xC0000000#32 ∧ s.sval 214 = 0x40800000#32 ∧ s.sval 215 = 0xC0800000#32) ∧
    (c.toNat < 16 → (∀ p ∈ s.team.pend, c.toNat ∉ p.mdst) → s.mval c = look 0 c.toNat s.team.m) ∧
    ((∀ p ∈ s.team.pend, 16 ∉ p.mdst) → s.mval 16 = s.team.exec) ∧
    (s.team.lanes ≤ 1024 → ∀ k, k < 1024 →
      ((s.mval 17).getLsbD k = true ↔ k < s.team.lanes) ∧
      ((s.mval 18).getLsbD k = true ↔ s.team.lanes ≤ k ∧ k < (s.team.lanes + 3) / 4 * 4)) ∧
    (216 ≤ c.toNat → ∀ d : Byte, (Instr.smov { d := d, a := c, b := 0 }).wf = false) ∧
    (19 ≤ c.toNat → ∀ d : Byte, (Instr.mmov { d := d, a := c, b := 0 }).wf = false)

/-- 03 R56, 09 R206: an instruction whose fields are out of range traps with ILLEGAL, subcode RESERVED, before it has any effect; one whose
words do not fit the deadline ends its team with DEADLINE before it has any effect, whatever its fields hold. That DEADLINE comes before
ILLEGAL is the model's reading (assumption 11). -/
def Obligations.IllegalAndDeadlineComeFirst : Prop :=
  ∀ (i : Instr) (c : Clause) (s : State), i.isWord = true → s.team.cl = some c →
    (words i ≤ s.team.dl → i.wf = false → exec i s = .next (s.takeTrap 1 6 0xFFFFFFFF#32 0 c.va c.va (some (c.hdr, c.n)))) ∧
    (s.team.dl < words i → exec i s = .next (s.endFault 16 0 c.va 0))

/-- 08 R170: the canonical form of a byte space is kept by every write; a byte reads what was last written there, every other byte is as
before, and the history of the byte grows by one entry. -/
def Obligations.ByteSpacesKeepForm : Prop :=
  ∀ (m : Space) (b a : Nat) (v : Byte) (vs : List Byte), m.wf = true →
    ((m.write b a v).wf = true ∧ Kept m (m.write b a v) b a ∧ (m.init a v).wf = true ∧ (m.writes b a vs).wf = true ∧ (m.inits a vs).wf = true) ∧
    (∀ x, (m.writes b a vs).get x = if a ≤ x ∧ x < a + vs.length then vs.getD (x - a) 0 else m.get x) ∧
    (∀ x, (m.inits a vs).get x = if a ≤ x ∧ x < a + vs.length then vs.getD (x - a) 0 else m.get x) ∧
    ∀ m' : Space, m'.wf = true → (∀ x, m'.get x = m.get x) → m'.cells = m.cells

/-- 25 R394, 24 R363: with its supplies off the module has no tenant and nothing outstanding; memory lists no byte. That the fuse tables mark
nothing and that the counters start at 0 are the model's choices (assumptions 6 to 8). The memory of this state has its canonical form. -/
def Obligations.ResetHoldsNothing : Prop :=
  State.reset.power = .off ∧ State.reset.ten.live = false ∧ State.reset.tens = [] ∧ State.reset.agenda = [] ∧ State.reset.out = [] ∧
    State.reset.cal = [] ∧ State.reset.ckpts = [] ∧ State.reset.clockMHz = 850 ∧ State.reset.moves = [] ∧
    (∀ a, State.reset.ten.main.get a = 0) ∧ State.reset.ten.main.wf = true ∧ State.reset.rollback ≤ State.reset.fwVersion

/-- 25 R397: from every state, a step leaves the fuse tables and the fused rollback counter as they are, and keeps the firmware in service at or
above that counter. That no step writes the fused counter is the model's reading (assumption 7). -/
def Obligations.RollbackIsNeverPassed : Prop :=
  ∀ s t : State, step s = .next t →
    t.rollback = s.rollback ∧ t.fuse = s.fuse ∧ (s.rollback ≤ s.fwVersion → t.rollback ≤ t.fwVersion)

/-- From every state the step answers a next state: no instruction, no event and no operand stops the module. That a move that cannot
happen leaves the state is the model's choice (assumption 10). -/
def Obligations.EveryStepGoesOn : Prop := ∀ s : State, Safety.Goes s
end

