-- ==== Sys2Proof/Laws/Exec.lean ====
section
/-! SUPPORT. What the arm of each instruction and step calls, so that a proof can go from `exec` to a meaning by one rewrite. -/

namespace Sys2Proof.Machine

theorem exec_nop (o : ROps) (s : State) : exec (.nop o) s = execNop o s := rfl
theorem exec_smov (o : ROps) (s : State) : exec (.smov o) s = execSmov o s := rfl
theorem exec_smovi (o : IOps) (s : State) : exec (.smovi o) s = execSmovi o s := rfl
theorem exec_sadd (o : ROps) (s : State) : exec (.sadd o) s = execSadd o s := rfl
theorem exec_ssub (o : ROps) (s : State) : exec (.ssub o) s = execSsub o s := rfl
theorem exec_smul (o : ROps) (s : State) : exec (.smul o) s = execSmul o s := rfl
theorem exec_smulh (o : ROps) (s : State) : exec (.smulh o) s = execSmulh o s := rfl
theorem exec_smulhu (o : ROps) (s : State) : exec (.smulhu o) s = execSmulhu o s := rfl
theorem exec_sand (o : ROps) (s : State) : exec (.sand o) s = execSand o s := rfl
theorem exec_sor (o : ROps) (s : State) : exec (.sor o) s = execSor o s := rfl
theorem exec_sxor (o : ROps) (s : State) : exec (.sxor o) s = execSxor o s := rfl
theorem exec_sshl (o : ROps) (s : State) : exec (.sshl o) s = execSshl o s := rfl
theorem exec_sshr (o : ROps) (s : State) : exec (.sshr o) s = execSshr o s := rfl
theorem exec_ssra (o : ROps) (s : State) : exec (.ssra o) s = execSsra o s := rfl
theorem exec_scmp (o : XOps) (s : State) : exec (.scmp o) s = execScmp o s := rfl
theorem exec_ssel (o : XOps) (s : State) : exec (.ssel o) s = execSsel o s := rfl
theorem exec_saddi (o : IOps) (s : State) : exec (.saddi o) s = execSaddi o s := rfl
theorem exec_sldk (o : ROps) (s : State) : exec (.sldk o) s = execSldk o s := rfl
theorem exec_sminS (o : XOps) (s : State) : exec (.sminS o) s = execSminS o s := rfl
theorem exec_sminU (o : XOps) (s : State) : exec (.sminU o) s = execSminU o s := rfl
theorem exec_smaxS (o : XOps) (s : State) : exec (.smaxS o) s = execSmaxS o s := rfl
theorem exec_smaxU (o : XOps) (s : State) : exec (.smaxU o) s = execSmaxU o s := rfl
theorem exec_sbit (o : XOps) (s : State) : exec (.sbit o) s = execSbit o s := rfl
theorem exec_srdsr (o : ROps) (s : State) : exec (.srdsr o) s = execSrdsr o s := rfl
theorem exec_swrsr (o : ROps) (s : State) : exec (.swrsr o) s = execSwrsr o s := rfl
theorem exec_brCond (o : IOps) (s : State) : exec (.brCond o) s = execBrCond o s := rfl
theorem exec_brz (o : IOps) (s : State) : exec (.brz o) s = execBrz o s := rfl
theorem exec_brnz (o : IOps) (s : State) : exec (.brnz o) s = execBrnz o s := rfl
theorem exec_call (o : IOps) (s : State) : exec (.call o) s = execCall o s := rfl
theorem exec_callv (o : ROps) (s : State) : exec (.callv o) s = execCallv o s := rfl
theorem exec_calls (o : ROps) (s : State) : exec (.calls o) s = execCalls o s := rfl
theorem exec_ret (o : ROps) (s : State) : exec (.ret o) s = execRet o s := rfl
theorem exec_jmps (o : ROps) (s : State) : exec (.jmps o) s = execJmps o s := rfl
theorem exec_endt (o : ROps) (s : State) : exec (.endt o) s = execEndt o s := rfl
theorem exec_waitc (o : ROps) (s : State) : exec (.waitc o) s = execWaitc o s := rfl
theorem exec_mand (o : ROps) (s : State) : exec (.mand o) s = execMand o s := rfl
theorem exec_mor (o : ROps) (s : State) : exec (.mor o) s = execMor o s := rfl
theorem exec_mxor (o : ROps) (s : State) : exec (.mxor o) s = execMxor o s := rfl
theorem exec_mandn (o : ROps) (s : State) : exec (.mandn o) s = execMandn o s := rfl
theorem exec_mnot (o : ROps) (s : State) : exec (.mnot o) s = execMnot o s := rfl
theorem exec_mmov (o : ROps) (s : State) : exec (.mmov o) s = execMmov o s := rfl
theorem exec_mseti (o : IOps) (s : State) : exec (.mseti o) s = execMseti o s := rfl
theorem exec_exenter (o : ROps) (s : State) : exec (.exenter o) s = execExenter o s := rfl
theorem exec_exset (o : ROps) (s : State) : exec (.exset o) s = execExset o s := rfl
theorem exec_mcnt (o : ROps) (s : State) : exec (.mcnt o) s = execMcnt o s := rfl
theorem exec_mfirst (o : ROps) (s : State) : exec (.mfirst o) s = execMfirst o s := rfl
theorem exec_mgetw (o : ROps) (s : State) : exec (.mgetw o) s = execMgetw o s := rfl
theorem exec_mputw (o : ROps) (s : State) : exec (.mputw o) s = execMputw o s := rfl
theorem exec_vtom (o : ROps) (s : State) : exec (.vtom o) s = execVtom o s := rfl
theorem exec_mtov (o : ROps) (s : State) : exec (.mtov o) s = execMtov o s := rfl
theorem exec_qswph (o : ROps) (s : State) : exec (.qswph o) s = execQswph o s := rfl
theorem exec_qswpv (o : ROps) (s : State) : exec (.qswpv o) s = execQswpv o s := rfl
theorem exec_qswpd (o : ROps) (s : State) : exec (.qswpd o) s = execQswpd o s := rfl
theorem exec_qbcst (o : ROps) (s : State) : exec (.qbcst o) s = execQbcst o s := rfl
theorem exec_qddx (o : ROps) (s : State) : exec (.qddx o) s = execQddx o s := rfl
theorem exec_qddy (o : ROps) (s : State) : exec (.qddy o) s = execQddy o s := rfl
theorem exec_qhelp (o : ROps) (s : State) : exec (.qhelp o) s = execQhelp o s := rfl
theorem exec_vfadd (o : XOps) (s : State) : exec (.vfadd o) s = execVfadd o s := rfl
theorem exec_vfsub (o : XOps) (s : State) : exec (.vfsub o) s = execVfsub o s := rfl
theorem exec_vfmul (o : XOps) (s : State) : exec (.vfmul o) s = execVfmul o s := rfl
theorem exec_vfma (o : XOps) (s : State) : exec (.vfma o) s = execVfma o s := rfl
theorem exec_vfmin (o : XOps) (s : State) : exec (.vfmin o) s = execVfmin o s := rfl
theorem exec_vfmax (o : XOps) (s : State) : exec (.vfmax o) s = execVfmax o s := rfl
theorem exec_vfdiv (o : XOps) (s : State) : exec (.vfdiv o) s = execVfdiv o s := rfl
theorem exec_vfsqrt (o : XOps) (s : State) : exec (.vfsqrt o) s = execVfsqrt o s := rfl
theorem exec_vfrcp (o : XOps) (s : State) : exec (.vfrcp o) s = execVfrcp o s := rfl
theorem exec_vfrsq (o : XOps) (s : State) : exec (.vfrsq o) s = execVfrsq o s := rfl
theorem exec_vfexp2 (o : XOps) (s : State) : exec (.vfexp2 o) s = execVfexp2 o s := rfl
theorem exec_vflog2 (o : XOps) (s : State) : exec (.vflog2 o) s = execVflog2 o s := rfl
theorem exec_vfsinpi (o : XOps) (s : State) : exec (.vfsinpi o) s = execVfsinpi o s := rfl
theorem exec_vfcospi (o : XOps) (s : State) : exec (.vfcospi o) s = execVfcospi o s := rfl
theorem exec_vfcmp (o : XOps) (s : State) : exec (.vfcmp o) s = execVfcmp o s := rfl
theorem exec_vfclass (o : XOps) (s : State) : exec (.vfclass o) s = execVfclass o s := rfl
theorem exec_vfrnd (o : XOps) (s : State) : exec (.vfrnd o) s = execVfrnd o s := rfl
theorem exec_vsel (o : XOps) (s : State) : exec (.vsel o) s = execVsel o s := rfl
theorem exec_vfldexp (o : XOps) (s : State) : exec (.vfldexp o) s = execVfldexp o s := rfl
theorem exec_vfadds (o : XOps) (s : State) : exec (.vfadds o) s = execVfadds o s := rfl
theorem exec_vfmuls (o : XOps) (s : State) : exec (.vfmuls o) s = execVfmuls o s := rfl
theorem exec_vfmas (o : XOps) (s : State) : exec (.vfmas o) s = execVfmas o s := rfl
theorem exec_vhadd (o : XOps) (s : State) : exec (.vhadd o) s = execVhadd o s := rfl
theorem exec_vhmul (o : XOps) (s : State) : exec (.vhmul o) s = execVhmul o s := rfl
theorem exec_vhfma (o : XOps) (s : State) : exec (.vhfma o) s = execVhfma o s := rfl
theorem exec_vhdot2 (o : XOps) (s : State) : exec (.vhdot2 o) s = execVhdot2 o s := rfl
theorem exec_vfdot4 (o : XOps) (s : State) : exec (.vfdot4 o) s = execVfdot4 o s := rfl
theorem exec_viadd (o : ROps) (s : State) : exec (.viadd o) s = execViadd o s := rfl
theorem exec_visub (o : ROps) (s : State) : exec (.visub o) s = execVisub o s := rfl
theorem exec_vimul (o : ROps) (s : State) : exec (.vimul o) s = execVimul o s := rfl
theorem exec_vimulh (o : XOps) (s : State) : exec (.vimulh o) s = execVimulh o s := rfl
theorem exec_vimad (o : XOps) (s : State) : exec (.vimad o) s = execVimad o s := rfl
theorem exec_vimin (o : XOps) (s : State) : exec (.vimin o) s = execVimin o s := rfl
theorem exec_vimax (o : XOps) (s : State) : exec (.vimax o) s = execVimax o s := rfl
theorem exec_vand (o : ROps) (s : State) : exec (.vand o) s = execVand o s := rfl
theorem exec_vor (o : ROps) (s : State) : exec (.vor o) s = execVor o s := rfl
theorem exec_vxor (o : ROps) (s : State) : exec (.vxor o) s = execVxor o s := rfl
theorem exec_vshl (o : ROps) (s : State) : exec (.vshl o) s = execVshl o s := rfl
theorem exec_vshr (o : ROps) (s : State) : exec (.vshr o) s = execVshr o s := rfl
theorem exec_vsra (o : ROps) (s : State) : exec (.vsra o) s = execVsra o s := rfl
theorem exec_vicmp (o : XOps) (s : State) : exec (.vicmp o) s = execVicmp o s := rfl
theorem exec_vbit (o : XOps) (s : State) : exec (.vbit o) s = execVbit o s := rfl
theorem exec_vbfe (o : XOps) (s : State) : exec (.vbfe o) s = execVbfe o s := rfl
theorem exec_vbfi (o : XOps) (s : State) : exec (.vbfi o) s = execVbfi o s := rfl
theorem exec_viadd64 (o : ROps) (s : State) : exec (.viadd64 o) s = execViadd64 o s := rfl
theorem exec_vidot4 (o : XOps) (s : State) : exec (.vidot4 o) s = execVidot4 o s := rfl
theorem exec_vidot8 (o : XOps) (s : State) : exec (.vidot8 o) s = execVidot8 o s := rfl
theorem exec_viadds (o : XOps) (s : State) : exec (.viadds o) s = execViadds o s := rfl
theorem exec_vmov (o : ROps) (s : State) : exec (.vmov o) s = execVmov o s := rfl
theorem exec_vmovs (o : ROps) (s : State) : exec (.vmovs o) s = execVmovs o s := rfl
theorem exec_vmovi (o : IOps) (s : State) : exec (.vmovi o) s = execVmovi o s := rfl
theorem exec_vlane (o : ROps) (s : State) : exec (.vlane o) s = execVlane o s := rfl
theorem exec_viaddi (o : IOps) (s : State) : exec (.viaddi o) s = execViaddi o s := rfl
theorem exec_vcvt (o : XOps) (s : State) : exec (.vcvt o) s = execVcvt o s := rfl
theorem exec_vcvtn (o : XOps) (s : State) : exec (.vcvtn o) s = execVcvtn o s := rfl
theorem exec_vcvtw (o : XOps) (s : State) : exec (.vcvtw o) s = execVcvtw o s := rfl
theorem exec_vpk16 (o : XOps) (s : State) : exec (.vpk16 o) s = execVpk16 o s := rfl
theorem exec_vblksc (o : XOps) (s : State) : exec (.vblksc o) s = execVblksc o s := rfl
theorem exec_vshfl (o : XOps) (s : State) : exec (.vshfl o) s = execVshfl o s := rfl
theorem exec_vbcst (o : XOps) (s : State) : exec (.vbcst o) s = execVbcst o s := rfl
theorem exec_vred (o : XOps) (s : State) : exec (.vred o) s = execVred o s := rfl
theorem exec_vredsp (o : XOps) (s : State) : exec (.vredsp o) s = execVredsp o s := rfl
theorem exec_vscan (o : XOps) (s : State) : exec (.vscan o) s = execVscan o s := rfl
theorem exec_had32 (o : XOps) (s : State) : exec (.had32 o) s = execHad32 o s := rfl
theorem exec_vpackl (o : XOps) (s : State) : exec (.vpackl o) s = execVpackl o s := rfl
theorem exec_ldl (o : XOps) (s : State) : exec (.ldl o) s = execLdl o s := rfl
theorem exec_stl (o : XOps) (s : State) : exec (.stl o) s = execStl o s := rfl
theorem exec_ldd (o : XOps) (s : State) : exec (.ldd o) s = execLdd o s := rfl
theorem exec_std (o : XOps) (s : State) : exec (.std o) s = execStd o s := rfl
theorem exec_atl (o : XOps) (s : State) : exec (.atl o) s = execAtl o s := rfl
theorem exec_atd (o : XOps) (s : State) : exec (.atd o) s = execAtd o s := rfl
theorem exec_atdR (o : XOps) (s : State) : exec (.atdR o) s = execAtdR o s := rfl
theorem exec_spill (o : XOps) (s : State) : exec (.spill o) s = execSpill o s := rfl
theorem exec_fill (o : XOps) (s : State) : exec (.fill o) s = execFill o s := rfl
theorem exec_ldh (o : XOps) (s : State) : exec (.ldh o) s = execLdh o s := rfl
theorem exec_sldl (o : ROps) (s : State) : exec (.sldl o) s = execSldl o s := rfl
theorem exec_sstl (o : ROps) (s : State) : exec (.sstl o) s = execSstl o s := rfl
theorem exec_cpyin (o : XOps) (s : State) : exec (.cpyin o) s = execCpyin o s := rfl
theorem exec_cpyout (o : XOps) (s : State) : exec (.cpyout o) s = execCpyout o s := rfl
theorem exec_cpyoutH (o : XOps) (s : State) : exec (.cpyoutH o) s = execCpyoutH o s := rfl
theorem exec_tcpyin (o : XOps) (s : State) : exec (.tcpyin o) s = execTcpyin o s := rfl
theorem exec_tcpyout (o : XOps) (s : State) : exec (.tcpyout o) s = execTcpyout o s := rfl
theorem exec_hopen (o : XOps) (s : State) : exec (.hopen o) s = execHopen o s := rfl
theorem exec_hseal (o : ROps) (s : State) : exec (.hseal o) s = execHseal o s := rfl
theorem exec_hfree (o : ROps) (s : State) : exec (.hfree o) s = execHfree o s := rfl
theorem exec_hwaitFull (o : ROps) (s : State) : exec (.hwaitFull o) s = execHwaitFull o s := rfl
theorem exec_hwaitIdle (o : ROps) (s : State) : exec (.hwaitIdle o) s = execHwaitIdle o s := rfl
theorem exec_hstat (o : ROps) (s : State) : exec (.hstat o) s = execHstat o s := rfl
theorem exec_gatom (o : XOps) (s : State) : exec (.gatom o) s = execGatom o s := rfl
theorem exec_gatomr (o : XOps) (s : State) : exec (.gatomr o) s = execGatomr o s := rfl
theorem exec_evpop (o : ROps) (s : State) : exec (.evpop o) s = execEvpop o s := rfl
theorem exec_mldb (o : XOps) (s : State) : exec (.mldb o) s = execMldb o s := rfl
theorem exec_mma (o : XOps) (s : State) : exec (.mma o) s = execMma o s := rfl
theorem exec_moutl (o : XOps) (s : State) : exec (.moutl o) s = execMoutl o s := rfl
theorem exec_mrd (o : XOps) (s : State) : exec (.mrd o) s = execMrd o s := rfl
theorem exec_mzero (o : ROps) (s : State) : exec (.mzero o) s = execMzero o s := rfl
theorem exec_mfence (o : ROps) (s : State) : exec (.mfence o) s = execMfence o s := rfl
theorem exec_xldb (o : XOps) (s : State) : exec (.xldb o) s = execXldb o s := rfl
theorem exec_xcmp (o : XOps) (s : State) : exec (.xcmp o) s = execXcmp o s := rfl
theorem exec_xrow (o : XOps) (s : State) : exec (.xrow o) s = execXrow o s := rfl
theorem exec_xcol (o : XOps) (s : State) : exec (.xcol o) s = execXcol o s := rfl
theorem exec_xclos (o : XOps) (s : State) : exec (.xclos o) s = execXclos o s := rfl
theorem exec_xcomp (o : ROps) (s : State) : exec (.xcomp o) s = execXcomp o s := rfl
theorem exec_xtrn (o : ROps) (s : State) : exec (.xtrn o) s = execXtrn o s := rfl
theorem exec_xlog (o : XOps) (s : State) : exec (.xlog o) s = execXlog o s := rfl
theorem exec_xmov (o : XOps) (s : State) : exec (.xmov o) s = execXmov o s := rfl
theorem exec_xset (o : XOps) (s : State) : exec (.xset o) s = execXset o s := rfl
theorem exec_tex (o : XOps) (s : State) : exec (.tex o) s = execTex o s := rfl
theorem exec_texld (o : XOps) (s : State) : exec (.texld o) s = execTexld o s := rfl
theorem exec_hgf (o : XOps) (s : State) : exec (.hgf o) s = execHgf o s := rfl
theorem exec_hgs (o : XOps) (s : State) : exec (.hgs o) s = execHgs o s := rfl
theorem exec_trace (o : XOps) (s : State) : exec (.trace o) s = execTrace o s := rfl
theorem exec_rnd (o : XOps) (s : State) : exec (.rnd o) s = execRnd o s := rfl
theorem exec_tres (o : XOps) (s : State) : exec (.tres o) s = execTres o s := rfl
theorem exec_tview (o : XOps) (s : State) : exec (.tview o) s = execTview o s := rfl
theorem exec_tqnew (o : XOps) (s : State) : exec (.tqnew o) s = execTqnew o s := rfl
theorem exec_tqdel (o : XOps) (s : State) : exec (.tqdel o) s = execTqdel o s := rfl
theorem exec_tqadd (o : XOps) (s : State) : exec (.tqadd o) s = execTqadd o s := rfl
theorem exec_tqrem (o : XOps) (s : State) : exec (.tqrem o) s = execTqrem o s := rfl
theorem exec_binpush (o : XOps) (s : State) : exec (.binpush o) s = execBinpush o s := rfl
theorem exec_binflush (o : ROps) (s : State) : exec (.binflush o) s = execBinflush o s := rfl
theorem exec_launch (o : XOps) (s : State) : exec (.launch o) s = execLaunch o s := rfl
theorem exec_yield (o : IOps) (s : State) : exec (.yield_ o) s = execYield o s := rfl
theorem exec_bar (o : ROps) (s : State) : exec (.bar o) s = execBar o s := rfl
theorem exec_sysc (o : XOps) (s : State) : exec (.sysc o) s = execSysc o s := rfl
theorem exec_trap (o : ROps) (s : State) : exec (.trap o) s = execTrap o s := rfl
theorem exec_ldovt (o : ROps) (s : State) : exec (.ldovt o) s = execLdovt o s := rfl
theorem exec_sleep (o : ROps) (s : State) : exec (.sleep o) s = execSleep o s := rfl
theorem exec_brk (o : ROps) (s : State) : exec (.brk o) s = execBrk o s := rfl
theorem exec_prd (o : ROps) (s : State) : exec (.prd o) s = execPrd o s := rfl
theorem exec_pwr (o : ROps) (s : State) : exec (.pwr o) s = execPwr o s := rfl
theorem exec_eret (o : ROps) (s : State) : exec (.eret o) s = execEret o s := rfl
theorem exec_clauseDecode (t k : Nat) (s : State) : exec (.clauseDecode t k) s = execClauseDecode t k s := rfl
theorem exec_deadline (t k : Nat) (s : State) : exec (.deadline t k) s = execDeadline t k s := rfl
theorem exec_loadDataArrival (t k i : Nat) (s : State) : exec (.loadDataArrival t k i) s = execLoadDataArrival t k i s := rfl
theorem exec_atomicOldValueArrival (t k i : Nat) (s : State) : exec (.atomicOldValueArrival t k i) s = execAtomicOldValueArrival t k i s := rfl
theorem exec_copySectorArrival (t i : Nat) (s : State) : exec (.copySectorArrival t i) s = execCopySectorArrival t i s := rfl
theorem exec_drainComplete (t b i : Nat) (s : State) : exec (.drainComplete t b i) s = execDrainComplete t b i s := rfl
theorem exec_complete (t b : Nat) (s : State) : exec (.complete t b) s = execComplete t b s := rfl
theorem exec_perform (t k i : Nat) (s : State) : exec (.perform t k i) s = execPerform t k i s := rfl
theorem exec_eventRecordPost (t b e : Nat) (s : State) : exec (.eventRecordPost t b e) s = execEventRecordPost t b e s := rfl
theorem exec_matrixOpStart (t m : Nat) (s : State) : exec (.matrixOpStart t m) s = execMatrixOpStart t m s := rfl
theorem exec_matrixOpComplete (t m mism : Nat) (s : State) : exec (.matrixOpComplete t m mism) s = execMatrixOpComplete t m mism s := rfl
theorem exec_engineReply (t k i : Nat) (s : State) : exec (.engineReply t k i) s = execEngineReply t k i s := rfl
theorem exec_tableReply (t k i : Nat) (s : State) : exec (.tableReply t k i) s = execTableReply t k i s := rfl
theorem exec_barRelease (t b : Nat) (s : State) : exec (.barRelease t b) s = execBarRelease t b s := rfl
theorem exec_syscDeliver (t k : Nat) (s : State) : exec (.syscDeliver t k) s = execSyscDeliver t k s := rfl
theorem exec_syscReply (t k : Nat) (s : State) : exec (.syscReply t k) s = execSyscReply t k s := rfl
theorem exec_sleepExpiry (t k : Nat) (s : State) : exec (.sleepExpiry t k) s = execSleepExpiry t k s := rfl
theorem exec_launchRelease (t l : Nat) (s : State) : exec (.launchRelease t l) s = execLaunchRelease t l s := rfl
theorem exec_blockPlace (t l c : Nat) (s : State) : exec (.blockPlace t l c) s = execBlockPlace t l c s := rfl
theorem exec_launchRetire (t l : Nat) (s : State) : exec (.launchRetire t l) s = execLaunchRetire t l s := rfl
theorem exec_binAgeExpiry (t die bin : Nat) (s : State) : exec (.binAgeExpiry t die bin) s = execBinAgeExpiry t die bin s := rfl
theorem exec_worldSync (t l : Nat) (s : State) : exec (.worldSync t l) s = execWorldSync t l s := rfl
theorem exec_quantumExpiry (t p : Nat) (stall : Bool) (s : State) : exec (.quantumExpiry t p stall) s = execQuantumExpiry t p stall s := rfl
theorem exec_contextRestore (t b c : Nat) (s : State) : exec (.contextRestore t b c) s = execContextRestore t b c s := rfl
theorem exec_saveMapTimeout (t p : Nat) (va : DWord) (s : State) : exec (.saveMapTimeout t p va) s = execSaveMapTimeout t p va s := rfl
theorem exec_pagerRestart (t k : Nat) (s : State) : exec (.pagerRestart t k) s = execPagerRestart t k s := rfl
theorem exec_framesTimeout (t k : Nat) (s : State) : exec (.framesTimeout t k) s = execFramesTimeout t k s := rfl
theorem exec_invalidate (t va len : Nat) (s : State) : exec (.invalidate t va len) s = execInvalidate t va len s := rfl
theorem exec_ready (t g rank : Nat) (s : State) : exec (.ready t g rank) s = execReady t g rank s := rfl
theorem exec_commit (t g : Nat) (s : State) : exec (.commit t g) s = execCommit t g s := rfl
theorem exec_abort (t g rank : Nat) (s : State) : exec (.abort t g rank) s = execAbort t g rank s := rfl
theorem exec_gangTimeout (t g : Nat) (s : State) : exec (.gangTimeout t g) s = execGangTimeout t g s := rfl
theorem exec_gangDecisionQuery (t g rank : Nat) (reached : Bool) (s : State) : exec (.gangDecisionQuery t g rank reached) s = execGangDecisionQuery t g rank reached s := rfl
theorem exec_rdmaWrite (q : PeerOp) (s : State) : exec (.rdmaWrite q) s = execRdmaWrite q s := rfl
theorem exec_rdmaRead (q : PeerOp) (s : State) : exec (.rdmaRead q) s = execRdmaRead q s := rfl
theorem exec_fetchAdd (q : PeerOp) (s : State) : exec (.fetchAdd q) s = execFetchAdd q s := rfl
theorem exec_compareSwap (q : PeerOp) (s : State) : exec (.compareSwap q) s = execCompareSwap q s := rfl
theorem exec_peerUnsupportedOp (q : PeerOp) (s : State) : exec (.peerUnsupportedOp q) s = execPeerUnsupportedOp q s := rfl
theorem exec_peerAck (t b p : Nat) (s : State) : exec (.peerAck t b p) s = execPeerAck t b p s := rfl
theorem exec_peerfail (t b p : Nat) (s : State) : exec (.peerfail t b p) s = execPeerfail t b p s := rfl
theorem exec_migratePagePush (t : Nat) (s : State) : exec (.migratePagePush t) s = execMigratePagePush t s := rfl
theorem exec_migrateEnd (t : Nat) (s : State) : exec (.migrateEnd t) s = execMigrateEnd t s := rfl
theorem exec_checkpointFreeze (t : Nat) (s : State) : exec (.checkpointFreeze t) s = execCheckpointFreeze t s := rfl
theorem exec_checkpointComplete (t : Nat) (durable : Bool) (s : State) : exec (.checkpointComplete t durable) s = execCheckpointComplete t durable s := rfl
theorem exec_eccError (u : HwUnit) (corrected : Bool) (s : State) : exec (.eccError u corrected) s = execEccError u corrected s := rfl
theorem exec_selfTest (u : HwUnit) (pass : Bool) (s : State) : exec (.selfTest u pass) s = execSelfTest u pass s := rfl
theorem exec_linkCrcRetry (port : Nat) (repaired : Bool) (s : State) : exec (.linkCrcRetry port repaired) s = execLinkCrcRetry port repaired s := rfl
theorem exec_hbmRetrain (ch : Nat) (s : State) : exec (.hbmRetrain ch) s = execHbmRetrain ch s := rfl
theorem exec_droopStretch (t c n : Nat) (s : State) : exec (.droopStretch t c n) s = execDroopStretch t c n s := rfl
theorem exec_thermalThrottle (celsius : Nat) (s : State) : exec (.thermalThrottle celsius) s = execThermalThrottle celsius s := rfl
theorem exec_thermalShutdown (celsius : Nat) (s : State) : exec (.thermalShutdown celsius) s = execThermalShutdown celsius s := rfl
theorem exec_bringUp (failed : List HwUnit) (w : FwImage) (s : State) : exec (.bringUp failed w) s = execBringUp failed w s := rfl
theorem exec_powerLoss (s : State) : exec (.powerLoss) s = execPowerLoss s := rfl
theorem exec_firmwareImageCheck (w : FwImage) (s : State) : exec (.firmwareImageCheck w) s = execFirmwareImageCheck w s := rfl
theorem exec_load (q : Datagram) (s : State) : exec (.load q) s = execLoad q s := rfl
theorem exec_alloc (q : Datagram) (s : State) : exec (.alloc q) s = execAlloc q s := rfl
theorem exec_free (q : Datagram) (s : State) : exec (.free q) s = execFree q s := rfl
theorem exec_read (q : Datagram) (s : State) : exec (.read q) s = execRead q s := rfl
theorem exec_write (q : Datagram) (s : State) : exec (.write q) s = execWrite q s := rfl
theorem exec_rpcLaunch (q : Datagram) (s : State) : exec (.rpcLaunch q) s = execRpcLaunch q s := rfl
theorem exec_wait (q : Datagram) (s : State) : exec (.wait q) s = execWait q s := rfl
theorem exec_waitTimeout (t i : Nat) (s : State) : exec (.waitTimeout t i) s = execWaitTimeout t i s := rfl
theorem exec_sync (q : Datagram) (s : State) : exec (.sync q) s = execSync q s := rfl
theorem exec_registerWorld (q : Datagram) (s : State) : exec (.registerWorld q) s = execRegisterWorld q s := rfl
theorem exec_registerQuery (q : Datagram) (s : State) : exec (.registerQuery q) s = execRegisterQuery q s := rfl
theorem exec_registerBin (q : Datagram) (s : State) : exec (.registerBin q) s = execRegisterBin q s := rfl
theorem exec_registerTexture (q : Datagram) (s : State) : exec (.registerTexture q) s = execRegisterTexture q s := rfl
theorem exec_checkpointTake (q : Datagram) (s : State) : exec (.checkpointTake q) s = execCheckpointTake q s := rfl
theorem exec_checkpointRestore (q : Datagram) (s : State) : exec (.checkpointRestore q) s = execCheckpointRestore q s := rfl
theorem exec_checkpointList (q : Datagram) (s : State) : exec (.checkpointList q) s = execCheckpointList q s := rfl
theorem exec_migrate (q : Datagram) (s : State) : exec (.migrate q) s = execMigrate q s := rfl
theorem exec_attest (q : Datagram) (s : State) : exec (.attest q) s = execAttest q s := rfl
theorem exec_status (q : Datagram) (s : State) : exec (.status q) s = execStatus q s := rfl
theorem exec_events (q : Datagram) (s : State) : exec (.events q) s = execEvents q s := rfl
theorem exec_log (q : Datagram) (s : State) : exec (.log q) s = execLog q s := rfl
theorem exec_config (q : Datagram) (s : State) : exec (.config q) s = execConfig q s := rfl
theorem exec_windowCreate (q : Datagram) (s : State) : exec (.windowCreate q) s = execWindowCreate q s := rfl
theorem exec_windowRemove (q : Datagram) (s : State) : exec (.windowRemove q) s = execWindowRemove q s := rfl
theorem exec_peermap (q : Datagram) (s : State) : exec (.peermap q) s = execPeermap q s := rfl
theorem exec_tenantCreate (q : Datagram) (s : State) : exec (.tenantCreate q) s = execTenantCreate q s := rfl
theorem exec_tenantRemove (q : Datagram) (s : State) : exec (.tenantRemove q) s = execTenantRemove q s := rfl
theorem exec_contextCreate (q : Datagram) (s : State) : exec (.contextCreate q) s = execContextCreate q s := rfl
theorem exec_contextDestroy (q : Datagram) (s : State) : exec (.contextDestroy q) s = execContextDestroy q s := rfl
theorem exec_pageArrival (t va : Nat) (s : State) : exec (.pageArrival t va) s = execPageArrival t va s := rfl
theorem exec_unassignedMethod (q : Datagram) (s : State) : exec (.unassignedMethod q) s = execUnassignedMethod q s := rfl
theorem exec_precisionTimeProtocol (slew : Int) (s : State) : exec (.precisionTimeProtocol slew) s = execPrecisionTimeProtocol slew s := rfl
theorem exec_gangDecisionExpiry (t g : Nat) (s : State) : exec (.gangDecisionExpiry t g) s = execGangDecisionExpiry t g s := rfl

end Sys2Proof.Machine
end

