-- ==== Sys2Proof/Laws/State.lean ====
section
/-!
SUPPORT. What the named updates of the state leave alone: one lemma per field and update, each true by computation.
-/
namespace Sys2Proof.Machine

/-- Looking a page up changes the core's first-level TLB and the second-level TLB of its pane, nothing else. -/
theorem State.touchPage_eq (s : State) (p : Page) : ∃ c ps, s.touchPage p = { s with core := c, ten := { s.ten with panes := ps } } := by
  by_cases h : (look [] (s.blk.tlbBase + p.va / p.size % s.blk.tlbN) s.core.tlb).contains (s.blk.ctx, p.va) = true
  · exact ⟨_, s.ten.panes, by simp only [State.touchPage, h, if_true]; rfl⟩
  · exact ⟨_, _, by simp only [State.touchPage, h]; rfl⟩
theorem State.touchAll_eq (s : State) (ps : List Page) :
    ∃ c qs, ps.foldl State.touchPage s = { s with core := c, ten := { s.ten with panes := qs } } := by
  induction ps generalizing s with
  | nil => exact ⟨s.core, s.ten.panes, rfl⟩
  | cons p ps ih =>
    obtain ⟨c, q, h⟩ := s.touchPage_eq p
    obtain ⟨c', q', h'⟩ := ih (s.touchPage p)
    exact ⟨c', q', by rw [List.foldl_cons, h', h]⟩
theorem State.touchPages_eq (s : State) (l : List Nat) : ∃ c ps, s.touchPages l = { s with core := c, ten := { s.ten with panes := ps } } := by
  obtain ⟨c, q, h⟩ := State.touchAll_eq { s with core := s.core.count 3 (s.ten.uncached l) }
    (((s.ten.pageVAs l).filterMap s.ten.pageAt).filter fun p => p.st.resident)
  exact ⟨c, q, h⟩

/-! `State.onTeam` -/
@[simp] theorem State.onTeam_power (s : State) (f : Team → Team) : (s.onTeam f).power = s.power := rfl
@[simp] theorem State.onTeam_fuse (s : State) (f : Team → Team) : (s.onTeam f).fuse = s.fuse := rfl
@[simp] theorem State.onTeam_fwTab (s : State) (f : Team → Team) : (s.onTeam f).fwTab = s.fwTab := rfl
@[simp] theorem State.onTeam_clockMHz (s : State) (f : Team → Team) : (s.onTeam f).clockMHz = s.clockMHz := rfl
@[simp] theorem State.onTeam_clk (s : State) (f : Team → Team) : (s.onTeam f).clk = s.clk := rfl
@[simp] theorem State.onTeam_timeNs (s : State) (f : Team → Team) : (s.onTeam f).timeNs = s.timeNs := rfl
@[simp] theorem State.onTeam_slew (s : State) (f : Team → Team) : (s.onTeam f).slew = s.slew := rfl
@[simp] theorem State.onTeam_cal (s : State) (f : Team → Team) : (s.onTeam f).cal = s.cal := rfl
@[simp] theorem State.onTeam_fwVersion (s : State) (f : Team → Team) : (s.onTeam f).fwVersion = s.fwVersion := rfl
@[simp] theorem State.onTeam_rollback (s : State) (f : Team → Team) : (s.onTeam f).rollback = s.rollback := rfl
@[simp] theorem State.onTeam_fwDigests (s : State) (f : Team → Team) : (s.onTeam f).fwDigests = s.fwDigests := rfl
@[simp] theorem State.onTeam_ckpts (s : State) (f : Team → Team) : (s.onTeam f).ckpts = s.ckpts := rfl
@[simp] theorem State.onTeam_buddies (s : State) (f : Team → Team) : (s.onTeam f).buddies = s.buddies := rfl
@[simp] theorem State.onTeam_hosted (s : State) (f : Team → Team) : (s.onTeam f).hosted = s.hosted := rfl
@[simp] theorem State.onTeam_errors (s : State) (f : Team → Team) : (s.onTeam f).errors = s.errors := rfl
@[simp] theorem State.onTeam_once (s : State) (f : Team → Team) : (s.onTeam f).once = s.once := rfl
@[simp] theorem State.onTeam_hwLog (s : State) (f : Team → Team) : (s.onTeam f).hwLog = s.hwLog := rfl
@[simp] theorem State.onTeam_tens (s : State) (f : Team → Team) : (s.onTeam f).tens = s.tens := rfl
@[simp] theorem State.onTeam_ten (s : State) (f : Team → Team) : (s.onTeam f).ten = s.ten := rfl
@[simp] theorem State.onTeam_core (s : State) (f : Team → Team) : (s.onTeam f).core = s.core := rfl
@[simp] theorem State.onTeam_blk (s : State) (f : Team → Team) : (s.onTeam f).blk = s.blk := rfl
@[simp] theorem State.onTeam_team (s : State) (f : Team → Team) : (s.onTeam f).team = f s.team := rfl
@[simp] theorem State.onTeam_ctr (s : State) (f : Team → Team) : (s.onTeam f).ctr = s.ctr := rfl
@[simp] theorem State.onTeam_agenda (s : State) (f : Team → Team) : (s.onTeam f).agenda = s.agenda := rfl
@[simp] theorem State.onTeam_out (s : State) (f : Team → Team) : (s.onTeam f).out = s.out := rfl

/-! `State.onTen` -/
@[simp] theorem State.onTen_power (s : State) (f : Tenant → Tenant) : (s.onTen f).power = s.power := rfl
@[simp] theorem State.onTen_fuse (s : State) (f : Tenant → Tenant) : (s.onTen f).fuse = s.fuse := rfl
@[simp] theorem State.onTen_fwTab (s : State) (f : Tenant → Tenant) : (s.onTen f).fwTab = s.fwTab := rfl
@[simp] theorem State.onTen_clockMHz (s : State) (f : Tenant → Tenant) : (s.onTen f).clockMHz = s.clockMHz := rfl
@[simp] theorem State.onTen_clk (s : State) (f : Tenant → Tenant) : (s.onTen f).clk = s.clk := rfl
@[simp] theorem State.onTen_timeNs (s : State) (f : Tenant → Tenant) : (s.onTen f).timeNs = s.timeNs := rfl
@[simp] theorem State.onTen_slew (s : State) (f : Tenant → Tenant) : (s.onTen f).slew = s.slew := rfl
@[simp] theorem State.onTen_cal (s : State) (f : Tenant → Tenant) : (s.onTen f).cal = s.cal := rfl
@[simp] theorem State.onTen_fwVersion (s : State) (f : Tenant → Tenant) : (s.onTen f).fwVersion = s.fwVersion := rfl
@[simp] theorem State.onTen_rollback (s : State) (f : Tenant → Tenant) : (s.onTen f).rollback = s.rollback := rfl
@[simp] theorem State.onTen_fwDigests (s : State) (f : Tenant → Tenant) : (s.onTen f).fwDigests = s.fwDigests := rfl
@[simp] theorem State.onTen_ckpts (s : State) (f : Tenant → Tenant) : (s.onTen f).ckpts = s.ckpts := rfl
@[simp] theorem State.onTen_buddies (s : State) (f : Tenant → Tenant) : (s.onTen f).buddies = s.buddies := rfl
@[simp] theorem State.onTen_hosted (s : State) (f : Tenant → Tenant) : (s.onTen f).hosted = s.hosted := rfl
@[simp] theorem State.onTen_errors (s : State) (f : Tenant → Tenant) : (s.onTen f).errors = s.errors := rfl
@[simp] theorem State.onTen_once (s : State) (f : Tenant → Tenant) : (s.onTen f).once = s.once := rfl
@[simp] theorem State.onTen_hwLog (s : State) (f : Tenant → Tenant) : (s.onTen f).hwLog = s.hwLog := rfl
@[simp] theorem State.onTen_tens (s : State) (f : Tenant → Tenant) : (s.onTen f).tens = s.tens := rfl
@[simp] theorem State.onTen_ten (s : State) (f : Tenant → Tenant) : (s.onTen f).ten = f s.ten := rfl
@[simp] theorem State.onTen_core (s : State) (f : Tenant → Tenant) : (s.onTen f).core = s.core := rfl
@[simp] theorem State.onTen_blk (s : State) (f : Tenant → Tenant) : (s.onTen f).blk = s.blk := rfl
@[simp] theorem State.onTen_team (s : State) (f : Tenant → Tenant) : (s.onTen f).team = s.team := rfl
@[simp] theorem State.onTen_ctr (s : State) (f : Tenant → Tenant) : (s.onTen f).ctr = s.ctr := rfl
@[simp] theorem State.onTen_agenda (s : State) (f : Tenant → Tenant) : (s.onTen f).agenda = s.agenda := rfl
@[simp] theorem State.onTen_out (s : State) (f : Tenant → Tenant) : (s.onTen f).out = s.out := rfl

/-! `State.count` -/
@[simp] theorem State.count_power (s : State) (ev n : Nat) : (s.count ev n).power = s.power := rfl
@[simp] theorem State.count_fuse (s : State) (ev n : Nat) : (s.count ev n).fuse = s.fuse := rfl
@[simp] theorem State.count_fwTab (s : State) (ev n : Nat) : (s.count ev n).fwTab = s.fwTab := rfl
@[simp] theorem State.count_clockMHz (s : State) (ev n : Nat) : (s.count ev n).clockMHz = s.clockMHz := rfl
@[simp] theorem State.count_clk (s : State) (ev n : Nat) : (s.count ev n).clk = s.clk := rfl
@[simp] theorem State.count_timeNs (s : State) (ev n : Nat) : (s.count ev n).timeNs = s.timeNs := rfl
@[simp] theorem State.count_slew (s : State) (ev n : Nat) : (s.count ev n).slew = s.slew := rfl
@[simp] theorem State.count_cal (s : State) (ev n : Nat) : (s.count ev n).cal = s.cal := rfl
@[simp] theorem State.count_fwVersion (s : State) (ev n : Nat) : (s.count ev n).fwVersion = s.fwVersion := rfl
@[simp] theorem State.count_rollback (s : State) (ev n : Nat) : (s.count ev n).rollback = s.rollback := rfl
@[simp] theorem State.count_fwDigests (s : State) (ev n : Nat) : (s.count ev n).fwDigests = s.fwDigests := rfl
@[simp] theorem State.count_ckpts (s : State) (ev n : Nat) : (s.count ev n).ckpts = s.ckpts := rfl
@[simp] theorem State.count_buddies (s : State) (ev n : Nat) : (s.count ev n).buddies = s.buddies := rfl
@[simp] theorem State.count_hosted (s : State) (ev n : Nat) : (s.count ev n).hosted = s.hosted := rfl
@[simp] theorem State.count_errors (s : State) (ev n : Nat) : (s.count ev n).errors = s.errors := rfl
@[simp] theorem State.count_once (s : State) (ev n : Nat) : (s.count ev n).once = s.once := rfl
@[simp] theorem State.count_hwLog (s : State) (ev n : Nat) : (s.count ev n).hwLog = s.hwLog := rfl
@[simp] theorem State.count_tens (s : State) (ev n : Nat) : (s.count ev n).tens = s.tens := rfl
@[simp] theorem State.count_ten (s : State) (ev n : Nat) : (s.count ev n).ten = s.ten := rfl
@[simp] theorem State.count_core (s : State) (ev n : Nat) : (s.count ev n).core = s.core.count ev n := rfl
@[simp] theorem State.count_blk (s : State) (ev n : Nat) : (s.count ev n).blk = s.blk := rfl
@[simp] theorem State.count_team (s : State) (ev n : Nat) : (s.count ev n).team = s.team := rfl
@[simp] theorem State.count_ctr (s : State) (ev n : Nat) : (s.count ev n).ctr = s.ctr := rfl
@[simp] theorem State.count_agenda (s : State) (ev n : Nat) : (s.count ev n).agenda = s.agenda := rfl
@[simp] theorem State.count_out (s : State) (ev n : Nat) : (s.count ev n).out = s.out := rfl

/-! `State.setS` -/
@[simp] theorem State.setS_power (s : State) (k : Nat) (x : Word) : (s.setS k x).power = s.power := rfl
@[simp] theorem State.setS_fuse (s : State) (k : Nat) (x : Word) : (s.setS k x).fuse = s.fuse := rfl
@[simp] theorem State.setS_fwTab (s : State) (k : Nat) (x : Word) : (s.setS k x).fwTab = s.fwTab := rfl
@[simp] theorem State.setS_clockMHz (s : State) (k : Nat) (x : Word) : (s.setS k x).clockMHz = s.clockMHz := rfl
@[simp] theorem State.setS_clk (s : State) (k : Nat) (x : Word) : (s.setS k x).clk = s.clk := rfl
@[simp] theorem State.setS_timeNs (s : State) (k : Nat) (x : Word) : (s.setS k x).timeNs = s.timeNs := rfl
@[simp] theorem State.setS_slew (s : State) (k : Nat) (x : Word) : (s.setS k x).slew = s.slew := rfl
@[simp] theorem State.setS_cal (s : State) (k : Nat) (x : Word) : (s.setS k x).cal = s.cal := rfl
@[simp] theorem State.setS_fwVersion (s : State) (k : Nat) (x : Word) : (s.setS k x).fwVersion = s.fwVersion := rfl
@[simp] theorem State.setS_rollback (s : State) (k : Nat) (x : Word) : (s.setS k x).rollback = s.rollback := rfl
@[simp] theorem State.setS_fwDigests (s : State) (k : Nat) (x : Word) : (s.setS k x).fwDigests = s.fwDigests := rfl
@[simp] theorem State.setS_ckpts (s : State) (k : Nat) (x : Word) : (s.setS k x).ckpts = s.ckpts := rfl
@[simp] theorem State.setS_buddies (s : State) (k : Nat) (x : Word) : (s.setS k x).buddies = s.buddies := rfl
@[simp] theorem State.setS_hosted (s : State) (k : Nat) (x : Word) : (s.setS k x).hosted = s.hosted := rfl
@[simp] theorem State.setS_errors (s : State) (k : Nat) (x : Word) : (s.setS k x).errors = s.errors := rfl
@[simp] theorem State.setS_once (s : State) (k : Nat) (x : Word) : (s.setS k x).once = s.once := rfl
@[simp] theorem State.setS_hwLog (s : State) (k : Nat) (x : Word) : (s.setS k x).hwLog = s.hwLog := rfl
@[simp] theorem State.setS_tens (s : State) (k : Nat) (x : Word) : (s.setS k x).tens = s.tens := rfl
@[simp] theorem State.setS_ten (s : State) (k : Nat) (x : Word) : (s.setS k x).ten = s.ten := rfl
@[simp] theorem State.setS_core (s : State) (k : Nat) (x : Word) : (s.setS k x).core = s.core := rfl
@[simp] theorem State.setS_blk (s : State) (k : Nat) (x : Word) : (s.setS k x).blk = s.blk := rfl
@[simp] theorem State.setS_team (s : State) (k : Nat) (x : Word) : (s.setS k x).team = s.team.setS k x := rfl
@[simp] theorem State.setS_ctr (s : State) (k : Nat) (x : Word) : (s.setS k x).ctr = s.ctr := rfl
@[simp] theorem State.setS_agenda (s : State) (k : Nat) (x : Word) : (s.setS k x).agenda = s.agenda := rfl
@[simp] theorem State.setS_out (s : State) (k : Nat) (x : Word) : (s.setS k x).out = s.out := rfl

/-! `State.setM` -/
@[simp] theorem State.setM_power (s : State) (k : Nat) (x : Mask) : (s.setM k x).power = s.power := rfl
@[simp] theorem State.setM_fuse (s : State) (k : Nat) (x : Mask) : (s.setM k x).fuse = s.fuse := rfl
@[simp] theorem State.setM_fwTab (s : State) (k : Nat) (x : Mask) : (s.setM k x).fwTab = s.fwTab := rfl
@[simp] theorem State.setM_clockMHz (s : State) (k : Nat) (x : Mask) : (s.setM k x).clockMHz = s.clockMHz := rfl
@[simp] theorem State.setM_clk (s : State) (k : Nat) (x : Mask) : (s.setM k x).clk = s.clk := rfl
@[simp] theorem State.setM_timeNs (s : State) (k : Nat) (x : Mask) : (s.setM k x).timeNs = s.timeNs := rfl
@[simp] theorem State.setM_slew (s : State) (k : Nat) (x : Mask) : (s.setM k x).slew = s.slew := rfl
@[simp] theorem State.setM_cal (s : State) (k : Nat) (x : Mask) : (s.setM k x).cal = s.cal := rfl
@[simp] theorem State.setM_fwVersion (s : State) (k : Nat) (x : Mask) : (s.setM k x).fwVersion = s.fwVersion := rfl
@[simp] theorem State.setM_rollback (s : State) (k : Nat) (x : Mask) : (s.setM k x).rollback = s.rollback := rfl
@[simp] theorem State.setM_fwDigests (s : State) (k : Nat) (x : Mask) : (s.setM k x).fwDigests = s.fwDigests := rfl
@[simp] theorem State.setM_ckpts (s : State) (k : Nat) (x : Mask) : (s.setM k x).ckpts = s.ckpts := rfl
@[simp] theorem State.setM_buddies (s : State) (k : Nat) (x : Mask) : (s.setM k x).buddies = s.buddies := rfl
@[simp] theorem State.setM_hosted (s : State) (k : Nat) (x : Mask) : (s.setM k x).hosted = s.hosted := rfl
@[simp] theorem State.setM_errors (s : State) (k : Nat) (x : Mask) : (s.setM k x).errors = s.errors := rfl
@[simp] theorem State.setM_once (s : State) (k : Nat) (x : Mask) : (s.setM k x).once = s.once := rfl
@[simp] theorem State.setM_hwLog (s : State) (k : Nat) (x : Mask) : (s.setM k x).hwLog = s.hwLog := rfl
@[simp] theorem State.setM_tens (s : State) (k : Nat) (x : Mask) : (s.setM k x).tens = s.tens := rfl
@[simp] theorem State.setM_ten (s : State) (k : Nat) (x : Mask) : (s.setM k x).ten = s.ten := rfl
@[simp] theorem State.setM_core (s : State) (k : Nat) (x : Mask) : (s.setM k x).core = s.core := rfl
@[simp] theorem State.setM_blk (s : State) (k : Nat) (x : Mask) : (s.setM k x).blk = s.blk := rfl
@[simp] theorem State.setM_team (s : State) (k : Nat) (x : Mask) : (s.setM k x).team = s.team.setM k x := rfl
@[simp] theorem State.setM_ctr (s : State) (k : Nat) (x : Mask) : (s.setM k x).ctr = s.ctr := rfl
@[simp] theorem State.setM_agenda (s : State) (k : Nat) (x : Mask) : (s.setM k x).agenda = s.agenda := rfl
@[simp] theorem State.setM_out (s : State) (k : Nat) (x : Mask) : (s.setM k x).out = s.out := rfl

/-! `State.setPair` -/
@[simp] theorem State.setPair_power (s : State) (k : Nat) (x : DWord) : (s.setPair k x).power = s.power := rfl
@[simp] theorem State.setPair_fuse (s : State) (k : Nat) (x : DWord) : (s.setPair k x).fuse = s.fuse := rfl
@[simp] theorem State.setPair_fwTab (s : State) (k : Nat) (x : DWord) : (s.setPair k x).fwTab = s.fwTab := rfl
@[simp] theorem State.setPair_clockMHz (s : State) (k : Nat) (x : DWord) : (s.setPair k x).clockMHz = s.clockMHz := rfl
@[simp] theorem State.setPair_clk (s : State) (k : Nat) (x : DWord) : (s.setPair k x).clk = s.clk := rfl
@[simp] theorem State.setPair_timeNs (s : State) (k : Nat) (x : DWord) : (s.setPair k x).timeNs = s.timeNs := rfl
@[simp] theorem State.setPair_slew (s : State) (k : Nat) (x : DWord) : (s.setPair k x).slew = s.slew := rfl
@[simp] theorem State.setPair_cal (s : State) (k : Nat) (x : DWord) : (s.setPair k x).cal = s.cal := rfl
@[simp] theorem State.setPair_fwVersion (s : State) (k : Nat) (x : DWord) : (s.setPair k x).fwVersion = s.fwVersion := rfl
@[simp] theorem State.setPair_rollback (s : State) (k : Nat) (x : DWord) : (s.setPair k x).rollback = s.rollback := rfl
@[simp] theorem State.setPair_fwDigests (s : State) (k : Nat) (x : DWord) : (s.setPair k x).fwDigests = s.fwDigests := rfl
@[simp] theorem State.setPair_ckpts (s : State) (k : Nat) (x : DWord) : (s.setPair k x).ckpts = s.ckpts := rfl
@[simp] theorem State.setPair_buddies (s : State) (k : Nat) (x : DWord) : (s.setPair k x).buddies = s.buddies := rfl
@[simp] theorem State.setPair_hosted (s : State) (k : Nat) (x : DWord) : (s.setPair k x).hosted = s.hosted := rfl
@[simp] theorem State.setPair_errors (s : State) (k : Nat) (x : DWord) : (s.setPair k x).errors = s.errors := rfl
@[simp] theorem State.setPair_once (s : State) (k : Nat) (x : DWord) : (s.setPair k x).once = s.once := rfl
@[simp] theorem State.setPair_hwLog (s : State) (k : Nat) (x : DWord) : (s.setPair k x).hwLog = s.hwLog := rfl
@[simp] theorem State.setPair_tens (s : State) (k : Nat) (x : DWord) : (s.setPair k x).tens = s.tens := rfl
@[simp] theorem State.setPair_ten (s : State) (k : Nat) (x : DWord) : (s.setPair k x).ten = s.ten := rfl
@[simp] theorem State.setPair_core (s : State) (k : Nat) (x : DWord) : (s.setPair k x).core = s.core := rfl
@[simp] theorem State.setPair_blk (s : State) (k : Nat) (x : DWord) : (s.setPair k x).blk = s.blk := rfl
@[simp] theorem State.setPair_team (s : State) (k : Nat) (x : DWord) : (s.setPair k x).team = (s.team.setS k (x.setWidth 32)).setS (k + 1) (x.extractLsb' 32 32) := rfl
@[simp] theorem State.setPair_ctr (s : State) (k : Nat) (x : DWord) : (s.setPair k x).ctr = s.ctr := rfl
@[simp] theorem State.setPair_agenda (s : State) (k : Nat) (x : DWord) : (s.setPair k x).agenda = s.agenda := rfl
@[simp] theorem State.setPair_out (s : State) (k : Nat) (x : DWord) : (s.setPair k x).out = s.out := rfl

/-! `State.flag` -/
@[simp] theorem State.flag_power (s : State) (b : Word) : (s.flag b).power = s.power := rfl
@[simp] theorem State.flag_fuse (s : State) (b : Word) : (s.flag b).fuse = s.fuse := rfl
@[simp] theorem State.flag_fwTab (s : State) (b : Word) : (s.flag b).fwTab = s.fwTab := rfl
@[simp] theorem State.flag_clockMHz (s : State) (b : Word) : (s.flag b).clockMHz = s.clockMHz := rfl
@[simp] theorem State.flag_clk (s : State) (b : Word) : (s.flag b).clk = s.clk := rfl
@[simp] theorem State.flag_timeNs (s : State) (b : Word) : (s.flag b).timeNs = s.timeNs := rfl
@[simp] theorem State.flag_slew (s : State) (b : Word) : (s.flag b).slew = s.slew := rfl
@[simp] theorem State.flag_cal (s : State) (b : Word) : (s.flag b).cal = s.cal := rfl
@[simp] theorem State.flag_fwVersion (s : State) (b : Word) : (s.flag b).fwVersion = s.fwVersion := rfl
@[simp] theorem State.flag_rollback (s : State) (b : Word) : (s.flag b).rollback = s.rollback := rfl
@[simp] theorem State.flag_fwDigests (s : State) (b : Word) : (s.flag b).fwDigests = s.fwDigests := rfl
@[simp] theorem State.flag_ckpts (s : State) (b : Word) : (s.flag b).ckpts = s.ckpts := rfl
@[simp] theorem State.flag_buddies (s : State) (b : Word) : (s.flag b).buddies = s.buddies := rfl
@[simp] theorem State.flag_hosted (s : State) (b : Word) : (s.flag b).hosted = s.hosted := rfl
@[simp] theorem State.flag_errors (s : State) (b : Word) : (s.flag b).errors = s.errors := rfl
@[simp] theorem State.flag_once (s : State) (b : Word) : (s.flag b).once = s.once := rfl
@[simp] theorem State.flag_hwLog (s : State) (b : Word) : (s.flag b).hwLog = s.hwLog := rfl
@[simp] theorem State.flag_tens (s : State) (b : Word) : (s.flag b).tens = s.tens := rfl
@[simp] theorem State.flag_ten (s : State) (b : Word) : (s.flag b).ten = s.ten := rfl
@[simp] theorem State.flag_core (s : State) (b : Word) : (s.flag b).core = s.core := rfl
@[simp] theorem State.flag_blk (s : State) (b : Word) : (s.flag b).blk = s.blk := rfl
@[simp] theorem State.flag_team (s : State) (b : Word) : (s.flag b).team = s.team.flag b := rfl
@[simp] theorem State.flag_ctr (s : State) (b : Word) : (s.flag b).ctr = s.ctr := rfl
@[simp] theorem State.flag_agenda (s : State) (b : Word) : (s.flag b).agenda = s.agenda := rfl
@[simp] theorem State.flag_out (s : State) (b : Word) : (s.flag b).out = s.out := rfl

/-! `State.taint` -/
@[simp] theorem State.taint_power (s : State) (rs : List Nat) : (s.taint rs).power = s.power := rfl
@[simp] theorem State.taint_fuse (s : State) (rs : List Nat) : (s.taint rs).fuse = s.fuse := rfl
@[simp] theorem State.taint_fwTab (s : State) (rs : List Nat) : (s.taint rs).fwTab = s.fwTab := rfl
@[simp] theorem State.taint_clockMHz (s : State) (rs : List Nat) : (s.taint rs).clockMHz = s.clockMHz := rfl
@[simp] theorem State.taint_clk (s : State) (rs : List Nat) : (s.taint rs).clk = s.clk := rfl
@[simp] theorem State.taint_timeNs (s : State) (rs : List Nat) : (s.taint rs).timeNs = s.timeNs := rfl
@[simp] theorem State.taint_slew (s : State) (rs : List Nat) : (s.taint rs).slew = s.slew := rfl
@[simp] theorem State.taint_cal (s : State) (rs : List Nat) : (s.taint rs).cal = s.cal := rfl
@[simp] theorem State.taint_fwVersion (s : State) (rs : List Nat) : (s.taint rs).fwVersion = s.fwVersion := rfl
@[simp] theorem State.taint_rollback (s : State) (rs : List Nat) : (s.taint rs).rollback = s.rollback := rfl
@[simp] theorem State.taint_fwDigests (s : State) (rs : List Nat) : (s.taint rs).fwDigests = s.fwDigests := rfl
@[simp] theorem State.taint_ckpts (s : State) (rs : List Nat) : (s.taint rs).ckpts = s.ckpts := rfl
@[simp] theorem State.taint_buddies (s : State) (rs : List Nat) : (s.taint rs).buddies = s.buddies := rfl
@[simp] theorem State.taint_hosted (s : State) (rs : List Nat) : (s.taint rs).hosted = s.hosted := rfl
@[simp] theorem State.taint_errors (s : State) (rs : List Nat) : (s.taint rs).errors = s.errors := rfl
@[simp] theorem State.taint_once (s : State) (rs : List Nat) : (s.taint rs).once = s.once := rfl
@[simp] theorem State.taint_hwLog (s : State) (rs : List Nat) : (s.taint rs).hwLog = s.hwLog := rfl
@[simp] theorem State.taint_tens (s : State) (rs : List Nat) : (s.taint rs).tens = s.tens := rfl
@[simp] theorem State.taint_core (s : State) (rs : List Nat) : (s.taint rs).core = s.core := rfl
@[simp] theorem State.taint_blk (s : State) (rs : List Nat) : (s.taint rs).blk = s.blk := rfl
@[simp] theorem State.taint_team (s : State) (rs : List Nat) : (s.taint rs).team = s.team := rfl
@[simp] theorem State.taint_ctr (s : State) (rs : List Nat) : (s.taint rs).ctr = s.ctr := rfl
@[simp] theorem State.taint_agenda (s : State) (rs : List Nat) : (s.taint rs).agenda = s.agenda := rfl
@[simp] theorem State.taint_out (s : State) (rs : List Nat) : (s.taint rs).out = s.out := rfl

/-! `State.setLanes` -/
@[simp] theorem State.setLanes_power (s : State) (r : Nat) (xs : List (Nat × Word)) : (s.setLanes r xs).power = s.power := rfl
@[simp] theorem State.setLanes_fuse (s : State) (r : Nat) (xs : List (Nat × Word)) : (s.setLanes r xs).fuse = s.fuse := rfl
@[simp] theorem State.setLanes_fwTab (s : State) (r : Nat) (xs : List (Nat × Word)) : (s.setLanes r xs).fwTab = s.fwTab := rfl
@[simp] theorem State.setLanes_clockMHz (s : State) (r : Nat) (xs : List (Nat × Word)) : (s.setLanes r xs).clockMHz = s.clockMHz := rfl
@[simp] theorem State.setLanes_clk (s : State) (r : Nat) (xs : List (Nat × Word)) : (s.setLanes r xs).clk = s.clk := rfl
@[simp] theorem State.setLanes_timeNs (s : State) (r : Nat) (xs : List (Nat × Word)) : (s.setLanes r xs).timeNs = s.timeNs := rfl
@[simp] theorem State.setLanes_slew (s : State) (r : Nat) (xs : List (Nat × Word)) : (s.setLanes r xs).slew = s.slew := rfl
@[simp] theorem State.setLanes_cal (s : State) (r : Nat) (xs : List (Nat × Word)) : (s.setLanes r xs).cal = s.cal := rfl
@[simp] theorem State.setLanes_fwVersion (s : State) (r : Nat) (xs : List (Nat × Word)) : (s.setLanes r xs).fwVersion = s.fwVersion := rfl
@[simp] theorem State.setLanes_rollback (s : State) (r : Nat) (xs : List (Nat × Word)) : (s.setLanes r xs).rollback = s.rollback := rfl
@[simp] theorem State.setLanes_fwDigests (s : State) (r : Nat) (xs : List (Nat × Word)) : (s.setLanes r xs).fwDigests = s.fwDigests := rfl
@[simp] theorem State.setLanes_ckpts (s : State) (r : Nat) (xs : List (Nat × Word)) : (s.setLanes r xs).ckpts = s.ckpts := rfl
@[simp] theorem State.setLanes_buddies (s : State) (r : Nat) (xs : List (Nat × Word)) : (s.setLanes r xs).buddies = s.buddies := rfl
@[simp] theorem State.setLanes_hosted (s : State) (r : Nat) (xs : List (Nat × Word)) : (s.setLanes r xs).hosted = s.hosted := rfl
@[simp] theorem State.setLanes_errors (s : State) (r : Nat) (xs : List (Nat × Word)) : (s.setLanes r xs).errors = s.errors := rfl
@[simp] theorem State.setLanes_once (s : State) (r : Nat) (xs : List (Nat × Word)) : (s.setLanes r xs).once = s.once := rfl
@[simp] theorem State.setLanes_hwLog (s : State) (r : Nat) (xs : List (Nat × Word)) : (s.setLanes r xs).hwLog = s.hwLog := rfl
@[simp] theorem State.setLanes_tens (s : State) (r : Nat) (xs : List (Nat × Word)) : (s.setLanes r xs).tens = s.tens := rfl
@[simp] theorem State.setLanes_core (s : State) (r : Nat) (xs : List (Nat × Word)) : (s.setLanes r xs).core = s.core := rfl
@[simp] theorem State.setLanes_blk (s : State) (r : Nat) (xs : List (Nat × Word)) : (s.setLanes r xs).blk = s.blk := rfl
@[simp] theorem State.setLanes_team (s : State) (r : Nat) (xs : List (Nat × Word)) : (s.setLanes r xs).team = s.team.setLanes r xs := rfl
@[simp] theorem State.setLanes_ctr (s : State) (r : Nat) (xs : List (Nat × Word)) : (s.setLanes r xs).ctr = s.ctr := rfl
@[simp] theorem State.setLanes_agenda (s : State) (r : Nat) (xs : List (Nat × Word)) : (s.setLanes r xs).agenda = s.agenda := rfl
@[simp] theorem State.setLanes_out (s : State) (r : Nat) (xs : List (Nat × Word)) : (s.setLanes r xs).out = s.out := rfl

/-! `State.perLane` -/
@[simp] theorem State.perLane_power (s : State) (d : Byte) (f : Nat → Word × Word) : (s.perLane d f).power = s.power := rfl
@[simp] theorem State.perLane_fuse (s : State) (d : Byte) (f : Nat → Word × Word) : (s.perLane d f).fuse = s.fuse := rfl
@[simp] theorem State.perLane_fwTab (s : State) (d : Byte) (f : Nat → Word × Word) : (s.perLane d f).fwTab = s.fwTab := rfl
@[simp] theorem State.perLane_clockMHz (s : State) (d : Byte) (f : Nat → Word × Word) : (s.perLane d f).clockMHz = s.clockMHz := rfl
@[simp] theorem State.perLane_clk (s : State) (d : Byte) (f : Nat → Word × Word) : (s.perLane d f).clk = s.clk := rfl
@[simp] theorem State.perLane_timeNs (s : State) (d : Byte) (f : Nat → Word × Word) : (s.perLane d f).timeNs = s.timeNs := rfl
@[simp] theorem State.perLane_slew (s : State) (d : Byte) (f : Nat → Word × Word) : (s.perLane d f).slew = s.slew := rfl
@[simp] theorem State.perLane_cal (s : State) (d : Byte) (f : Nat → Word × Word) : (s.perLane d f).cal = s.cal := rfl
@[simp] theorem State.perLane_fwVersion (s : State) (d : Byte) (f : Nat → Word × Word) : (s.perLane d f).fwVersion = s.fwVersion := rfl
@[simp] theorem State.perLane_rollback (s : State) (d : Byte) (f : Nat → Word × Word) : (s.perLane d f).rollback = s.rollback := rfl
@[simp] theorem State.perLane_fwDigests (s : State) (d : Byte) (f : Nat → Word × Word) : (s.perLane d f).fwDigests = s.fwDigests := rfl
@[simp] theorem State.perLane_ckpts (s : State) (d : Byte) (f : Nat → Word × Word) : (s.perLane d f).ckpts = s.ckpts := rfl
@[simp] theorem State.perLane_buddies (s : State) (d : Byte) (f : Nat → Word × Word) : (s.perLane d f).buddies = s.buddies := rfl
@[simp] theorem State.perLane_hosted (s : State) (d : Byte) (f : Nat → Word × Word) : (s.perLane d f).hosted = s.hosted := rfl
@[simp] theorem State.perLane_errors (s : State) (d : Byte) (f : Nat → Word × Word) : (s.perLane d f).errors = s.errors := rfl
@[simp] theorem State.perLane_once (s : State) (d : Byte) (f : Nat → Word × Word) : (s.perLane d f).once = s.once := rfl
@[simp] theorem State.perLane_hwLog (s : State) (d : Byte) (f : Nat → Word × Word) : (s.perLane d f).hwLog = s.hwLog := rfl
@[simp] theorem State.perLane_tens (s : State) (d : Byte) (f : Nat → Word × Word) : (s.perLane d f).tens = s.tens := rfl
@[simp] theorem State.perLane_core (s : State) (d : Byte) (f : Nat → Word × Word) : (s.perLane d f).core = s.core := rfl
@[simp] theorem State.perLane_blk (s : State) (d : Byte) (f : Nat → Word × Word) : (s.perLane d f).blk = s.blk := rfl
@[simp] theorem State.perLane_ctr (s : State) (d : Byte) (f : Nat → Word × Word) : (s.perLane d f).ctr = s.ctr := rfl
@[simp] theorem State.perLane_agenda (s : State) (d : Byte) (f : Nat → Word × Word) : (s.perLane d f).agenda = s.agenda := rfl
@[simp] theorem State.perLane_out (s : State) (d : Byte) (f : Nat → Word × Word) : (s.perLane d f).out = s.out := rfl

/-! `State.maskResult` -/
@[simp] theorem State.maskResult_power (s : State) (d : Byte) (p : Nat → Bool) : (s.maskResult d p).power = s.power := rfl
@[simp] theorem State.maskResult_fuse (s : State) (d : Byte) (p : Nat → Bool) : (s.maskResult d p).fuse = s.fuse := rfl
@[simp] theorem State.maskResult_fwTab (s : State) (d : Byte) (p : Nat → Bool) : (s.maskResult d p).fwTab = s.fwTab := rfl
@[simp] theorem State.maskResult_clockMHz (s : State) (d : Byte) (p : Nat → Bool) : (s.maskResult d p).clockMHz = s.clockMHz := rfl
@[simp] theorem State.maskResult_clk (s : State) (d : Byte) (p : Nat → Bool) : (s.maskResult d p).clk = s.clk := rfl
@[simp] theorem State.maskResult_timeNs (s : State) (d : Byte) (p : Nat → Bool) : (s.maskResult d p).timeNs = s.timeNs := rfl
@[simp] theorem State.maskResult_slew (s : State) (d : Byte) (p : Nat → Bool) : (s.maskResult d p).slew = s.slew := rfl
@[simp] theorem State.maskResult_cal (s : State) (d : Byte) (p : Nat → Bool) : (s.maskResult d p).cal = s.cal := rfl
@[simp] theorem State.maskResult_fwVersion (s : State) (d : Byte) (p : Nat → Bool) : (s.maskResult d p).fwVersion = s.fwVersion := rfl
@[simp] theorem State.maskResult_rollback (s : State) (d : Byte) (p : Nat → Bool) : (s.maskResult d p).rollback = s.rollback := rfl
@[simp] theorem State.maskResult_fwDigests (s : State) (d : Byte) (p : Nat → Bool) : (s.maskResult d p).fwDigests = s.fwDigests := rfl
@[simp] theorem State.maskResult_ckpts (s : State) (d : Byte) (p : Nat → Bool) : (s.maskResult d p).ckpts = s.ckpts := rfl
@[simp] theorem State.maskResult_buddies (s : State) (d : Byte) (p : Nat → Bool) : (s.maskResult d p).buddies = s.buddies := rfl
@[simp] theorem State.maskResult_hosted (s : State) (d : Byte) (p : Nat → Bool) : (s.maskResult d p).hosted = s.hosted := rfl
@[simp] theorem State.maskResult_errors (s : State) (d : Byte) (p : Nat → Bool) : (s.maskResult d p).errors = s.errors := rfl
@[simp] theorem State.maskResult_once (s : State) (d : Byte) (p : Nat → Bool) : (s.maskResult d p).once = s.once := rfl
@[simp] theorem State.maskResult_hwLog (s : State) (d : Byte) (p : Nat → Bool) : (s.maskResult d p).hwLog = s.hwLog := rfl
@[simp] theorem State.maskResult_tens (s : State) (d : Byte) (p : Nat → Bool) : (s.maskResult d p).tens = s.tens := rfl
@[simp] theorem State.maskResult_ten (s : State) (d : Byte) (p : Nat → Bool) : (s.maskResult d p).ten = s.ten := rfl
@[simp] theorem State.maskResult_core (s : State) (d : Byte) (p : Nat → Bool) : (s.maskResult d p).core = s.core := rfl
@[simp] theorem State.maskResult_blk (s : State) (d : Byte) (p : Nat → Bool) : (s.maskResult d p).blk = s.blk := rfl
@[simp] theorem State.maskResult_team (s : State) (d : Byte) (p : Nat → Bool) : (s.maskResult d p).team = s.team.setM d.toNat (maskOf (s.active.filter p)) := rfl
@[simp] theorem State.maskResult_ctr (s : State) (d : Byte) (p : Nat → Bool) : (s.maskResult d p).ctr = s.ctr := rfl
@[simp] theorem State.maskResult_agenda (s : State) (d : Byte) (p : Nat → Bool) : (s.maskResult d p).agenda = s.agenda := rfl
@[simp] theorem State.maskResult_out (s : State) (d : Byte) (p : Nat → Bool) : (s.maskResult d p).out = s.out := rfl

/-! `State.addRec` -/
@[simp] theorem State.addRec_power (s : State) (r : Rec) : (s.addRec r).power = s.power := rfl
@[simp] theorem State.addRec_fuse (s : State) (r : Rec) : (s.addRec r).fuse = s.fuse := rfl
@[simp] theorem State.addRec_fwTab (s : State) (r : Rec) : (s.addRec r).fwTab = s.fwTab := rfl
@[simp] theorem State.addRec_clockMHz (s : State) (r : Rec) : (s.addRec r).clockMHz = s.clockMHz := rfl
@[simp] theorem State.addRec_clk (s : State) (r : Rec) : (s.addRec r).clk = s.clk := rfl
@[simp] theorem State.addRec_timeNs (s : State) (r : Rec) : (s.addRec r).timeNs = s.timeNs := rfl
@[simp] theorem State.addRec_slew (s : State) (r : Rec) : (s.addRec r).slew = s.slew := rfl
@[simp] theorem State.addRec_cal (s : State) (r : Rec) : (s.addRec r).cal = s.cal := rfl
@[simp] theorem State.addRec_fwVersion (s : State) (r : Rec) : (s.addRec r).fwVersion = s.fwVersion := rfl
@[simp] theorem State.addRec_rollback (s : State) (r : Rec) : (s.addRec r).rollback = s.rollback := rfl
@[simp] theorem State.addRec_fwDigests (s : State) (r : Rec) : (s.addRec r).fwDigests = s.fwDigests := rfl
@[simp] theorem State.addRec_ckpts (s : State) (r : Rec) : (s.addRec r).ckpts = s.ckpts := rfl
@[simp] theorem State.addRec_buddies (s : State) (r : Rec) : (s.addRec r).buddies = s.buddies := rfl
@[simp] theorem State.addRec_hosted (s : State) (r : Rec) : (s.addRec r).hosted = s.hosted := rfl
@[simp] theorem State.addRec_errors (s : State) (r : Rec) : (s.addRec r).errors = s.errors := rfl
@[simp] theorem State.addRec_once (s : State) (r : Rec) : (s.addRec r).once = s.once := rfl
@[simp] theorem State.addRec_hwLog (s : State) (r : Rec) : (s.addRec r).hwLog = s.hwLog := rfl
@[simp] theorem State.addRec_tens (s : State) (r : Rec) : (s.addRec r).tens = s.tens := rfl
@[simp] theorem State.addRec_ten (s : State) (r : Rec) : (s.addRec r).ten = s.ten := rfl
@[simp] theorem State.addRec_core (s : State) (r : Rec) : (s.addRec r).core = s.core := rfl
@[simp] theorem State.addRec_blk (s : State) (r : Rec) : (s.addRec r).blk = s.blk := rfl
@[simp] theorem State.addRec_team (s : State) (r : Rec) : (s.addRec r).team = { s.team with batch := s.team.batch ++ [r] } := rfl
@[simp] theorem State.addRec_ctr (s : State) (r : Rec) : (s.addRec r).ctr = s.ctr := rfl
@[simp] theorem State.addRec_agenda (s : State) (r : Rec) : (s.addRec r).agenda = s.agenda := rfl
@[simp] theorem State.addRec_out (s : State) (r : Rec) : (s.addRec r).out = s.out := rfl

/-! `State.await` -/
@[simp] theorem State.await_power (s : State) (p : Pend) : (s.await p).power = s.power := rfl
@[simp] theorem State.await_fuse (s : State) (p : Pend) : (s.await p).fuse = s.fuse := rfl
@[simp] theorem State.await_fwTab (s : State) (p : Pend) : (s.await p).fwTab = s.fwTab := rfl
@[simp] theorem State.await_clockMHz (s : State) (p : Pend) : (s.await p).clockMHz = s.clockMHz := rfl
@[simp] theorem State.await_clk (s : State) (p : Pend) : (s.await p).clk = s.clk := rfl
@[simp] theorem State.await_timeNs (s : State) (p : Pend) : (s.await p).timeNs = s.timeNs := rfl
@[simp] theorem State.await_slew (s : State) (p : Pend) : (s.await p).slew = s.slew := rfl
@[simp] theorem State.await_cal (s : State) (p : Pend) : (s.await p).cal = s.cal := rfl
@[simp] theorem State.await_fwVersion (s : State) (p : Pend) : (s.await p).fwVersion = s.fwVersion := rfl
@[simp] theorem State.await_rollback (s : State) (p : Pend) : (s.await p).rollback = s.rollback := rfl
@[simp] theorem State.await_fwDigests (s : State) (p : Pend) : (s.await p).fwDigests = s.fwDigests := rfl
@[simp] theorem State.await_ckpts (s : State) (p : Pend) : (s.await p).ckpts = s.ckpts := rfl
@[simp] theorem State.await_buddies (s : State) (p : Pend) : (s.await p).buddies = s.buddies := rfl
@[simp] theorem State.await_hosted (s : State) (p : Pend) : (s.await p).hosted = s.hosted := rfl
@[simp] theorem State.await_errors (s : State) (p : Pend) : (s.await p).errors = s.errors := rfl
@[simp] theorem State.await_once (s : State) (p : Pend) : (s.await p).once = s.once := rfl
@[simp] theorem State.await_hwLog (s : State) (p : Pend) : (s.await p).hwLog = s.hwLog := rfl
@[simp] theorem State.await_tens (s : State) (p : Pend) : (s.await p).tens = s.tens := rfl
@[simp] theorem State.await_ten (s : State) (p : Pend) : (s.await p).ten = s.ten := rfl
@[simp] theorem State.await_core (s : State) (p : Pend) : (s.await p).core = s.core := rfl
@[simp] theorem State.await_blk (s : State) (p : Pend) : (s.await p).blk = s.blk := rfl
@[simp] theorem State.await_team (s : State) (p : Pend) : (s.await p).team = { s.team.bump p.kind (· + 1) with pend := s.team.pend ++ [p] } := rfl
@[simp] theorem State.await_ctr (s : State) (p : Pend) : (s.await p).ctr = s.ctr := rfl
@[simp] theorem State.await_agenda (s : State) (p : Pend) : (s.await p).agenda = s.agenda := rfl
@[simp] theorem State.await_out (s : State) (p : Pend) : (s.await p).out = s.out := rfl

/-! `State.touchPages` -/
@[simp] theorem State.touchPages_power (s : State) (l : List Nat) : (s.touchPages l).power = s.power := by obtain ⟨c, ps, h⟩ := s.touchPages_eq l; rw [h]
@[simp] theorem State.touchPages_fuse (s : State) (l : List Nat) : (s.touchPages l).fuse = s.fuse := by obtain ⟨c, ps, h⟩ := s.touchPages_eq l; rw [h]
@[simp] theorem State.touchPages_fwTab (s : State) (l : List Nat) : (s.touchPages l).fwTab = s.fwTab := by obtain ⟨c, ps, h⟩ := s.touchPages_eq l; rw [h]
@[simp] theorem State.touchPages_clockMHz (s : State) (l : List Nat) : (s.touchPages l).clockMHz = s.clockMHz := by obtain ⟨c, ps, h⟩ := s.touchPages_eq l; rw [h]
@[simp] theorem State.touchPages_clk (s : State) (l : List Nat) : (s.touchPages l).clk = s.clk := by obtain ⟨c, ps, h⟩ := s.touchPages_eq l; rw [h]
@[simp] theorem State.touchPages_timeNs (s : State) (l : List Nat) : (s.touchPages l).timeNs = s.timeNs := by obtain ⟨c, ps, h⟩ := s.touchPages_eq l; rw [h]
@[simp] theorem State.touchPages_slew (s : State) (l : List Nat) : (s.touchPages l).slew = s.slew := by obtain ⟨c, ps, h⟩ := s.touchPages_eq l; rw [h]
@[simp] theorem State.touchPages_cal (s : State) (l : List Nat) : (s.touchPages l).cal = s.cal := by obtain ⟨c, ps, h⟩ := s.touchPages_eq l; rw [h]
@[simp] theorem State.touchPages_fwVersion (s : State) (l : List Nat) : (s.touchPages l).fwVersion = s.fwVersion := by obtain ⟨c, ps, h⟩ := s.touchPages_eq l; rw [h]
@[simp] theorem State.touchPages_rollback (s : State) (l : List Nat) : (s.touchPages l).rollback = s.rollback := by obtain ⟨c, ps, h⟩ := s.touchPages_eq l; rw [h]
@[simp] theorem State.touchPages_fwDigests (s : State) (l : List Nat) : (s.touchPages l).fwDigests = s.fwDigests := by obtain ⟨c, ps, h⟩ := s.touchPages_eq l; rw [h]
@[simp] theorem State.touchPages_ckpts (s : State) (l : List Nat) : (s.touchPages l).ckpts = s.ckpts := by obtain ⟨c, ps, h⟩ := s.touchPages_eq l; rw [h]
@[simp] theorem State.touchPages_buddies (s : State) (l : List Nat) : (s.touchPages l).buddies = s.buddies := by obtain ⟨c, ps, h⟩ := s.touchPages_eq l; rw [h]
@[simp] theorem State.touchPages_hosted (s : State) (l : List Nat) : (s.touchPages l).hosted = s.hosted := by obtain ⟨c, ps, h⟩ := s.touchPages_eq l; rw [h]
@[simp] theorem State.touchPages_errors (s : State) (l : List Nat) : (s.touchPages l).errors = s.errors := by obtain ⟨c, ps, h⟩ := s.touchPages_eq l; rw [h]
@[simp] theorem State.touchPages_once (s : State) (l : List Nat) : (s.touchPages l).once = s.once := by obtain ⟨c, ps, h⟩ := s.touchPages_eq l; rw [h]
@[simp] theorem State.touchPages_hwLog (s : State) (l : List Nat) : (s.touchPages l).hwLog = s.hwLog := by obtain ⟨c, ps, h⟩ := s.touchPages_eq l; rw [h]
@[simp] theorem State.touchPages_tens (s : State) (l : List Nat) : (s.touchPages l).tens = s.tens := by obtain ⟨c, ps, h⟩ := s.touchPages_eq l; rw [h]
@[simp] theorem State.touchPages_blk (s : State) (l : List Nat) : (s.touchPages l).blk = s.blk := by obtain ⟨c, ps, h⟩ := s.touchPages_eq l; rw [h]
@[simp] theorem State.touchPages_team (s : State) (l : List Nat) : (s.touchPages l).team = s.team := by obtain ⟨c, ps, h⟩ := s.touchPages_eq l; rw [h]
@[simp] theorem State.touchPages_ctr (s : State) (l : List Nat) : (s.touchPages l).ctr = s.ctr := by obtain ⟨c, ps, h⟩ := s.touchPages_eq l; rw [h]
@[simp] theorem State.touchPages_agenda (s : State) (l : List Nat) : (s.touchPages l).agenda = s.agenda := by obtain ⟨c, ps, h⟩ := s.touchPages_eq l; rw [h]
@[simp] theorem State.touchPages_out (s : State) (l : List Nat) : (s.touchPages l).out = s.out := by obtain ⟨c, ps, h⟩ := s.touchPages_eq l; rw [h]

/-! `State.mark` -/
@[simp] theorem State.mark_power (s : State)  : (s.mark).power = s.power := rfl
@[simp] theorem State.mark_fuse (s : State)  : (s.mark).fuse = s.fuse := rfl
@[simp] theorem State.mark_fwTab (s : State)  : (s.mark).fwTab = s.fwTab := rfl
@[simp] theorem State.mark_clockMHz (s : State)  : (s.mark).clockMHz = s.clockMHz := rfl
@[simp] theorem State.mark_clk (s : State)  : (s.mark).clk = s.clk := rfl
@[simp] theorem State.mark_timeNs (s : State)  : (s.mark).timeNs = s.timeNs := rfl
@[simp] theorem State.mark_slew (s : State)  : (s.mark).slew = s.slew := rfl
@[simp] theorem State.mark_cal (s : State)  : (s.mark).cal = s.cal := rfl
@[simp] theorem State.mark_fwVersion (s : State)  : (s.mark).fwVersion = s.fwVersion := rfl
@[simp] theorem State.mark_rollback (s : State)  : (s.mark).rollback = s.rollback := rfl
@[simp] theorem State.mark_fwDigests (s : State)  : (s.mark).fwDigests = s.fwDigests := rfl
@[simp] theorem State.mark_ckpts (s : State)  : (s.mark).ckpts = s.ckpts := rfl
@[simp] theorem State.mark_buddies (s : State)  : (s.mark).buddies = s.buddies := rfl
@[simp] theorem State.mark_hosted (s : State)  : (s.mark).hosted = s.hosted := rfl
@[simp] theorem State.mark_errors (s : State)  : (s.mark).errors = s.errors := rfl
@[simp] theorem State.mark_once (s : State)  : (s.mark).once = s.once := rfl
@[simp] theorem State.mark_hwLog (s : State)  : (s.mark).hwLog = s.hwLog := rfl
@[simp] theorem State.mark_tens (s : State)  : (s.mark).tens = s.tens := rfl
@[simp] theorem State.mark_ten (s : State)  : (s.mark).ten = s.ten := rfl
@[simp] theorem State.mark_core (s : State)  : (s.mark).core = s.core := rfl
@[simp] theorem State.mark_blk (s : State)  : (s.mark).blk = s.blk := rfl
@[simp] theorem State.mark_team (s : State)  : (s.mark).team = { s.team with snap := s.snapNow } := rfl
@[simp] theorem State.mark_ctr (s : State)  : (s.mark).ctr = s.ctr := rfl
@[simp] theorem State.mark_agenda (s : State)  : (s.mark).agenda = s.agenda := rfl
@[simp] theorem State.mark_out (s : State)  : (s.mark).out = s.out := rfl

/-! `State.startPhase` -/
@[simp] theorem State.startPhase_power (s : State) (l : List Nat) (n : Nat) : (s.startPhase l n).power = s.power := rfl
@[simp] theorem State.startPhase_fuse (s : State) (l : List Nat) (n : Nat) : (s.startPhase l n).fuse = s.fuse := rfl
@[simp] theorem State.startPhase_fwTab (s : State) (l : List Nat) (n : Nat) : (s.startPhase l n).fwTab = s.fwTab := rfl
@[simp] theorem State.startPhase_clockMHz (s : State) (l : List Nat) (n : Nat) : (s.startPhase l n).clockMHz = s.clockMHz := rfl
@[simp] theorem State.startPhase_clk (s : State) (l : List Nat) (n : Nat) : (s.startPhase l n).clk = s.clk := rfl
@[simp] theorem State.startPhase_timeNs (s : State) (l : List Nat) (n : Nat) : (s.startPhase l n).timeNs = s.timeNs := rfl
@[simp] theorem State.startPhase_slew (s : State) (l : List Nat) (n : Nat) : (s.startPhase l n).slew = s.slew := rfl
@[simp] theorem State.startPhase_cal (s : State) (l : List Nat) (n : Nat) : (s.startPhase l n).cal = s.cal := rfl
@[simp] theorem State.startPhase_fwVersion (s : State) (l : List Nat) (n : Nat) : (s.startPhase l n).fwVersion = s.fwVersion := rfl
@[simp] theorem State.startPhase_rollback (s : State) (l : List Nat) (n : Nat) : (s.startPhase l n).rollback = s.rollback := rfl
@[simp] theorem State.startPhase_fwDigests (s : State) (l : List Nat) (n : Nat) : (s.startPhase l n).fwDigests = s.fwDigests := rfl
@[simp] theorem State.startPhase_ckpts (s : State) (l : List Nat) (n : Nat) : (s.startPhase l n).ckpts = s.ckpts := rfl
@[simp] theorem State.startPhase_buddies (s : State) (l : List Nat) (n : Nat) : (s.startPhase l n).buddies = s.buddies := rfl
@[simp] theorem State.startPhase_hosted (s : State) (l : List Nat) (n : Nat) : (s.startPhase l n).hosted = s.hosted := rfl
@[simp] theorem State.startPhase_errors (s : State) (l : List Nat) (n : Nat) : (s.startPhase l n).errors = s.errors := rfl
@[simp] theorem State.startPhase_once (s : State) (l : List Nat) (n : Nat) : (s.startPhase l n).once = s.once := rfl
@[simp] theorem State.startPhase_hwLog (s : State) (l : List Nat) (n : Nat) : (s.startPhase l n).hwLog = s.hwLog := rfl
@[simp] theorem State.startPhase_tens (s : State) (l : List Nat) (n : Nat) : (s.startPhase l n).tens = s.tens := rfl
@[simp] theorem State.startPhase_ten (s : State) (l : List Nat) (n : Nat) : (s.startPhase l n).ten = s.ten := rfl
@[simp] theorem State.startPhase_core (s : State) (l : List Nat) (n : Nat) : (s.startPhase l n).core = s.core := rfl
@[simp] theorem State.startPhase_blk (s : State) (l : List Nat) (n : Nat) : (s.startPhase l n).blk = s.blk := rfl
@[simp] theorem State.startPhase_ctr (s : State) (l : List Nat) (n : Nat) : (s.startPhase l n).ctr = s.ctr := rfl
@[simp] theorem State.startPhase_agenda (s : State) (l : List Nat) (n : Nat) : (s.startPhase l n).agenda = s.agenda := rfl
@[simp] theorem State.startPhase_out (s : State) (l : List Nat) (n : Nat) : (s.startPhase l n).out = s.out := rfl

/-! `State.openPhase` -/
@[simp] theorem State.openPhase_power (s : State) (n : Nat) : (s.openPhase n).power = s.power := rfl
@[simp] theorem State.openPhase_fuse (s : State) (n : Nat) : (s.openPhase n).fuse = s.fuse := rfl
@[simp] theorem State.openPhase_fwTab (s : State) (n : Nat) : (s.openPhase n).fwTab = s.fwTab := rfl
@[simp] theorem State.openPhase_clockMHz (s : State) (n : Nat) : (s.openPhase n).clockMHz = s.clockMHz := rfl
@[simp] theorem State.openPhase_clk (s : State) (n : Nat) : (s.openPhase n).clk = s.clk := rfl
@[simp] theorem State.openPhase_timeNs (s : State) (n : Nat) : (s.openPhase n).timeNs = s.timeNs := rfl
@[simp] theorem State.openPhase_slew (s : State) (n : Nat) : (s.openPhase n).slew = s.slew := rfl
@[simp] theorem State.openPhase_cal (s : State) (n : Nat) : (s.openPhase n).cal = s.cal := rfl
@[simp] theorem State.openPhase_fwVersion (s : State) (n : Nat) : (s.openPhase n).fwVersion = s.fwVersion := rfl
@[simp] theorem State.openPhase_rollback (s : State) (n : Nat) : (s.openPhase n).rollback = s.rollback := rfl
@[simp] theorem State.openPhase_fwDigests (s : State) (n : Nat) : (s.openPhase n).fwDigests = s.fwDigests := rfl
@[simp] theorem State.openPhase_ckpts (s : State) (n : Nat) : (s.openPhase n).ckpts = s.ckpts := rfl
@[simp] theorem State.openPhase_buddies (s : State) (n : Nat) : (s.openPhase n).buddies = s.buddies := rfl
@[simp] theorem State.openPhase_hosted (s : State) (n : Nat) : (s.openPhase n).hosted = s.hosted := rfl
@[simp] theorem State.openPhase_errors (s : State) (n : Nat) : (s.openPhase n).errors = s.errors := rfl
@[simp] theorem State.openPhase_once (s : State) (n : Nat) : (s.openPhase n).once = s.once := rfl
@[simp] theorem State.openPhase_hwLog (s : State) (n : Nat) : (s.openPhase n).hwLog = s.hwLog := rfl
@[simp] theorem State.openPhase_tens (s : State) (n : Nat) : (s.openPhase n).tens = s.tens := rfl
@[simp] theorem State.openPhase_ten (s : State) (n : Nat) : (s.openPhase n).ten = s.ten := rfl
@[simp] theorem State.openPhase_core (s : State) (n : Nat) : (s.openPhase n).core = s.core := rfl
@[simp] theorem State.openPhase_blk (s : State) (n : Nat) : (s.openPhase n).blk = s.blk := rfl
@[simp] theorem State.openPhase_ctr (s : State) (n : Nat) : (s.openPhase n).ctr = s.ctr := rfl
@[simp] theorem State.openPhase_agenda (s : State) (n : Nat) : (s.openPhase n).agenda = s.agenda := rfl
@[simp] theorem State.openPhase_out (s : State) (n : Nat) : (s.openPhase n).out = s.out := rfl

/-! `State.closePhase` -/
@[simp] theorem State.closePhase_power (s : State) (n : Nat) : (s.closePhase n).power = s.power := rfl
@[simp] theorem State.closePhase_fuse (s : State) (n : Nat) : (s.closePhase n).fuse = s.fuse := rfl
@[simp] theorem State.closePhase_fwTab (s : State) (n : Nat) : (s.closePhase n).fwTab = s.fwTab := rfl
@[simp] theorem State.closePhase_clockMHz (s : State) (n : Nat) : (s.closePhase n).clockMHz = s.clockMHz := rfl
@[simp] theorem State.closePhase_clk (s : State) (n : Nat) : (s.closePhase n).clk = s.clk := rfl
@[simp] theorem State.closePhase_timeNs (s : State) (n : Nat) : (s.closePhase n).timeNs = s.timeNs := rfl
@[simp] theorem State.closePhase_slew (s : State) (n : Nat) : (s.closePhase n).slew = s.slew := rfl
@[simp] theorem State.closePhase_cal (s : State) (n : Nat) : (s.closePhase n).cal = s.cal := rfl
@[simp] theorem State.closePhase_fwVersion (s : State) (n : Nat) : (s.closePhase n).fwVersion = s.fwVersion := rfl
@[simp] theorem State.closePhase_rollback (s : State) (n : Nat) : (s.closePhase n).rollback = s.rollback := rfl
@[simp] theorem State.closePhase_fwDigests (s : State) (n : Nat) : (s.closePhase n).fwDigests = s.fwDigests := rfl
@[simp] theorem State.closePhase_ckpts (s : State) (n : Nat) : (s.closePhase n).ckpts = s.ckpts := rfl
@[simp] theorem State.closePhase_buddies (s : State) (n : Nat) : (s.closePhase n).buddies = s.buddies := rfl
@[simp] theorem State.closePhase_hosted (s : State) (n : Nat) : (s.closePhase n).hosted = s.hosted := rfl
@[simp] theorem State.closePhase_errors (s : State) (n : Nat) : (s.closePhase n).errors = s.errors := rfl
@[simp] theorem State.closePhase_once (s : State) (n : Nat) : (s.closePhase n).once = s.once := rfl
@[simp] theorem State.closePhase_hwLog (s : State) (n : Nat) : (s.closePhase n).hwLog = s.hwLog := rfl
@[simp] theorem State.closePhase_tens (s : State) (n : Nat) : (s.closePhase n).tens = s.tens := rfl
@[simp] theorem State.closePhase_ctr (s : State) (n : Nat) : (s.closePhase n).ctr = s.ctr := rfl
@[simp] theorem State.closePhase_agenda (s : State) (n : Nat) : (s.closePhase n).agenda = s.agenda := rfl
@[simp] theorem State.closePhase_out (s : State) (n : Nat) : (s.closePhase n).out = s.out := rfl

/-! `Team.setS` -/
@[simp] theorem Team.setS_key (t : Team) (k : Nat) (x : Word) : (t.setS k x).key = t.key := rfl
@[simp] theorem Team.setS_launch (t : Team) (k : Nat) (x : Word) : (t.setS k x).launch = t.launch := rfl
@[simp] theorem Team.setS_blk (t : Team) (k : Nat) (x : Word) : (t.setS k x).blk = t.blk := rfl
@[simp] theorem Team.setS_idx (t : Team) (k : Nat) (x : Word) : (t.setS k x).idx = t.idx := rfl
@[simp] theorem Team.setS_core (t : Team) (k : Nat) (x : Word) : (t.setS k x).core = t.core := rfl
@[simp] theorem Team.setS_quarter (t : Team) (k : Nat) (x : Word) : (t.setS k x).quarter = t.quarter := rfl
@[simp] theorem Team.setS_lanes (t : Team) (k : Nat) (x : Word) : (t.setS k x).lanes = t.lanes := rfl
@[simp] theorem Team.setS_budget (t : Team) (k : Nat) (x : Word) : (t.setS k x).budget = t.budget := rfl
@[simp] theorem Team.setS_gx (t : Team) (k : Nat) (x : Word) : (t.setS k x).gx = t.gx := rfl
@[simp] theorem Team.setS_ga (t : Team) (k : Nat) (x : Word) : (t.setS k x).ga = t.ga := rfl
@[simp] theorem Team.setS_z (t : Team) (k : Nat) (x : Word) : (t.setS k x).z = t.z := rfl
@[simp] theorem Team.setS_pc (t : Team) (k : Nat) (x : Word) : (t.setS k x).pc = t.pc := rfl
@[simp] theorem Team.setS_hdr (t : Team) (k : Nat) (x : Word) : (t.setS k x).hdr = t.hdr := rfl
@[simp] theorem Team.setS_cl (t : Team) (k : Nat) (x : Word) : (t.setS k x).cl = t.cl := rfl
@[simp] theorem Team.setS_wait (t : Team) (k : Nat) (x : Word) : (t.setS k x).wait = t.wait := rfl
@[simp] theorem Team.setS_park (t : Team) (k : Nat) (x : Word) : (t.setS k x).park = t.park := rfl
@[simp] theorem Team.setS_exec (t : Team) (k : Nat) (x : Word) : (t.setS k x).exec = t.exec := rfl
@[simp] theorem Team.setS_m (t : Team) (k : Nat) (x : Word) : (t.setS k x).m = t.m := rfl
@[simp] theorem Team.setS_s (t : Team) (k : Nat) (x : Word) : (t.setS k x).s = put 0 k x t.s := rfl
@[simp] theorem Team.setS_v (t : Team) (k : Nat) (x : Word) : (t.setS k x).v = t.v := rfl
@[simp] theorem Team.setS_x (t : Team) (k : Nat) (x : Word) : (t.setS k x).x = t.x := rfl
@[simp] theorem Team.setS_acc (t : Team) (k : Nat) (x : Word) : (t.setS k x).acc = t.acc := rfl
@[simp] theorem Team.setS_accC (t : Team) (k : Nat) (x : Word) : (t.setS k x).accC = t.accC := rfl
@[simp] theorem Team.setS_h (t : Team) (k : Nat) (x : Word) : (t.setS k x).h = t.h := rfl
@[simp] theorem Team.setS_reserved (t : Team) (k : Nat) (x : Word) : (t.setS k x).reserved = t.reserved := rfl
@[simp] theorem Team.setS_lc (t : Team) (k : Nat) (x : Word) : (t.setS k x).lc = t.lc := rfl
@[simp] theorem Team.setS_ac (t : Team) (k : Nat) (x : Word) : (t.setS k x).ac = t.ac := rfl
@[simp] theorem Team.setS_mc (t : Team) (k : Nat) (x : Word) : (t.setS k x).mc = t.mc := rfl
@[simp] theorem Team.setS_xc (t : Team) (k : Nat) (x : Word) : (t.setS k x).xc = t.xc := rfl
@[simp] theorem Team.setS_tc (t : Team) (k : Nat) (x : Word) : (t.setS k x).tc = t.tc := rfl
@[simp] theorem Team.setS_status (t : Team) (k : Nat) (x : Word) : (t.setS k x).status = t.status := rfl
@[simp] theorem Team.setS_rm (t : Team) (k : Nat) (x : Word) : (t.setS k x).rm = t.rm := rfl
@[simp] theorem Team.setS_seed (t : Team) (k : Nat) (x : Word) : (t.setS k x).seed = t.seed := rfl
@[simp] theorem Team.setS_spos (t : Team) (k : Nat) (x : Word) : (t.setS k x).spos = t.spos := rfl
@[simp] theorem Team.setS_clkhi (t : Team) (k : Nat) (x : Word) : (t.setS k x).clkhi = t.clkhi := rfl
@[simp] theorem Team.setS_mstat (t : Team) (k : Nat) (x : Word) : (t.setS k x).mstat = t.mstat := rfl
@[simp] theorem Team.setS_cause (t : Team) (k : Nat) (x : Word) : (t.setS k x).cause = t.cause := rfl
@[simp] theorem Team.setS_epc (t : Team) (k : Nat) (x : Word) : (t.setS k x).epc = t.epc := rfl
@[simp] theorem Team.setS_eia (t : Team) (k : Nat) (x : Word) : (t.setS k x).eia = t.eia := rfl
@[simp] theorem Team.setS_elane (t : Team) (k : Nat) (x : Word) : (t.setS k x).elane = t.elane := rfl
@[simp] theorem Team.setS_einfo (t : Team) (k : Nat) (x : Word) : (t.setS k x).einfo = t.einfo := rfl
@[simp] theorem Team.setS_priv (t : Team) (k : Nat) (x : Word) : (t.setS k x).priv = t.priv := rfl
@[simp] theorem Team.setS_savex (t : Team) (k : Nat) (x : Word) : (t.setS k x).savex = t.savex := rfl
@[simp] theorem Team.setS_ehdr (t : Team) (k : Nat) (x : Word) : (t.setS k x).ehdr = t.ehdr := rfl
@[simp] theorem Team.setS_depth (t : Team) (k : Nat) (x : Word) : (t.setS k x).depth = t.depth := rfl
@[simp] theorem Team.setS_crec (t : Team) (k : Nat) (x : Word) : (t.setS k x).crec = t.crec := rfl
@[simp] theorem Team.setS_ctop (t : Team) (k : Nat) (x : Word) : (t.setS k x).ctop = t.ctop := rfl
@[simp] theorem Team.setS_ptop (t : Team) (k : Nat) (x : Word) : (t.setS k x).ptop = t.ptop := rfl
@[simp] theorem Team.setS_spill (t : Team) (k : Nat) (x : Word) : (t.setS k x).spill = t.spill := rfl
@[simp] theorem Team.setS_dl (t : Team) (k : Nat) (x : Word) : (t.setS k x).dl = t.dl := rfl
@[simp] theorem Team.setS_pend (t : Team) (k : Nat) (x : Word) : (t.setS k x).pend = t.pend := rfl
@[simp] theorem Team.setS_fence (t : Team) (k : Nat) (x : Word) : (t.setS k x).fence = t.fence := rfl
@[simp] theorem Team.setS_batch (t : Team) (k : Nat) (x : Word) : (t.setS k x).batch = t.batch := rfl
@[simp] theorem Team.setS_readSet (t : Team) (k : Nat) (x : Word) : (t.setS k x).readSet = t.readSet := rfl
@[simp] theorem Team.setS_readFrom (t : Team) (k : Nat) (x : Word) : (t.setS k x).readFrom = t.readFrom := rfl
@[simp] theorem Team.setS_floor (t : Team) (k : Nat) (x : Word) : (t.setS k x).floor = t.floor := rfl
@[simp] theorem Team.setS_seqno (t : Team) (k : Nat) (x : Word) : (t.setS k x).seqno = t.seqno := rfl
@[simp] theorem Team.setS_resv (t : Team) (k : Nat) (x : Word) : (t.setS k x).resv = t.resv := rfl
@[simp] theorem Team.setS_popped (t : Team) (k : Nat) (x : Word) : (t.setS k x).popped = t.popped := rfl
@[simp] theorem Team.setS_retained (t : Team) (k : Nat) (x : Word) : (t.setS k x).retained = t.retained := rfl
@[simp] theorem Team.setS_snap (t : Team) (k : Nat) (x : Word) : (t.setS k x).snap = t.snap := rfl

/-! `Team.setV` -/
@[simp] theorem Team.setV_key (t : Team) (r i : Nat) (x : Word) : (t.setV r i x).key = t.key := rfl
@[simp] theorem Team.setV_launch (t : Team) (r i : Nat) (x : Word) : (t.setV r i x).launch = t.launch := rfl
@[simp] theorem Team.setV_blk (t : Team) (r i : Nat) (x : Word) : (t.setV r i x).blk = t.blk := rfl
@[simp] theorem Team.setV_idx (t : Team) (r i : Nat) (x : Word) : (t.setV r i x).idx = t.idx := rfl
@[simp] theorem Team.setV_core (t : Team) (r i : Nat) (x : Word) : (t.setV r i x).core = t.core := rfl
@[simp] theorem Team.setV_quarter (t : Team) (r i : Nat) (x : Word) : (t.setV r i x).quarter = t.quarter := rfl
@[simp] theorem Team.setV_lanes (t : Team) (r i : Nat) (x : Word) : (t.setV r i x).lanes = t.lanes := rfl
@[simp] theorem Team.setV_budget (t : Team) (r i : Nat) (x : Word) : (t.setV r i x).budget = t.budget := rfl
@[simp] theorem Team.setV_gx (t : Team) (r i : Nat) (x : Word) : (t.setV r i x).gx = t.gx := rfl
@[simp] theorem Team.setV_ga (t : Team) (r i : Nat) (x : Word) : (t.setV r i x).ga = t.ga := rfl
@[simp] theorem Team.setV_z (t : Team) (r i : Nat) (x : Word) : (t.setV r i x).z = t.z := rfl
@[simp] theorem Team.setV_pc (t : Team) (r i : Nat) (x : Word) : (t.setV r i x).pc = t.pc := rfl
@[simp] theorem Team.setV_hdr (t : Team) (r i : Nat) (x : Word) : (t.setV r i x).hdr = t.hdr := rfl
@[simp] theorem Team.setV_cl (t : Team) (r i : Nat) (x : Word) : (t.setV r i x).cl = t.cl := rfl
@[simp] theorem Team.setV_wait (t : Team) (r i : Nat) (x : Word) : (t.setV r i x).wait = t.wait := rfl
@[simp] theorem Team.setV_park (t : Team) (r i : Nat) (x : Word) : (t.setV r i x).park = t.park := rfl
@[simp] theorem Team.setV_exec (t : Team) (r i : Nat) (x : Word) : (t.setV r i x).exec = t.exec := rfl
@[simp] theorem Team.setV_m (t : Team) (r i : Nat) (x : Word) : (t.setV r i x).m = t.m := rfl
@[simp] theorem Team.setV_s (t : Team) (r i : Nat) (x : Word) : (t.setV r i x).s = t.s := rfl
@[simp] theorem Team.setV_v (t : Team) (r i : Nat) (x : Word) : (t.setV r i x).v = put 0 (1024 * r + i) x t.v := rfl
@[simp] theorem Team.setV_x (t : Team) (r i : Nat) (x : Word) : (t.setV r i x).x = t.x := rfl
@[simp] theorem Team.setV_acc (t : Team) (r i : Nat) (x : Word) : (t.setV r i x).acc = t.acc := rfl
@[simp] theorem Team.setV_accC (t : Team) (r i : Nat) (x : Word) : (t.setV r i x).accC = t.accC := rfl
@[simp] theorem Team.setV_h (t : Team) (r i : Nat) (x : Word) : (t.setV r i x).h = t.h := rfl
@[simp] theorem Team.setV_reserved (t : Team) (r i : Nat) (x : Word) : (t.setV r i x).reserved = t.reserved := rfl
@[simp] theorem Team.setV_lc (t : Team) (r i : Nat) (x : Word) : (t.setV r i x).lc = t.lc := rfl
@[simp] theorem Team.setV_ac (t : Team) (r i : Nat) (x : Word) : (t.setV r i x).ac = t.ac := rfl
@[simp] theorem Team.setV_mc (t : Team) (r i : Nat) (x : Word) : (t.setV r i x).mc = t.mc := rfl
@[simp] theorem Team.setV_xc (t : Team) (r i : Nat) (x : Word) : (t.setV r i x).xc = t.xc := rfl
@[simp] theorem Team.setV_tc (t : Team) (r i : Nat) (x : Word) : (t.setV r i x).tc = t.tc := rfl
@[simp] theorem Team.setV_status (t : Team) (r i : Nat) (x : Word) : (t.setV r i x).status = t.status := rfl
@[simp] theorem Team.setV_rm (t : Team) (r i : Nat) (x : Word) : (t.setV r i x).rm = t.rm := rfl
@[simp] theorem Team.setV_seed (t : Team) (r i : Nat) (x : Word) : (t.setV r i x).seed = t.seed := rfl
@[simp] theorem Team.setV_spos (t : Team) (r i : Nat) (x : Word) : (t.setV r i x).spos = t.spos := rfl
@[simp] theorem Team.setV_clkhi (t : Team) (r i : Nat) (x : Word) : (t.setV r i x).clkhi = t.clkhi := rfl
@[simp] theorem Team.setV_mstat (t : Team) (r i : Nat) (x : Word) : (t.setV r i x).mstat = t.mstat := rfl
@[simp] theorem Team.setV_cause (t : Team) (r i : Nat) (x : Word) : (t.setV r i x).cause = t.cause := rfl
@[simp] theorem Team.setV_epc (t : Team) (r i : Nat) (x : Word) : (t.setV r i x).epc = t.epc := rfl
@[simp] theorem Team.setV_eia (t : Team) (r i : Nat) (x : Word) : (t.setV r i x).eia = t.eia := rfl
@[simp] theorem Team.setV_elane (t : Team) (r i : Nat) (x : Word) : (t.setV r i x).elane = t.elane := rfl
@[simp] theorem Team.setV_einfo (t : Team) (r i : Nat) (x : Word) : (t.setV r i x).einfo = t.einfo := rfl
@[simp] theorem Team.setV_priv (t : Team) (r i : Nat) (x : Word) : (t.setV r i x).priv = t.priv := rfl
@[simp] theorem Team.setV_savex (t : Team) (r i : Nat) (x : Word) : (t.setV r i x).savex = t.savex := rfl
@[simp] theorem Team.setV_ehdr (t : Team) (r i : Nat) (x : Word) : (t.setV r i x).ehdr = t.ehdr := rfl
@[simp] theorem Team.setV_depth (t : Team) (r i : Nat) (x : Word) : (t.setV r i x).depth = t.depth := rfl
@[simp] theorem Team.setV_crec (t : Team) (r i : Nat) (x : Word) : (t.setV r i x).crec = t.crec := rfl
@[simp] theorem Team.setV_ctop (t : Team) (r i : Nat) (x : Word) : (t.setV r i x).ctop = t.ctop := rfl
@[simp] theorem Team.setV_ptop (t : Team) (r i : Nat) (x : Word) : (t.setV r i x).ptop = t.ptop := rfl
@[simp] theorem Team.setV_spill (t : Team) (r i : Nat) (x : Word) : (t.setV r i x).spill = t.spill := rfl
@[simp] theorem Team.setV_dl (t : Team) (r i : Nat) (x : Word) : (t.setV r i x).dl = t.dl := rfl
@[simp] theorem Team.setV_pend (t : Team) (r i : Nat) (x : Word) : (t.setV r i x).pend = t.pend := rfl
@[simp] theorem Team.setV_fence (t : Team) (r i : Nat) (x : Word) : (t.setV r i x).fence = t.fence := rfl
@[simp] theorem Team.setV_batch (t : Team) (r i : Nat) (x : Word) : (t.setV r i x).batch = t.batch := rfl
@[simp] theorem Team.setV_readSet (t : Team) (r i : Nat) (x : Word) : (t.setV r i x).readSet = t.readSet := rfl
@[simp] theorem Team.setV_readFrom (t : Team) (r i : Nat) (x : Word) : (t.setV r i x).readFrom = t.readFrom := rfl
@[simp] theorem Team.setV_floor (t : Team) (r i : Nat) (x : Word) : (t.setV r i x).floor = t.floor := rfl
@[simp] theorem Team.setV_seqno (t : Team) (r i : Nat) (x : Word) : (t.setV r i x).seqno = t.seqno := rfl
@[simp] theorem Team.setV_resv (t : Team) (r i : Nat) (x : Word) : (t.setV r i x).resv = t.resv := rfl
@[simp] theorem Team.setV_popped (t : Team) (r i : Nat) (x : Word) : (t.setV r i x).popped = t.popped := rfl
@[simp] theorem Team.setV_retained (t : Team) (r i : Nat) (x : Word) : (t.setV r i x).retained = t.retained := rfl
@[simp] theorem Team.setV_snap (t : Team) (r i : Nat) (x : Word) : (t.setV r i x).snap = t.snap := rfl

/-! `Team.setX` -/
@[simp] theorem Team.setX_key (t : Team) (k i : Nat) (x : DWord) : (t.setX k i x).key = t.key := rfl
@[simp] theorem Team.setX_launch (t : Team) (k i : Nat) (x : DWord) : (t.setX k i x).launch = t.launch := rfl
@[simp] theorem Team.setX_blk (t : Team) (k i : Nat) (x : DWord) : (t.setX k i x).blk = t.blk := rfl
@[simp] theorem Team.setX_idx (t : Team) (k i : Nat) (x : DWord) : (t.setX k i x).idx = t.idx := rfl
@[simp] theorem Team.setX_core (t : Team) (k i : Nat) (x : DWord) : (t.setX k i x).core = t.core := rfl
@[simp] theorem Team.setX_quarter (t : Team) (k i : Nat) (x : DWord) : (t.setX k i x).quarter = t.quarter := rfl
@[simp] theorem Team.setX_lanes (t : Team) (k i : Nat) (x : DWord) : (t.setX k i x).lanes = t.lanes := rfl
@[simp] theorem Team.setX_budget (t : Team) (k i : Nat) (x : DWord) : (t.setX k i x).budget = t.budget := rfl
@[simp] theorem Team.setX_gx (t : Team) (k i : Nat) (x : DWord) : (t.setX k i x).gx = t.gx := rfl
@[simp] theorem Team.setX_ga (t : Team) (k i : Nat) (x : DWord) : (t.setX k i x).ga = t.ga := rfl
@[simp] theorem Team.setX_z (t : Team) (k i : Nat) (x : DWord) : (t.setX k i x).z = t.z := rfl
@[simp] theorem Team.setX_pc (t : Team) (k i : Nat) (x : DWord) : (t.setX k i x).pc = t.pc := rfl
@[simp] theorem Team.setX_hdr (t : Team) (k i : Nat) (x : DWord) : (t.setX k i x).hdr = t.hdr := rfl
@[simp] theorem Team.setX_cl (t : Team) (k i : Nat) (x : DWord) : (t.setX k i x).cl = t.cl := rfl
@[simp] theorem Team.setX_wait (t : Team) (k i : Nat) (x : DWord) : (t.setX k i x).wait = t.wait := rfl
@[simp] theorem Team.setX_park (t : Team) (k i : Nat) (x : DWord) : (t.setX k i x).park = t.park := rfl
@[simp] theorem Team.setX_exec (t : Team) (k i : Nat) (x : DWord) : (t.setX k i x).exec = t.exec := rfl
@[simp] theorem Team.setX_m (t : Team) (k i : Nat) (x : DWord) : (t.setX k i x).m = t.m := rfl
@[simp] theorem Team.setX_s (t : Team) (k i : Nat) (x : DWord) : (t.setX k i x).s = t.s := rfl
@[simp] theorem Team.setX_v (t : Team) (k i : Nat) (x : DWord) : (t.setX k i x).v = t.v := rfl
@[simp] theorem Team.setX_x (t : Team) (k i : Nat) (x : DWord) : (t.setX k i x).x = put 0 (64 * k + i) x t.x := rfl
@[simp] theorem Team.setX_acc (t : Team) (k i : Nat) (x : DWord) : (t.setX k i x).acc = t.acc := rfl
@[simp] theorem Team.setX_accC (t : Team) (k i : Nat) (x : DWord) : (t.setX k i x).accC = t.accC := rfl
@[simp] theorem Team.setX_h (t : Team) (k i : Nat) (x : DWord) : (t.setX k i x).h = t.h := rfl
@[simp] theorem Team.setX_reserved (t : Team) (k i : Nat) (x : DWord) : (t.setX k i x).reserved = t.reserved := rfl
@[simp] theorem Team.setX_lc (t : Team) (k i : Nat) (x : DWord) : (t.setX k i x).lc = t.lc := rfl
@[simp] theorem Team.setX_ac (t : Team) (k i : Nat) (x : DWord) : (t.setX k i x).ac = t.ac := rfl
@[simp] theorem Team.setX_mc (t : Team) (k i : Nat) (x : DWord) : (t.setX k i x).mc = t.mc := rfl
@[simp] theorem Team.setX_xc (t : Team) (k i : Nat) (x : DWord) : (t.setX k i x).xc = t.xc := rfl
@[simp] theorem Team.setX_tc (t : Team) (k i : Nat) (x : DWord) : (t.setX k i x).tc = t.tc := rfl
@[simp] theorem Team.setX_status (t : Team) (k i : Nat) (x : DWord) : (t.setX k i x).status = t.status := rfl
@[simp] theorem Team.setX_rm (t : Team) (k i : Nat) (x : DWord) : (t.setX k i x).rm = t.rm := rfl
@[simp] theorem Team.setX_seed (t : Team) (k i : Nat) (x : DWord) : (t.setX k i x).seed = t.seed := rfl
@[simp] theorem Team.setX_spos (t : Team) (k i : Nat) (x : DWord) : (t.setX k i x).spos = t.spos := rfl
@[simp] theorem Team.setX_clkhi (t : Team) (k i : Nat) (x : DWord) : (t.setX k i x).clkhi = t.clkhi := rfl
@[simp] theorem Team.setX_mstat (t : Team) (k i : Nat) (x : DWord) : (t.setX k i x).mstat = t.mstat := rfl
@[simp] theorem Team.setX_cause (t : Team) (k i : Nat) (x : DWord) : (t.setX k i x).cause = t.cause := rfl
@[simp] theorem Team.setX_epc (t : Team) (k i : Nat) (x : DWord) : (t.setX k i x).epc = t.epc := rfl
@[simp] theorem Team.setX_eia (t : Team) (k i : Nat) (x : DWord) : (t.setX k i x).eia = t.eia := rfl
@[simp] theorem Team.setX_elane (t : Team) (k i : Nat) (x : DWord) : (t.setX k i x).elane = t.elane := rfl
@[simp] theorem Team.setX_einfo (t : Team) (k i : Nat) (x : DWord) : (t.setX k i x).einfo = t.einfo := rfl
@[simp] theorem Team.setX_priv (t : Team) (k i : Nat) (x : DWord) : (t.setX k i x).priv = t.priv := rfl
@[simp] theorem Team.setX_savex (t : Team) (k i : Nat) (x : DWord) : (t.setX k i x).savex = t.savex := rfl
@[simp] theorem Team.setX_ehdr (t : Team) (k i : Nat) (x : DWord) : (t.setX k i x).ehdr = t.ehdr := rfl
@[simp] theorem Team.setX_depth (t : Team) (k i : Nat) (x : DWord) : (t.setX k i x).depth = t.depth := rfl
@[simp] theorem Team.setX_crec (t : Team) (k i : Nat) (x : DWord) : (t.setX k i x).crec = t.crec := rfl
@[simp] theorem Team.setX_ctop (t : Team) (k i : Nat) (x : DWord) : (t.setX k i x).ctop = t.ctop := rfl
@[simp] theorem Team.setX_ptop (t : Team) (k i : Nat) (x : DWord) : (t.setX k i x).ptop = t.ptop := rfl
@[simp] theorem Team.setX_spill (t : Team) (k i : Nat) (x : DWord) : (t.setX k i x).spill = t.spill := rfl
@[simp] theorem Team.setX_dl (t : Team) (k i : Nat) (x : DWord) : (t.setX k i x).dl = t.dl := rfl
@[simp] theorem Team.setX_pend (t : Team) (k i : Nat) (x : DWord) : (t.setX k i x).pend = t.pend := rfl
@[simp] theorem Team.setX_fence (t : Team) (k i : Nat) (x : DWord) : (t.setX k i x).fence = t.fence := rfl
@[simp] theorem Team.setX_batch (t : Team) (k i : Nat) (x : DWord) : (t.setX k i x).batch = t.batch := rfl
@[simp] theorem Team.setX_readSet (t : Team) (k i : Nat) (x : DWord) : (t.setX k i x).readSet = t.readSet := rfl
@[simp] theorem Team.setX_readFrom (t : Team) (k i : Nat) (x : DWord) : (t.setX k i x).readFrom = t.readFrom := rfl
@[simp] theorem Team.setX_floor (t : Team) (k i : Nat) (x : DWord) : (t.setX k i x).floor = t.floor := rfl
@[simp] theorem Team.setX_seqno (t : Team) (k i : Nat) (x : DWord) : (t.setX k i x).seqno = t.seqno := rfl
@[simp] theorem Team.setX_resv (t : Team) (k i : Nat) (x : DWord) : (t.setX k i x).resv = t.resv := rfl
@[simp] theorem Team.setX_popped (t : Team) (k i : Nat) (x : DWord) : (t.setX k i x).popped = t.popped := rfl
@[simp] theorem Team.setX_retained (t : Team) (k i : Nat) (x : DWord) : (t.setX k i x).retained = t.retained := rfl
@[simp] theorem Team.setX_snap (t : Team) (k i : Nat) (x : DWord) : (t.setX k i x).snap = t.snap := rfl

/-! `Team.setAcc` -/
@[simp] theorem Team.setAcc_key (t : Team) (k i j : Nat) (x : BitVec 36) : (t.setAcc k i j x).key = t.key := rfl
@[simp] theorem Team.setAcc_launch (t : Team) (k i j : Nat) (x : BitVec 36) : (t.setAcc k i j x).launch = t.launch := rfl
@[simp] theorem Team.setAcc_blk (t : Team) (k i j : Nat) (x : BitVec 36) : (t.setAcc k i j x).blk = t.blk := rfl
@[simp] theorem Team.setAcc_idx (t : Team) (k i j : Nat) (x : BitVec 36) : (t.setAcc k i j x).idx = t.idx := rfl
@[simp] theorem Team.setAcc_core (t : Team) (k i j : Nat) (x : BitVec 36) : (t.setAcc k i j x).core = t.core := rfl
@[simp] theorem Team.setAcc_quarter (t : Team) (k i j : Nat) (x : BitVec 36) : (t.setAcc k i j x).quarter = t.quarter := rfl
@[simp] theorem Team.setAcc_lanes (t : Team) (k i j : Nat) (x : BitVec 36) : (t.setAcc k i j x).lanes = t.lanes := rfl
@[simp] theorem Team.setAcc_budget (t : Team) (k i j : Nat) (x : BitVec 36) : (t.setAcc k i j x).budget = t.budget := rfl
@[simp] theorem Team.setAcc_gx (t : Team) (k i j : Nat) (x : BitVec 36) : (t.setAcc k i j x).gx = t.gx := rfl
@[simp] theorem Team.setAcc_ga (t : Team) (k i j : Nat) (x : BitVec 36) : (t.setAcc k i j x).ga = t.ga := rfl
@[simp] theorem Team.setAcc_z (t : Team) (k i j : Nat) (x : BitVec 36) : (t.setAcc k i j x).z = t.z := rfl
@[simp] theorem Team.setAcc_pc (t : Team) (k i j : Nat) (x : BitVec 36) : (t.setAcc k i j x).pc = t.pc := rfl
@[simp] theorem Team.setAcc_hdr (t : Team) (k i j : Nat) (x : BitVec 36) : (t.setAcc k i j x).hdr = t.hdr := rfl
@[simp] theorem Team.setAcc_cl (t : Team) (k i j : Nat) (x : BitVec 36) : (t.setAcc k i j x).cl = t.cl := rfl
@[simp] theorem Team.setAcc_wait (t : Team) (k i j : Nat) (x : BitVec 36) : (t.setAcc k i j x).wait = t.wait := rfl
@[simp] theorem Team.setAcc_park (t : Team) (k i j : Nat) (x : BitVec 36) : (t.setAcc k i j x).park = t.park := rfl
@[simp] theorem Team.setAcc_exec (t : Team) (k i j : Nat) (x : BitVec 36) : (t.setAcc k i j x).exec = t.exec := rfl
@[simp] theorem Team.setAcc_m (t : Team) (k i j : Nat) (x : BitVec 36) : (t.setAcc k i j x).m = t.m := rfl
@[simp] theorem Team.setAcc_s (t : Team) (k i j : Nat) (x : BitVec 36) : (t.setAcc k i j x).s = t.s := rfl
@[simp] theorem Team.setAcc_v (t : Team) (k i j : Nat) (x : BitVec 36) : (t.setAcc k i j x).v = t.v := rfl
@[simp] theorem Team.setAcc_x (t : Team) (k i j : Nat) (x : BitVec 36) : (t.setAcc k i j x).x = t.x := rfl
@[simp] theorem Team.setAcc_acc (t : Team) (k i j : Nat) (x : BitVec 36) : (t.setAcc k i j x).acc = put 0 (16384 * k + 256 * i + j) x t.acc := rfl
@[simp] theorem Team.setAcc_accC (t : Team) (k i j : Nat) (x : BitVec 36) : (t.setAcc k i j x).accC = t.accC := rfl
@[simp] theorem Team.setAcc_h (t : Team) (k i j : Nat) (x : BitVec 36) : (t.setAcc k i j x).h = t.h := rfl
@[simp] theorem Team.setAcc_reserved (t : Team) (k i j : Nat) (x : BitVec 36) : (t.setAcc k i j x).reserved = t.reserved := rfl
@[simp] theorem Team.setAcc_lc (t : Team) (k i j : Nat) (x : BitVec 36) : (t.setAcc k i j x).lc = t.lc := rfl
@[simp] theorem Team.setAcc_ac (t : Team) (k i j : Nat) (x : BitVec 36) : (t.setAcc k i j x).ac = t.ac := rfl
@[simp] theorem Team.setAcc_mc (t : Team) (k i j : Nat) (x : BitVec 36) : (t.setAcc k i j x).mc = t.mc := rfl
@[simp] theorem Team.setAcc_xc (t : Team) (k i j : Nat) (x : BitVec 36) : (t.setAcc k i j x).xc = t.xc := rfl
@[simp] theorem Team.setAcc_tc (t : Team) (k i j : Nat) (x : BitVec 36) : (t.setAcc k i j x).tc = t.tc := rfl
@[simp] theorem Team.setAcc_status (t : Team) (k i j : Nat) (x : BitVec 36) : (t.setAcc k i j x).status = t.status := rfl
@[simp] theorem Team.setAcc_rm (t : Team) (k i j : Nat) (x : BitVec 36) : (t.setAcc k i j x).rm = t.rm := rfl
@[simp] theorem Team.setAcc_seed (t : Team) (k i j : Nat) (x : BitVec 36) : (t.setAcc k i j x).seed = t.seed := rfl
@[simp] theorem Team.setAcc_spos (t : Team) (k i j : Nat) (x : BitVec 36) : (t.setAcc k i j x).spos = t.spos := rfl
@[simp] theorem Team.setAcc_clkhi (t : Team) (k i j : Nat) (x : BitVec 36) : (t.setAcc k i j x).clkhi = t.clkhi := rfl
@[simp] theorem Team.setAcc_mstat (t : Team) (k i j : Nat) (x : BitVec 36) : (t.setAcc k i j x).mstat = t.mstat := rfl
@[simp] theorem Team.setAcc_cause (t : Team) (k i j : Nat) (x : BitVec 36) : (t.setAcc k i j x).cause = t.cause := rfl
@[simp] theorem Team.setAcc_epc (t : Team) (k i j : Nat) (x : BitVec 36) : (t.setAcc k i j x).epc = t.epc := rfl
@[simp] theorem Team.setAcc_eia (t : Team) (k i j : Nat) (x : BitVec 36) : (t.setAcc k i j x).eia = t.eia := rfl
@[simp] theorem Team.setAcc_elane (t : Team) (k i j : Nat) (x : BitVec 36) : (t.setAcc k i j x).elane = t.elane := rfl
@[simp] theorem Team.setAcc_einfo (t : Team) (k i j : Nat) (x : BitVec 36) : (t.setAcc k i j x).einfo = t.einfo := rfl
@[simp] theorem Team.setAcc_priv (t : Team) (k i j : Nat) (x : BitVec 36) : (t.setAcc k i j x).priv = t.priv := rfl
@[simp] theorem Team.setAcc_savex (t : Team) (k i j : Nat) (x : BitVec 36) : (t.setAcc k i j x).savex = t.savex := rfl
@[simp] theorem Team.setAcc_ehdr (t : Team) (k i j : Nat) (x : BitVec 36) : (t.setAcc k i j x).ehdr = t.ehdr := rfl
@[simp] theorem Team.setAcc_depth (t : Team) (k i j : Nat) (x : BitVec 36) : (t.setAcc k i j x).depth = t.depth := rfl
@[simp] theorem Team.setAcc_crec (t : Team) (k i j : Nat) (x : BitVec 36) : (t.setAcc k i j x).crec = t.crec := rfl
@[simp] theorem Team.setAcc_ctop (t : Team) (k i j : Nat) (x : BitVec 36) : (t.setAcc k i j x).ctop = t.ctop := rfl
@[simp] theorem Team.setAcc_ptop (t : Team) (k i j : Nat) (x : BitVec 36) : (t.setAcc k i j x).ptop = t.ptop := rfl
@[simp] theorem Team.setAcc_spill (t : Team) (k i j : Nat) (x : BitVec 36) : (t.setAcc k i j x).spill = t.spill := rfl
@[simp] theorem Team.setAcc_dl (t : Team) (k i j : Nat) (x : BitVec 36) : (t.setAcc k i j x).dl = t.dl := rfl
@[simp] theorem Team.setAcc_pend (t : Team) (k i j : Nat) (x : BitVec 36) : (t.setAcc k i j x).pend = t.pend := rfl
@[simp] theorem Team.setAcc_fence (t : Team) (k i j : Nat) (x : BitVec 36) : (t.setAcc k i j x).fence = t.fence := rfl
@[simp] theorem Team.setAcc_batch (t : Team) (k i j : Nat) (x : BitVec 36) : (t.setAcc k i j x).batch = t.batch := rfl
@[simp] theorem Team.setAcc_readSet (t : Team) (k i j : Nat) (x : BitVec 36) : (t.setAcc k i j x).readSet = t.readSet := rfl
@[simp] theorem Team.setAcc_readFrom (t : Team) (k i j : Nat) (x : BitVec 36) : (t.setAcc k i j x).readFrom = t.readFrom := rfl
@[simp] theorem Team.setAcc_floor (t : Team) (k i j : Nat) (x : BitVec 36) : (t.setAcc k i j x).floor = t.floor := rfl
@[simp] theorem Team.setAcc_seqno (t : Team) (k i j : Nat) (x : BitVec 36) : (t.setAcc k i j x).seqno = t.seqno := rfl
@[simp] theorem Team.setAcc_resv (t : Team) (k i j : Nat) (x : BitVec 36) : (t.setAcc k i j x).resv = t.resv := rfl
@[simp] theorem Team.setAcc_popped (t : Team) (k i j : Nat) (x : BitVec 36) : (t.setAcc k i j x).popped = t.popped := rfl
@[simp] theorem Team.setAcc_retained (t : Team) (k i j : Nat) (x : BitVec 36) : (t.setAcc k i j x).retained = t.retained := rfl
@[simp] theorem Team.setAcc_snap (t : Team) (k i j : Nat) (x : BitVec 36) : (t.setAcc k i j x).snap = t.snap := rfl

/-! `Team.flag` -/
@[simp] theorem Team.flag_key (t : Team) (b : Word) : (t.flag b).key = t.key := rfl
@[simp] theorem Team.flag_launch (t : Team) (b : Word) : (t.flag b).launch = t.launch := rfl
@[simp] theorem Team.flag_blk (t : Team) (b : Word) : (t.flag b).blk = t.blk := rfl
@[simp] theorem Team.flag_idx (t : Team) (b : Word) : (t.flag b).idx = t.idx := rfl
@[simp] theorem Team.flag_core (t : Team) (b : Word) : (t.flag b).core = t.core := rfl
@[simp] theorem Team.flag_quarter (t : Team) (b : Word) : (t.flag b).quarter = t.quarter := rfl
@[simp] theorem Team.flag_lanes (t : Team) (b : Word) : (t.flag b).lanes = t.lanes := rfl
@[simp] theorem Team.flag_budget (t : Team) (b : Word) : (t.flag b).budget = t.budget := rfl
@[simp] theorem Team.flag_gx (t : Team) (b : Word) : (t.flag b).gx = t.gx := rfl
@[simp] theorem Team.flag_ga (t : Team) (b : Word) : (t.flag b).ga = t.ga := rfl
@[simp] theorem Team.flag_z (t : Team) (b : Word) : (t.flag b).z = t.z := rfl
@[simp] theorem Team.flag_pc (t : Team) (b : Word) : (t.flag b).pc = t.pc := rfl
@[simp] theorem Team.flag_hdr (t : Team) (b : Word) : (t.flag b).hdr = t.hdr := rfl
@[simp] theorem Team.flag_cl (t : Team) (b : Word) : (t.flag b).cl = t.cl := rfl
@[simp] theorem Team.flag_wait (t : Team) (b : Word) : (t.flag b).wait = t.wait := rfl
@[simp] theorem Team.flag_park (t : Team) (b : Word) : (t.flag b).park = t.park := rfl
@[simp] theorem Team.flag_exec (t : Team) (b : Word) : (t.flag b).exec = t.exec := rfl
@[simp] theorem Team.flag_m (t : Team) (b : Word) : (t.flag b).m = t.m := rfl
@[simp] theorem Team.flag_s (t : Team) (b : Word) : (t.flag b).s = t.s := rfl
@[simp] theorem Team.flag_v (t : Team) (b : Word) : (t.flag b).v = t.v := rfl
@[simp] theorem Team.flag_x (t : Team) (b : Word) : (t.flag b).x = t.x := rfl
@[simp] theorem Team.flag_acc (t : Team) (b : Word) : (t.flag b).acc = t.acc := rfl
@[simp] theorem Team.flag_accC (t : Team) (b : Word) : (t.flag b).accC = t.accC := rfl
@[simp] theorem Team.flag_h (t : Team) (b : Word) : (t.flag b).h = t.h := rfl
@[simp] theorem Team.flag_reserved (t : Team) (b : Word) : (t.flag b).reserved = t.reserved := rfl
@[simp] theorem Team.flag_lc (t : Team) (b : Word) : (t.flag b).lc = t.lc := rfl
@[simp] theorem Team.flag_ac (t : Team) (b : Word) : (t.flag b).ac = t.ac := rfl
@[simp] theorem Team.flag_mc (t : Team) (b : Word) : (t.flag b).mc = t.mc := rfl
@[simp] theorem Team.flag_xc (t : Team) (b : Word) : (t.flag b).xc = t.xc := rfl
@[simp] theorem Team.flag_tc (t : Team) (b : Word) : (t.flag b).tc = t.tc := rfl
@[simp] theorem Team.flag_status (t : Team) (b : Word) : (t.flag b).status = t.status ||| b := rfl
@[simp] theorem Team.flag_rm (t : Team) (b : Word) : (t.flag b).rm = t.rm := rfl
@[simp] theorem Team.flag_seed (t : Team) (b : Word) : (t.flag b).seed = t.seed := rfl
@[simp] theorem Team.flag_spos (t : Team) (b : Word) : (t.flag b).spos = t.spos := rfl
@[simp] theorem Team.flag_clkhi (t : Team) (b : Word) : (t.flag b).clkhi = t.clkhi := rfl
@[simp] theorem Team.flag_mstat (t : Team) (b : Word) : (t.flag b).mstat = t.mstat := rfl
@[simp] theorem Team.flag_cause (t : Team) (b : Word) : (t.flag b).cause = t.cause := rfl
@[simp] theorem Team.flag_epc (t : Team) (b : Word) : (t.flag b).epc = t.epc := rfl
@[simp] theorem Team.flag_eia (t : Team) (b : Word) : (t.flag b).eia = t.eia := rfl
@[simp] theorem Team.flag_elane (t : Team) (b : Word) : (t.flag b).elane = t.elane := rfl
@[simp] theorem Team.flag_einfo (t : Team) (b : Word) : (t.flag b).einfo = t.einfo := rfl
@[simp] theorem Team.flag_priv (t : Team) (b : Word) : (t.flag b).priv = t.priv := rfl
@[simp] theorem Team.flag_savex (t : Team) (b : Word) : (t.flag b).savex = t.savex := rfl
@[simp] theorem Team.flag_ehdr (t : Team) (b : Word) : (t.flag b).ehdr = t.ehdr := rfl
@[simp] theorem Team.flag_depth (t : Team) (b : Word) : (t.flag b).depth = t.depth := rfl
@[simp] theorem Team.flag_crec (t : Team) (b : Word) : (t.flag b).crec = t.crec := rfl
@[simp] theorem Team.flag_ctop (t : Team) (b : Word) : (t.flag b).ctop = t.ctop := rfl
@[simp] theorem Team.flag_ptop (t : Team) (b : Word) : (t.flag b).ptop = t.ptop := rfl
@[simp] theorem Team.flag_spill (t : Team) (b : Word) : (t.flag b).spill = t.spill := rfl
@[simp] theorem Team.flag_dl (t : Team) (b : Word) : (t.flag b).dl = t.dl := rfl
@[simp] theorem Team.flag_pend (t : Team) (b : Word) : (t.flag b).pend = t.pend := rfl
@[simp] theorem Team.flag_fence (t : Team) (b : Word) : (t.flag b).fence = t.fence := rfl
@[simp] theorem Team.flag_batch (t : Team) (b : Word) : (t.flag b).batch = t.batch := rfl
@[simp] theorem Team.flag_readSet (t : Team) (b : Word) : (t.flag b).readSet = t.readSet := rfl
@[simp] theorem Team.flag_readFrom (t : Team) (b : Word) : (t.flag b).readFrom = t.readFrom := rfl
@[simp] theorem Team.flag_floor (t : Team) (b : Word) : (t.flag b).floor = t.floor := rfl
@[simp] theorem Team.flag_seqno (t : Team) (b : Word) : (t.flag b).seqno = t.seqno := rfl
@[simp] theorem Team.flag_resv (t : Team) (b : Word) : (t.flag b).resv = t.resv := rfl
@[simp] theorem Team.flag_popped (t : Team) (b : Word) : (t.flag b).popped = t.popped := rfl
@[simp] theorem Team.flag_retained (t : Team) (b : Word) : (t.flag b).retained = t.retained := rfl
@[simp] theorem Team.flag_snap (t : Team) (b : Word) : (t.flag b).snap = t.snap := rfl

/-! `Team.endClause` -/
@[simp] theorem Team.endClause_key (t : Team) (c : Clause) : (t.endClause c).key = t.key := rfl
@[simp] theorem Team.endClause_launch (t : Team) (c : Clause) : (t.endClause c).launch = t.launch := rfl
@[simp] theorem Team.endClause_blk (t : Team) (c : Clause) : (t.endClause c).blk = t.blk := rfl
@[simp] theorem Team.endClause_idx (t : Team) (c : Clause) : (t.endClause c).idx = t.idx := rfl
@[simp] theorem Team.endClause_core (t : Team) (c : Clause) : (t.endClause c).core = t.core := rfl
@[simp] theorem Team.endClause_quarter (t : Team) (c : Clause) : (t.endClause c).quarter = t.quarter := rfl
@[simp] theorem Team.endClause_lanes (t : Team) (c : Clause) : (t.endClause c).lanes = t.lanes := rfl
@[simp] theorem Team.endClause_budget (t : Team) (c : Clause) : (t.endClause c).budget = t.budget := rfl
@[simp] theorem Team.endClause_gx (t : Team) (c : Clause) : (t.endClause c).gx = t.gx := rfl
@[simp] theorem Team.endClause_ga (t : Team) (c : Clause) : (t.endClause c).ga = t.ga := rfl
@[simp] theorem Team.endClause_z (t : Team) (c : Clause) : (t.endClause c).z = t.z := rfl
@[simp] theorem Team.endClause_pc (t : Team) (c : Clause) : (t.endClause c).pc = c.after := rfl
@[simp] theorem Team.endClause_hdr (t : Team) (c : Clause) : (t.endClause c).hdr = none := rfl
@[simp] theorem Team.endClause_cl (t : Team) (c : Clause) : (t.endClause c).cl = none := rfl
@[simp] theorem Team.endClause_wait (t : Team) (c : Clause) : (t.endClause c).wait = t.wait := rfl
@[simp] theorem Team.endClause_park (t : Team) (c : Clause) : (t.endClause c).park = c.sw := rfl
@[simp] theorem Team.endClause_exec (t : Team) (c : Clause) : (t.endClause c).exec = t.exec := rfl
@[simp] theorem Team.endClause_m (t : Team) (c : Clause) : (t.endClause c).m = t.m := rfl
@[simp] theorem Team.endClause_s (t : Team) (c : Clause) : (t.endClause c).s = t.s := rfl
@[simp] theorem Team.endClause_v (t : Team) (c : Clause) : (t.endClause c).v = t.v := rfl
@[simp] theorem Team.endClause_x (t : Team) (c : Clause) : (t.endClause c).x = t.x := rfl
@[simp] theorem Team.endClause_acc (t : Team) (c : Clause) : (t.endClause c).acc = t.acc := rfl
@[simp] theorem Team.endClause_accC (t : Team) (c : Clause) : (t.endClause c).accC = t.accC := rfl
@[simp] theorem Team.endClause_h (t : Team) (c : Clause) : (t.endClause c).h = t.h := rfl
@[simp] theorem Team.endClause_reserved (t : Team) (c : Clause) : (t.endClause c).reserved = t.reserved := rfl
@[simp] theorem Team.endClause_lc (t : Team) (c : Clause) : (t.endClause c).lc = t.lc := rfl
@[simp] theorem Team.endClause_ac (t : Team) (c : Clause) : (t.endClause c).ac = t.ac := rfl
@[simp] theorem Team.endClause_mc (t : Team) (c : Clause) : (t.endClause c).mc = t.mc := rfl
@[simp] theorem Team.endClause_xc (t : Team) (c : Clause) : (t.endClause c).xc = t.xc := rfl
@[simp] theorem Team.endClause_tc (t : Team) (c : Clause) : (t.endClause c).tc = t.tc := rfl
@[simp] theorem Team.endClause_status (t : Team) (c : Clause) : (t.endClause c).status = t.status := rfl
@[simp] theorem Team.endClause_rm (t : Team) (c : Clause) : (t.endClause c).rm = t.rm := rfl
@[simp] theorem Team.endClause_seed (t : Team) (c : Clause) : (t.endClause c).seed = t.seed := rfl
@[simp] theorem Team.endClause_spos (t : Team) (c : Clause) : (t.endClause c).spos = t.spos := rfl
@[simp] theorem Team.endClause_clkhi (t : Team) (c : Clause) : (t.endClause c).clkhi = t.clkhi := rfl
@[simp] theorem Team.endClause_mstat (t : Team) (c : Clause) : (t.endClause c).mstat = t.mstat := rfl
@[simp] theorem Team.endClause_cause (t : Team) (c : Clause) : (t.endClause c).cause = t.cause := rfl
@[simp] theorem Team.endClause_epc (t : Team) (c : Clause) : (t.endClause c).epc = t.epc := rfl
@[simp] theorem Team.endClause_eia (t : Team) (c : Clause) : (t.endClause c).eia = t.eia := rfl
@[simp] theorem Team.endClause_elane (t : Team) (c : Clause) : (t.endClause c).elane = t.elane := rfl
@[simp] theorem Team.endClause_einfo (t : Team) (c : Clause) : (t.endClause c).einfo = t.einfo := rfl
@[simp] theorem Team.endClause_priv (t : Team) (c : Clause) : (t.endClause c).priv = t.priv := rfl
@[simp] theorem Team.endClause_savex (t : Team) (c : Clause) : (t.endClause c).savex = t.savex := rfl
@[simp] theorem Team.endClause_ehdr (t : Team) (c : Clause) : (t.endClause c).ehdr = t.ehdr := rfl
@[simp] theorem Team.endClause_depth (t : Team) (c : Clause) : (t.endClause c).depth = t.depth := rfl
@[simp] theorem Team.endClause_crec (t : Team) (c : Clause) : (t.endClause c).crec = t.crec := rfl
@[simp] theorem Team.endClause_ctop (t : Team) (c : Clause) : (t.endClause c).ctop = t.ctop := rfl
@[simp] theorem Team.endClause_ptop (t : Team) (c : Clause) : (t.endClause c).ptop = t.ptop := rfl
@[simp] theorem Team.endClause_spill (t : Team) (c : Clause) : (t.endClause c).spill = t.spill := rfl
@[simp] theorem Team.endClause_dl (t : Team) (c : Clause) : (t.endClause c).dl = t.dl := rfl
@[simp] theorem Team.endClause_pend (t : Team) (c : Clause) : (t.endClause c).pend = t.pend := rfl
@[simp] theorem Team.endClause_fence (t : Team) (c : Clause) : (t.endClause c).fence = t.fence := rfl
@[simp] theorem Team.endClause_batch (t : Team) (c : Clause) : (t.endClause c).batch = t.batch := rfl
@[simp] theorem Team.endClause_readSet (t : Team) (c : Clause) : (t.endClause c).readSet = t.readSet := rfl
@[simp] theorem Team.endClause_readFrom (t : Team) (c : Clause) : (t.endClause c).readFrom = t.readFrom := rfl
@[simp] theorem Team.endClause_floor (t : Team) (c : Clause) : (t.endClause c).floor = t.floor := rfl
@[simp] theorem Team.endClause_seqno (t : Team) (c : Clause) : (t.endClause c).seqno = t.seqno := rfl
@[simp] theorem Team.endClause_resv (t : Team) (c : Clause) : (t.endClause c).resv = t.resv := rfl
@[simp] theorem Team.endClause_popped (t : Team) (c : Clause) : (t.endClause c).popped = t.popped := rfl
@[simp] theorem Team.endClause_retained (t : Team) (c : Clause) : (t.endClause c).retained = t.retained := rfl
@[simp] theorem Team.endClause_snap (t : Team) (c : Clause) : (t.endClause c).snap = t.snap := rfl

end Sys2Proof.Machine
end

