-- ==== Sys2Proof/Laws/Tables.lean ====
section
/-!
SUPPORT. Tables in canonical form: a read after a write, and the form kept by every operation; the same for byte spaces and spill areas.
-/
namespace Sys2Proof.Machine

/-! ### Reads after writes -/

@[simp] theorem look_nil {α : Type} (d : α) (k : Nat) : look d k [] = d := rfl

theorem look_wipe_self {α : Type} (d : α) (k : Nat) (t : List (Nat × α)) : look d k (wipe k t) = d := by
  induction t with
  | nil => rfl
  | cons p r ih =>
    by_cases h : p.1 = k
    · simp [wipe, h, ih]
    · simp [wipe, look, h, ih]

theorem look_wipe_ne {α : Type} (d : α) {j k : Nat} (h : j ≠ k) (t : List (Nat × α)) : look d j (wipe k t) = look d j t := by
  induction t with
  | nil => rfl
  | cons p r ih =>
    by_cases hk : p.1 = k
    · simp [wipe, look, hk, ih, Ne.symm h]
    · by_cases hj : p.1 = j
      · simp [wipe, look, hj, h]
      · simp [wipe, look, hk, hj, ih]

theorem look_place_self {α : Type} (d : α) (k : Nat) (v : α) (t : List (Nat × α)) : look d k (place k v (wipe k t)) = v := by
  induction t with
  | nil => simp [wipe, place, look]
  | cons p r ih =>
    by_cases h : p.1 = k
    · simp [wipe, h, ih]
    · by_cases hl : k < p.1
      · simp [wipe, h, place, hl, look]
      · simp [wipe, h, place, hl, look, ih]

theorem look_place_ne {α : Type} (d : α) {j k : Nat} (h : j ≠ k) (v : α) (t : List (Nat × α)) :
    look d j (place k v t) = look d j t := by
  induction t with
  | nil => simp [place, look, Ne.symm h]
  | cons p r ih =>
    by_cases hl : k < p.1
    · simp [place, hl, look, Ne.symm h]
    · rw [place, if_neg hl]
      by_cases hj : p.1 = j
      · simp [look, hj]
      · simp [look, hj, ih]

/-- A read after a write: the value written at its key, the old value elsewhere. -/
theorem look_put {α : Type} [DecidableEq α] (d : α) (j k : Nat) (v : α) (t : List (Nat × α)) :
    look d j (put d k v t) = if j = k then v else look d j t := by
  by_cases h : j = k
  · subst h
    by_cases hv : v = d
    · simp [put, hv, look_wipe_self]
    · simp [put, hv, look_place_self]
  · by_cases hv : v = d
    · simp [put, hv, h, look_wipe_ne d h]
    · simp [put, hv, h, look_place_ne d h, look_wipe_ne d h]

@[simp] theorem look_put_self {α : Type} [DecidableEq α] (d : α) (k : Nat) (v : α) (t : List (Nat × α)) :
    look d k (put d k v t) = v := by simp [look_put]

theorem look_put_ne {α : Type} [DecidableEq α] (d : α) {j k : Nat} (h : j ≠ k) (v : α) (t : List (Nat × α)) :
    look d j (put d k v t) = look d j t := by simp [look_put, h]

/-! ### The canonical form -/

theorem canonFrom_le {α : Type} [DecidableEq α] {d : α} {lo hi : Nat} (h : lo ≤ hi) {t : List (Nat × α)}
    (ht : canonFrom d hi t = true) : canonFrom d lo t = true := by
  cases t with
  | nil => rfl
  | cons p r =>
    simp only [canonFrom, Bool.and_eq_true, decide_eq_true_eq] at ht ⊢
    exact ⟨⟨by omega, ht.1.2⟩, ht.2⟩

theorem canonFrom_wipe {α : Type} [DecidableEq α] {d : α} (k : Nat) {lo : Nat} {t : List (Nat × α)}
    (ht : canonFrom d lo t = true) : canonFrom d lo (wipe k t) = true := by
  induction t generalizing lo with
  | nil => rfl
  | cons p r ih =>
    simp only [canonFrom, Bool.and_eq_true, decide_eq_true_eq] at ht
    by_cases h : p.1 = k
    · simp only [wipe, h, beq_self_eq_true, if_true]
      exact ih (canonFrom_le (by omega) ht.2)
    · simp only [wipe, beq_eq_false_iff_ne.mpr h, Bool.false_eq_true, if_false, canonFrom, Bool.and_eq_true, decide_eq_true_eq]
      exact ⟨ht.1, ih ht.2⟩

theorem wipe_absent {α : Type} (k : Nat) (t : List (Nat × α)) : ∀ p ∈ wipe k t, p.1 ≠ k := by
  induction t with
  | nil => simp [wipe]
  | cons p r ih =>
    by_cases h : p.1 = k
    · simpa [wipe, h] using ih
    · simpa [wipe, h] using ih

theorem canonFrom_place {α : Type} [DecidableEq α] {d : α} {k : Nat} {v : α} (hv : v ≠ d) {lo : Nat} (hk : lo ≤ k)
    {t : List (Nat × α)} (ha : ∀ p ∈ t, p.1 ≠ k) (ht : canonFrom d lo t = true) : canonFrom d lo (place k v t) = true := by
  induction t generalizing lo with
  | nil => simp [place, canonFrom, hv, hk]
  | cons p r ih =>
    have hp : p.1 ≠ k := ha p (by simp)
    simp only [canonFrom, Bool.and_eq_true, decide_eq_true_eq] at ht
    by_cases hl : k < p.1
    · simp only [place, hl, if_true, canonFrom, Bool.and_eq_true, decide_eq_true_eq]
      exact ⟨⟨hk, hv⟩, ⟨by omega, ht.1.2⟩, ht.2⟩
    · simp only [place, hl, if_false, canonFrom, Bool.and_eq_true, decide_eq_true_eq]
      exact ⟨ht.1, ih (by omega) (fun q hq => ha q (by simp [hq])) ht.2⟩

theorem canon_put {α : Type} [DecidableEq α] {d : α} (k : Nat) (v : α) {t : List (Nat × α)} (ht : canon d t = true) :
    canon d (put d k v t) = true := by
  unfold canon at *
  by_cases hv : v = d
  · simpa [put, hv] using canonFrom_wipe k ht
  · simpa [put, hv] using canonFrom_place hv (Nat.zero_le k) (wipe_absent k t) (canonFrom_wipe k ht)

theorem canon_wipe {α : Type} [DecidableEq α] {d : α} (k : Nat) {t : List (Nat × α)} (ht : canon d t = true) :
    canon d (wipe k t) = true := canonFrom_wipe k ht

/-! ### Byte spaces -/

theorem Space.wf_iff (m : Space) : m.wf = true ↔ canon 0 m.cells = true ∧ canon [] m.hist = true ∧ canon none m.lines = true := by
  simp [Space.wf, Memory.wf, and_assoc]

theorem Space.write_get (m : Space) (b a x : Nat) (v : Byte) : (m.write b a v).get x = if x = a then v else m.get x := by
  simp [Space.write, Space.get, look_put]

theorem Space.init_get (m : Space) (a x : Nat) (v : Byte) : (m.init a v).get x = if x = a then v else m.get x := by
  simp [Space.init, Space.get, look_put]

/-- Bytes written from `a` on: the byte at its place, the old byte outside. -/
theorem Space.writes_get (b : Nat) (bs : List Byte) : ∀ (m : Space) (a x : Nat),
    (m.writes b a bs).get x = if a ≤ x ∧ x < a + bs.length then bs.getD (x - a) 0 else m.get x := by
  induction bs with
  | nil => intro m a x; simp [Space.writes]
  | cons v r ih =>
    intro m a x
    rw [Space.writes, ih, Space.write_get]
    by_cases h : x = a
    · subst h; simp
    · by_cases h1 : a + 1 ≤ x
      · obtain ⟨n, hn⟩ : ∃ n, x - a = n + 1 := ⟨x - a - 1, by omega⟩
        have : x - (a + 1) = n := by omega
        simp only [List.length_cons, hn, List.getD_cons_succ, this, h, if_false]
        by_cases h2 : x < a + 1 + r.length
        · simp [h1, h2, show a ≤ x by omega, show x < a + (r.length + 1) by omega]
        · simp [h2, show ¬ x < a + (r.length + 1) by omega]
      · simp [h1, h, show ¬ a ≤ x by omega]

theorem Space.wf_write {m : Space} (h : m.wf = true) (b a : Nat) (v : Byte) : (m.write b a v).wf = true := by
  rw [Space.wf_iff] at h ⊢
  exact ⟨canon_put a v h.1, canon_put a ((m.get a, b) :: look [] a m.hist) h.2.1, h.2.2⟩

theorem Space.wf_init {m : Space} (h : m.wf = true) (a : Nat) (v : Byte) : (m.init a v).wf = true := by
  rw [Space.wf_iff] at h ⊢
  exact ⟨canon_put a v h.1, canon_wipe a h.2.1, h.2.2⟩

theorem Space.wf_writes (b : Nat) (bs : List Byte) : ∀ {m : Space}, m.wf = true → ∀ a, (m.writes b a bs).wf = true := by
  induction bs with
  | nil => intro m h a; exact h
  | cons v r ih => intro m h a; exact ih (Space.wf_write h b a v) (a + 1)

theorem Space.wf_inits (bs : List Byte) : ∀ {m : Space}, m.wf = true → ∀ a, (m.inits a bs).wf = true := by
  induction bs with
  | nil => intro m h a; exact h
  | cons v r ih => intro m h a; exact ih (Space.wf_init h a v) (a + 1)

theorem Space.wf_mark {m : Space} (h : m.wf = true) (r : LineRec) (as : List Nat) : (m.mark r as).wf = true := by
  rw [Space.wf_iff] at h ⊢
  refine ⟨h.1, h.2.1, ?_⟩
  suffices ∀ (xs : List Nat) (l : List (Nat × Option LineRec)), canon none l = true →
      canon none (xs.foldl (fun l x => put none x (some r) l) l) = true from this _ _ h.2.2
  intro xs
  induction xs with
  | nil => intro l hl; exact hl
  | cons x xs ih => intro l hl; exact ih _ (canon_put _ _ hl)

/-- Memory at reset lists nothing. -/
theorem reset_memory : Memory.wf State.reset.ten.main.cells = true := rfl

/-! ### Spill areas -/

theorem canon_putSpill (bs : List Byte) : ∀ {m : List Host.Cell}, Memory.wf m = true → ∀ a, Memory.wf (putSpill m a bs) = true := by
  induction bs with
  | nil => intro m h a; exact h
  | cons v r ih => intro m h a; exact ih (canon_put _ _ h) (a + 1)

theorem canon_putBytes (bs : List Byte) : ∀ {m : List Host.Cell}, Memory.wf m = true → ∀ a, Memory.wf (putBytes a bs m) = true := by
  induction bs with
  | nil => intro m h a; exact h
  | cons v r ih => intro m h a; exact ih (canon_put _ _ h) (a + 1)

theorem look_putSpill (bs : List Byte) : ∀ (m : List Host.Cell) (a x : Nat),
    look 0 x (putSpill m a bs) = if a ≤ x ∧ x < a + bs.length then bs.getD (x - a) 0 else look 0 x m := by
  induction bs with
  | nil => intro m a x; simp [putSpill]
  | cons v r ih =>
    intro m a x
    rw [putSpill, ih, look_put]
    by_cases h : x = a
    · subst h; simp
    · by_cases h1 : a + 1 ≤ x
      · obtain ⟨n, hn⟩ : ∃ n, x - a = n + 1 := ⟨x - a - 1, by omega⟩
        have : x - (a + 1) = n := by omega
        simp only [List.length_cons, hn, List.getD_cons_succ, this, h, if_false]
        by_cases h2 : x < a + 1 + r.length
        · simp [h1, h2, show a ≤ x by omega, show x < a + (r.length + 1) by omega]
        · simp [h2, show ¬ x < a + (r.length + 1) by omega]
      · simp [h1, h, show ¬ a ≤ x by omega]

theorem putBytes_eq (bs : List Byte) : ∀ (m : List Host.Cell) (a : Nat), putBytes a bs m = putSpill m a bs := by
  induction bs with
  | nil => intro m a; rfl
  | cons v r ih => intro m a; exact ih _ _

end Sys2Proof.Machine
end

