-- ==== Sys2Proof/Laws/Issue.lean ====
section
/-!
SUPPORT. Everything that the issue of an instruction and of a terminator can do, and what writes of lanes do to the register file.
-/
namespace Sys2Proof.Machine

/-! ### The four outcomes of an issue -/

/-- An instruction whose checks all pass has its effect and retires. -/
theorem issue_ok {i : Instr} {slot : Slot} {chk : State → Option Stop} {eff : State → State} {s : State} {c : Clause}
    (hc : s.team.cl = some c) (hd : words i ≤ s.team.dl) (hw : i.wf = true) (hk : chk s = none) :
    issue i slot chk eff s = .next ((eff (s.countIssue slot)).onTeam fun t => t.retire c (words i)) := by
  simp [issue, hc, hw, hk, Nat.not_lt.mpr hd]

theorem issue_stop {i : Instr} {slot : Slot} {chk : State → Option Stop} {eff : State → State} {s : State} {c : Clause} {x : Stop}
    (hc : s.team.cl = some c) (hd : words i ≤ s.team.dl) (hw : i.wf = true) (hk : chk s = some x) :
    issue i slot chk eff s = .next (s.stop c x) := by
  simp [issue, hc, hw, hk, Nat.not_lt.mpr hd]

theorem issue_reserved {i : Instr} {slot : Slot} {chk : State → Option Stop} {eff : State → State} {s : State} {c : Clause}
    (hc : s.team.cl = some c) (hd : words i ≤ s.team.dl) (hw : i.wf = false) :
    issue i slot chk eff s = .next (s.stop c (.trap cIllegal subReserved noLane 0)) := by
  simp [issue, hc, hw, Nat.not_lt.mpr hd]

theorem issue_deadline {i : Instr} {slot : Slot} {chk : State → Option Stop} {eff : State → State} {s : State} {c : Clause}
    (hc : s.team.cl = some c) (hd : s.team.dl < words i) :
    issue i slot chk eff s = .next (s.endFault cDeadline 0 c.va 0) := by
  simp [issue, hc, hd]

/-- What an issue answers: it always answers a next state where a clause is latched. -/
theorem issue_cases {i : Instr} {slot : Slot} {chk : State → Option Stop} {eff : State → State} {s t : State}
    (h : issue i slot chk eff s = .next t) : ∃ c, s.team.cl = some c ∧
      (t = s.endFault cDeadline 0 c.va 0 ∨ (∃ x, t = s.stop c x) ∨
        t = (eff (s.countIssue slot)).onTeam fun u => u.retire c (words i)) := by
  unfold issue at h
  split at h
  · cases h
  · next c hc =>
    refine ⟨c, hc, ?_⟩
    split at h
    · cases h; exact .inl rfl
    · split at h
      · split at h
        · cases h; exact .inr (.inl ⟨_, rfl⟩)
        · cases h; exact .inr (.inr rfl)
      · cases h; exact .inr (.inl ⟨_, rfl⟩)

theorem issue_next {i : Instr} {slot : Slot} {chk : State → Option Stop} {eff : State → State} {s : State} {c : Clause}
    (hc : s.team.cl = some c) : ∃ t, issue i slot chk eff s = .next t := by
  unfold issue
  rw [hc]
  dsimp only
  split
  · exact ⟨_, rfl⟩
  · split
    · split <;> exact ⟨_, rfl⟩
    · exact ⟨_, rfl⟩

theorem issueT_ok {i : Instr} {chk : State → Option Stop} {fin : Clause → State → State} {s : State} {c : Clause}
    (hc : s.team.cl = some c) (hd : words i ≤ s.team.dl) (hw : i.wf = true) (hk : chk s = none) :
    issueT i chk fin s = .next (fin c ((s.count 1 1).onTeam fun t => { t with dl := t.dl - words i }.endClause c)) := by
  simp [issueT, hc, hw, hk, Nat.not_lt.mpr hd]

theorem issueT_stop {i : Instr} {chk : State → Option Stop} {fin : Clause → State → State} {s : State} {c : Clause} {x : Stop}
    (hc : s.team.cl = some c) (hd : words i ≤ s.team.dl) (hw : i.wf = true) (hk : chk s = some x) :
    issueT i chk fin s = .next (s.stop c x) := by
  simp [issueT, hc, hw, hk, Nat.not_lt.mpr hd]

theorem issueT_next {i : Instr} {chk : State → Option Stop} {fin : Clause → State → State} {s : State} {c : Clause}
    (hc : s.team.cl = some c) : ∃ t, issueT i chk fin s = .next t := by
  unfold issueT
  rw [hc]
  dsimp only
  split
  · exact ⟨_, rfl⟩
  · split
    · split <;> exact ⟨_, rfl⟩
    · exact ⟨_, rfl⟩

theorem issueT_cases {i : Instr} {chk : State → Option Stop} {fin : Clause → State → State} {s t : State}
    (h : issueT i chk fin s = .next t) : ∃ c, s.team.cl = some c ∧
      (t = s.endFault cDeadline 0 c.va 0 ∨ (∃ x, t = s.stop c x) ∨
        t = fin c ((s.count 1 1).onTeam fun u => { u with dl := u.dl - words i }.endClause c)) := by
  unfold issueT at h
  split at h
  · cases h
  · next c hc =>
    refine ⟨c, hc, ?_⟩
    split at h
    · cases h; exact .inl rfl
    · split at h
      · split at h
        · cases h; exact .inr (.inl ⟨_, rfl⟩)
        · cases h; exact .inr (.inr rfl)
      · cases h; exact .inr (.inl ⟨_, rfl⟩)

/-! ### Counting an issue changes no operand -/

/-- The event and the number that a slot counts (09 R213). -/
def Slot.ev : Slot → Nat
  | .vector => 0
  | .scalar => 1

theorem countIssue_eq (s : State) (sl : Slot) : s.countIssue sl = { s with core := (s.countIssue sl).core } := by cases sl <;> rfl

@[simp] theorem countIssue_team (s : State) (sl : Slot) : (s.countIssue sl).team = s.team := by cases sl <;> rfl
@[simp] theorem countIssue_ten (s : State) (sl : Slot) : (s.countIssue sl).ten = s.ten := by cases sl <;> rfl
@[simp] theorem countIssue_blk (s : State) (sl : Slot) : (s.countIssue sl).blk = s.blk := by cases sl <;> rfl
@[simp] theorem countIssue_ctr (s : State) (sl : Slot) : (s.countIssue sl).ctr = s.ctr := by cases sl <;> rfl
@[simp] theorem countIssue_clk (s : State) (sl : Slot) : (s.countIssue sl).clk = s.clk := by cases sl <;> rfl
@[simp] theorem countIssue_sval (s : State) (sl : Slot) (b : Byte) : (s.countIssue sl).sval b = s.sval b := by cases sl <;> rfl
@[simp] theorem countIssue_sreg (s : State) (sl : Slot) (k : Nat) : (s.countIssue sl).sreg k = s.sreg k := by cases sl <;> rfl
@[simp] theorem countIssue_pairVA (s : State) (sl : Slot) (k : Nat) : (s.countIssue sl).pairVA k = s.pairVA k := by cases sl <;> rfl
@[simp] theorem countIssue_mval (s : State) (sl : Slot) (b : Byte) : (s.countIssue sl).mval b = s.mval b := by cases sl <;> rfl
@[simp] theorem countIssue_mreg (s : State) (sl : Slot) (k : Nat) : (s.countIssue sl).mreg k = s.mreg k := by cases sl <;> rfl
@[simp] theorem countIssue_execv (s : State) (sl : Slot) : (s.countIssue sl).execv = s.execv := by cases sl <;> rfl
@[simp] theorem countIssue_active (s : State) (sl : Slot) : (s.countIssue sl).active = s.active := by cases sl <;> rfl
@[simp] theorem countIssue_acting (s : State) (sl : Slot) : (s.countIssue sl).acting = s.acting := by cases sl <;> rfl
@[simp] theorem countIssue_vreg (s : State) (sl : Slot) (r i : Nat) : (s.countIssue sl).vreg r i = s.vreg r i := by cases sl <;> rfl
@[simp] theorem countIssue_vpair (s : State) (sl : Slot) (r i : Nat) : (s.countIssue sl).vpair r i = s.vpair r i := by cases sl <;> rfl
@[simp] theorem countIssue_rctx (s : State) (sl : Slot) (rm : BitVec 3) : (s.countIssue sl).rctx rm = s.rctx rm := by cases sl <;> rfl
@[simp] theorem countIssue_lane (s : State) (sl : Slot) (o : XOps) (m : Word) (k : Nat) :
    (s.countIssue sl).opA o m k = s.opA o m k ∧ (s.countIssue sl).opB o m k = s.opB o m k ∧ (s.countIssue sl).opC o m k = s.opC o m k := by
  cases sl <;> exact ⟨rfl, rfl, rfl⟩
@[simp] theorem countIssue_launch (s : State) (sl : Slot) : (s.countIssue sl).launch? = s.launch? := by cases sl <;> rfl

/-! ### Reads after writes of one register -/

@[simp] theorem Team.setS_look (t : Team) (k j : Nat) (x : Word) : look 0 j (t.setS k x).s = if j = k then x else look 0 j t.s := by
  simp [look_put]

theorem Team.setM_exec (t : Team) (x : Mask) : (t.setM 16 x).exec = x &&& t.live := rfl

/-- Mask registers and EXEC after a mask write. -/
theorem Team.setM_look (t : Team) (k j : Nat) (x : Mask) (hk : k ≠ 16) :
    look 0 j (t.setM k x).m = (if j = k then x &&& t.live else look 0 j t.m) ∧ (t.setM k x).exec = t.exec := by
  rw [Team.setM, if_neg (by simpa using hk)]
  exact ⟨look_put 0 j k _ t.m, rfl⟩

/-! ### Writes of lanes -/

theorem mem_lanesOf {m : Mask} {n i : Nat} : i ∈ lanesOf m n ↔ i < n ∧ m.getLsbD i = true := by simp [lanesOf]

theorem lane_lt {m : Mask} {i : Nat} (h : m.getLsbD i = true) : i < 1024 := by
  by_contra hc
  rw [BitVec.getLsbD_of_ge m i (Nat.le_of_not_lt hc)] at h
  cases h

theorem acting_lt {s : State} {i : Nat} (h : i ∈ s.acting) : i < 1024 := by
  simp only [State.acting, State.active, State.helpers, List.mem_append, List.mem_filter, mem_lanesOf] at h
  rcases h with h | h
  · exact lane_lt h.2
  · exact lane_lt h.1.2

/-- Lanes of one register written by a function of the lane: the new value in those lanes, the old one everywhere else. -/
theorem Team.look_setLanes (f : Nat → Word) (r : Nat) (ls : List Nat) (hls : ∀ k ∈ ls, k < 1024) :
    ∀ (t : Team) (q l : Nat), l < 1024 →
      look 0 (1024 * q + l) (t.setLanes r (ls.map fun k => (k, f k))).v =
        if q = r ∧ l ∈ ls then f l else look 0 (1024 * q + l) t.v := by
  induction ls with
  | nil => intro t q l _; simp [Team.setLanes]
  | cons k ks ih =>
    intro t q l hl
    have hk : k < 1024 := hls k (by simp)
    have := ih (fun j hj => hls j (by simp [hj])) (t.setV r k (f k)) q l hl
    simp only [Team.setLanes, List.map_cons, List.foldl_cons] at this ⊢
    rw [this, Team.setV_v, look_put]
    by_cases h : q = r ∧ l ∈ ks
    · simp [h.1, h.2]
    · rw [if_neg h]
      by_cases h2 : q = r ∧ l = k
      · simp [h2.1, h2.2]
      · have : ¬(1024 * q + l = 1024 * r + k) := by omega
        have h3 : ¬(q = r ∧ l ∈ k :: ks) := by
          simp only [List.mem_cons]; tauto
        rw [if_neg this, if_neg h3]

/-- Nothing but the vector registers changes. -/
theorem Team.setLanes_eq (r : Nat) (xs : List (Nat × Word)) : ∀ t : Team, t.setLanes r xs = { t with v := (t.setLanes r xs).v } := by
  induction xs with
  | nil => intro t; rfl
  | cons x xs ih =>
    intro t
    have h := ih (t.setV r x.1 x.2)
    simp only [Team.setLanes, List.foldl_cons] at h ⊢
    rw [h]
    simp only [Team.setV]

theorem State.setLanes_ten (s : State) (r : Nat) (xs : List (Nat × Word)) : (s.setLanes r xs).ten = (s.taint [r]).ten := by
  simp only [State.setLanes, State.taint, State.onTeam]
  rw [Team.setLanes_eq]

/-- A per-lane result: every acting lane takes its value, nothing else of the registers changes, Active() lanes set STATUS. -/
theorem State.perLane_team (s : State) (d : Byte) (f : Nat → Word × Word) :
    (s.perLane d f).team = { s.team with
      v := (s.perLane d f).team.v, status := s.team.status ||| flagsOf s.active (s.acting.map fun k => (k, f k)) } := by
  simp only [State.perLane, State.flag_team, State.setLanes_team, Team.flag]
  rw [Team.setLanes_eq]

theorem State.perLane_look (s : State) (d : Byte) (f : Nat → Word × Word) (q l : Nat) (hl : l < 1024) :
    look 0 (1024 * q + l) (s.perLane d f).team.v =
      if q = d.toNat ∧ l ∈ s.acting then (f l).1 else look 0 (1024 * q + l) s.team.v := by
  have h := Team.look_setLanes (fun k => (f k).1) d.toNat s.acting (fun k hk => acting_lt hk) s.team q l hl
  simpa [State.perLane, List.map_map, Function.comp_def] using h

theorem State.perLane_ten (s : State) (d : Byte) (f : Nat → Word × Word) : (s.perLane d f).ten = (s.taint [d.toNat]).ten := by
  simp only [State.perLane, State.flag_ten, State.setLanes_ten]

end Sys2Proof.Machine
end

