-- ==== Sys2Proof/Laws/Roots.lean ====
section
/-!
SUPPORT. The fuses, the rollback counter and the version of the firmware in service through every function of the model: only a firmware
image that is accepted (25 R397) changes one of them.
-/
namespace Sys2Proof.Machine

/-- What the fuses hold and the version of the firmware in service. -/
def State.roots (s : State) : Sparse Remap × Nat × Nat := (s.fuse, s.rollback, s.fwVersion)

theorem State.roots_congr {s t : State} (h1 : t.fuse = s.fuse) (h2 : t.rollback = s.rollback) (h3 : t.fwVersion = s.fwVersion) :
    t.roots = s.roots := by simp [State.roots, h1, h2, h3]

/-- Roots through a fold. -/
theorem foldl_roots {α : Type} {f : State → α → State} (h : ∀ s x, (f s x).roots = s.roots) (l : List α) :
    ∀ s, (l.foldl f s).roots = s.roots := by
  induction l with
  | nil => intro s; rfl
  | cons x xs ih => intro s; rw [List.foldl_cons, ih, h]

/-! ### Focus -/

@[simp] theorem onTeam_roots (s : State) (f : Team → Team) : (s.onTeam f).roots = s.roots := rfl
@[simp] theorem onTen_roots (s : State) (f : Tenant → Tenant) : (s.onTen f).roots = s.roots := rfl
@[simp] theorem stow_roots (s : State) : s.stow.roots = s.roots := rfl
@[simp] theorem stowAll_roots (s : State) : s.stowAll.roots = s.roots := rfl

theorem toTenant_roots {n : Nat} {s t : State} (h : s.toTenant n = some t) : t.roots = s.roots := by
  unfold State.toTenant at h
  split at h
  · cases h; rfl
  · dsimp only at h
    split at h
    · cases h
    · cases h; rfl

theorem openTenant_roots {n : Nat} {s t : State} (h : s.openTenant n = some t) : t.roots = s.roots := by
  simp only [State.openTenant, Option.map_eq_some_iff] at h
  obtain ⟨u, hu, rfl⟩ := h
  exact (stow_roots u).trans (toTenant_roots hu)

theorem toTeam_roots {n k : Nat} {s t : State} (h : s.toTeam n k = some t) : t.roots = s.roots := by
  unfold State.toTeam at h
  split at h
  · cases h; rfl
  · split at h
    · cases h
    · next u hu =>
      split at h
      · cases h
      · split at h
        · cases h; exact (rfl : _ = u.roots).trans (openTenant_roots hu)
        · cases h

theorem atTenant_roots {n : Nat} {f : State → State} (hf : ∀ s, (f s).roots = s.roots) (s : State) : (s.atTenant n f).roots = s.roots := by
  unfold State.atTenant
  split
  · rfl
  · next h => rw [hf, openTenant_roots h]

theorem atTeam_roots {n k : Nat} {f : State → State} (hf : ∀ s, (f s).roots = s.roots) (s : State) : (s.atTeam n k f).roots = s.roots := by
  unfold State.atTeam
  split
  · rfl
  · next h => rw [hf, toTeam_roots h]

/-! ### Registers, phases, traps -/

@[simp] theorem count_roots (s : State) (e n : Nat) : (s.count e n).roots = s.roots := rfl
@[simp] theorem countIssue_roots (s : State) (sl : Slot) : (s.countIssue sl).roots = s.roots := by cases sl <;> rfl
@[simp] theorem setS_roots (s : State) (k : Nat) (x : Word) : (s.setS k x).roots = s.roots := rfl
@[simp] theorem setM_roots (s : State) (k : Nat) (x : Mask) : (s.setM k x).roots = s.roots := rfl
@[simp] theorem setPair_roots (s : State) (k : Nat) (x : DWord) : (s.setPair k x).roots = s.roots := by
  rw [State.setPair, setS_roots, setS_roots]
@[simp] theorem flag_roots (s : State) (b : Word) : (s.flag b).roots = s.roots := rfl
@[simp] theorem taint_roots (s : State) (rs : List Nat) : (s.taint rs).roots = s.roots := rfl
@[simp] theorem setLanes_roots (s : State) (r : Nat) (xs : List (Nat × Word)) : (s.setLanes r xs).roots = s.roots := rfl
@[simp] theorem apply_roots (s : State) (ws : List RegWrite) : (s.apply ws).roots = s.roots := rfl
@[simp] theorem perLane_roots (s : State) (d : Byte) (f : Nat → Word × Word) : (s.perLane d f).roots = s.roots := by
  unfold State.perLane
  rw [flag_roots, setLanes_roots]
@[simp] theorem drawn_roots (s : State) (rm : BitVec 3) : (s.drawn rm).roots = s.roots := by unfold State.drawn; split <;> rfl
@[simp] theorem maskResult_roots (s : State) (d : Byte) (p : Nat → Bool) : (s.maskResult d p).roots = s.roots := rfl
@[simp] theorem goto_roots (s : State) (va : VA) : (s.goto va).roots = s.roots := rfl
@[simp] theorem closePhase_roots (s : State) (n : Nat) : (s.closePhase n).roots = s.roots := rfl
@[simp] theorem openPhase_roots (s : State) (n : Nat) : (s.openPhase n).roots = s.roots := rfl
@[simp] theorem startPhase_roots (s : State) (l : List Nat) (n : Nat) : (s.startPhase l n).roots = s.roots := rfl
@[simp] theorem boundary_roots (s : State) (a n : Nat) : (s.boundary a n).roots = s.roots := rfl
@[simp] theorem mark_roots (s : State) : s.mark.roots = s.roots := rfl
@[simp] theorem putMac_roots (s : State) (r : MatOut) : (s.putMac r).roots = s.roots := by unfold State.putMac; split <;> rfl

@[simp] theorem cutShort_roots (s : State) (m : MatOp) : (s.cutShort m).roots = s.roots := by
  unfold State.cutShort
  simp

@[simp] theorem cancelOps_roots (s : State) : s.cancelOps.roots = s.roots := by
  unfold State.cancelOps
  exact foldl_roots cutShort_roots _ _

@[simp] theorem discard_roots (s : State) : s.discard.roots = s.roots := by
  show s.cancelOps.roots = s.roots
  simp

theorem pushRecord_roots {s t : State} {k : Nat} {p : List Byte} {n : Nat} (h : s.pushRecord k p n = some t) : t.roots = s.roots := by
  unfold State.pushRecord at h
  split at h
  · cases h; rfl
  · cases h

@[simp] theorem report_roots (s : State) (k : Nat) (p : List Byte) (l : Nat) : (s.report k p l).roots = s.roots := by
  unfold State.report
  split
  · next h =>
    split at h
    · exact pushRecord_roots h
    · cases h
  · rfl

@[simp] theorem endTeam_roots (s : State) : s.endTeam.roots = s.roots := rfl
@[simp] theorem drop_roots (s : State) : s.drop.roots = s.roots := by unfold State.drop; split <;> simp
@[simp] theorem endFault_roots (s : State) (c b : Nat) (v : VA) (n : Nat) : (s.endFault c b v n).roots = s.roots := by
  simp [State.endFault]

@[simp] theorem takeTrap_roots (s : State) (c b : Nat) (l i : Word) (p e : VA) (k : Option (VA × Nat)) :
    (s.takeTrap c b l i p e k).roots = s.roots := by
  unfold State.takeTrap
  split
  · simp
  · rfl

@[simp] theorem pageFault_roots (s : State) (ps : List Nat) (v : VA) : (s.pageFault ps v).roots = s.roots := by
  unfold State.pageFault
  split
  · simp
  · show s.discard.roots = s.roots
    simp

@[simp] theorem touchPages_roots (s : State) (l : List Nat) : (s.touchPages l).roots = s.roots := by
  obtain ⟨c, ps, h⟩ := s.touchPages_eq l
  rw [h]; rfl

@[simp] theorem stop_roots (s : State) (c : Clause) (x : Stop) : (s.stop c x).roots = s.roots := by
  cases x <;> simp [State.stop]

/-- An issue keeps the roots when its effect does. -/
theorem issue_roots {i : Instr} {sl : Slot} {chk : State → Option Stop} {eff : State → State} {s t : State}
    (he : ∀ s, (eff s).roots = s.roots) (h : issue i sl chk eff s = .next t) : t.roots = s.roots := by
  obtain ⟨c, _, rfl | ⟨x, rfl⟩ | rfl⟩ := issue_cases h
  · simp
  · simp
  · simp [he]

theorem issueT_roots {i : Instr} {chk : State → Option Stop} {fin : Clause → State → State} {s t : State}
    (he : ∀ c s, (fin c s).roots = s.roots) (h : issueT i chk fin s = .next t) : t.roots = s.roots := by
  obtain ⟨c, _, rfl | ⟨x, rfl⟩ | rfl⟩ := issueT_cases h
  · simp
  · simp
  · simp [he]

/-! ### Memory instructions -/

@[simp] theorem addRec_roots (s : State) (r : Rec) : (s.addRec r).roots = s.roots := rfl
@[simp] theorem await_roots (s : State) (p : Pend) : (s.await p).roots = s.roots := rfl
@[simp] theorem awaitLoad_roots (s : State) (o : XOps) (ws : List RegWrite) (r : Option EngReq) : (s.awaitLoad o ws r).roots = s.roots := rfl
@[simp] theorem settlePend_roots (s : State) (i : Nat) (p : Pend) (ws : List RegWrite) : (s.settlePend i p ws).roots = s.roots := by
  rw [State.settlePend, apply_roots, onTeam_roots]

@[simp] theorem lsPut_roots (s : State) (x : Nat) (v : Byte) : (s.lsPut x v).roots = s.roots := by unfold State.lsPut; split <;> rfl
@[simp] theorem lsPuts_roots (bs : List Byte) : ∀ (s : State) (a : Nat), (s.lsPuts a bs).roots = s.roots := by
  induction bs with
  | nil => intro s a; rfl
  | cons v r ih => intro s a; rw [State.lsPuts, ih, lsPut_roots]
@[simp] theorem lsStore_roots (s : State) (ws : List (Nat × List Byte)) : (s.lsStore ws).roots = s.roots := by
  unfold State.lsStore
  exact foldl_roots (α := Nat × List Byte) (f := fun s w => State.lsPuts s w.1 w.2) (fun s w => lsPuts_roots w.2 s w.1) _ _

theorem atomLs_roots (op ty : Nat) (l : List (Nat × Nat × DWord × DWord)) : ∀ s : State, (s.atomLs op ty l).1.roots = s.roots := by
  induction l with
  | nil => intro s; rfl
  | cons x xs ih =>
    intro s
    obtain ⟨k, a, b, c⟩ := x
    simp only [State.atomLs]
    rw [ih]
    split <;> simp

@[simp] theorem startAtom_roots (s : State) (a b c d e : Nat) (l : List (Nat × Nat × DWord × DWord)) (v : VA) :
    (s.startAtom a b c d e l v).roots = s.roots := rfl
@[simp] theorem bind_roots (s : State) (a n : Nat) (e : BufEntry) : (s.bind a n e).roots = s.roots := rfl
@[simp] theorem fillUp_roots (s : State) (n : Nat) (e : BufEntry) : (s.fillUp n e).roots = s.roots := by
  unfold State.fillUp
  dsimp only
  split <;> rfl
@[simp] theorem spoilByte_roots (s : State) (b : Bool) (x : Nat) : (s.spoilByte b x).roots = s.roots := by unfold State.spoilByte; split <;> rfl
@[simp] theorem startCopy_roots (s : State) (n : Nat) (e : BufEntry) (a b : List (Nat × Nat)) : (s.startCopy n e a b).roots = s.roots := by
  unfold State.startCopy
  refine (foldl_roots (fun s o => spoilByte_roots s e.spad (e.base + o)) _ _).trans ?_
  have h := touchPages_roots s (b.map (·.1))
  generalize s.touchPages (b.map (·.1)) = u at h ⊢
  exact h
@[simp] theorem enqueueOp_roots (s : State) (i : Instr) (f : MatForm) : (s.enqueueOp i f).roots = s.roots := rfl
@[simp] theorem awaitEng_roots (s : State) (d : Desc) (v a b : List Nat) (q : EngReq) : (s.awaitEng d v a b q).roots = s.roots := by
  unfold State.awaitEng
  cases d <;> simp
@[simp] theorem awaitTable_roots (s : State) (d : Byte) (n : Nat) (q : EngReq) : (s.awaitTable d n q).roots = s.roots := rfl
@[simp] theorem nextSeq_roots (s : State) : s.nextSeq.roots = s.roots := rfl
@[simp] theorem queueEff_roots (s : State) (op : QOp) (a : Byte) (w : World) (ty : Nat) (v : Nat → List Word) :
    (s.queueEff op a w ty v).roots = s.roots := by
  unfold State.queueEff
  generalize s.queueRecs op a w ty v = recs
  have h : (if s.strangers a w then s.flag stInvalid else s).roots = s.roots := by split <;> simp
  generalize (if s.strangers a w then s.flag stInvalid else s) = u at h ⊢
  dsimp only
  rw [nextSeq_roots, ← h]
  split <;> simp
@[simp] theorem doCall_roots (s : State) (k : Nat) (v : VA) : (s.doCall k v).roots = s.roots := by
  unfold State.doCall
  exact (goto_roots _ _).trans (onTeam_roots _ _)
@[simp] theorem retAnywhere_roots (s : State) : s.retAnywhere.roots = s.roots := by
  rw [State.retAnywhere, goto_roots, onTeam_roots]
@[simp] theorem readSpecial_roots (s : State) (d k : Nat) : (s.readSpecial d k).roots = s.roots := by
  unfold State.readSpecial
  split
  · rfl
  · split <;> rfl
@[simp] theorem wake_roots (s : State) : s.wake.roots = s.roots := rfl

@[simp] theorem decodeClause_roots (s : State) : s.decodeClause.roots = s.roots := by
  unfold State.decodeClause
  dsimp only
  split
  · simp
  · simp
  · split
    · simp
    · split
      · simp
      · simp
      · split
        · simp
        · rfl

/-! ### Arrivals (`Arrivals`) -/

theorem serveOne_roots (s : State) (q : EngReq) (k : Nat) : (s.serveOne q k).1.roots = s.roots := by
  unfold State.serveOne
  split
  · rfl
  · next r _ =>
    have h := touchPages_roots s r.vas
    dsimp only
    generalize s.touchPages r.vas = u at h ⊢
    rw [apply_roots]
    exact h

theorem serveLanes_roots (ls : List Nat) : ∀ (s : State) (q : EngReq), (s.serveLanes q ls).1.roots = s.roots := by
  induction ls with
  | nil => intro s q; rfl
  | cons k ks ih =>
    intro s q
    unfold State.serveLanes
    have h1 := serveOne_roots s q k
    split
    · next u r h => rw [ih]; rw [h] at h1; exact h1
    · next u r h => rw [h] at h1; exact h1

@[simp] theorem setReq_roots (s : State) (i : Nat) (q : Option EngReq) : (s.setReq i q).roots = s.roots := rfl
@[simp] theorem holdReq_roots (s : State) (i : Nat) (q : EngReq) : (s.holdReq i q).roots = s.roots := by
  unfold State.holdReq
  split <;> simp

@[simp] theorem arrive_roots (s : State) (i : Nat) (p : Pend) : (s.arrive i p).roots = s.roots := by
  unfold State.arrive
  split
  · simp
  · next q _ =>
    have h1 := serveLanes_roots q.left s q
    split
    · next h => rw [h] at h1; simpa using h1
    · next h => rw [h] at h1; simpa using h1

theorem serveTable_roots {s : State} {q : EngReq} {r : List RegWrite × State} (h : s.serveTable q = .ok r) : r.2.roots = s.roots := by
  unfold State.serveTable at h
  split at h
  · split at h
    · cases h; rfl
    · dsimp only at h
      split at h
      · cases h
      · rw [Except.ok.injEq] at h; subst h; dsimp only; rw [touchPages_roots, State.roots, State.roots]
  · split at h
    · cases h; rfl
    · split at h
      · split at h
        · cases h; rfl
        · dsimp only at h
          split at h
          · cases h
          · rw [Except.ok.injEq] at h; subst h; simp
      · dsimp only at h
        split at h
        · cases h
        · rw [Except.ok.injEq] at h; subst h; simp
  · cases h; rfl

theorem serveTab_roots {s : State} {i : Nat} {q : EngReq} : (∀ u, s.serveTab i q = .ok u → u.roots = s.roots) ∧
    (∀ u, s.serveTab i q = .error u → u.roots = s.roots) := by
  unfold State.serveTab
  constructor
  · intro u h
    split at h
    · next hs => cases h; simpa using serveTable_roots hs
    all_goals cases h
  · intro u h
    split at h <;> cases h <;> simp

@[simp] theorem tableArrive_roots (s : State) (i : Nat) (p : Pend) : (s.tableArrive i p).roots = s.roots := by
  unfold State.tableArrive
  split
  · simp
  · split
    · next h => simpa using serveTab_roots.1 _ h
    · next h => exact serveTab_roots.2 _ h

@[simp] theorem spoilRings_roots (s : State) (d : Nat) (as : List Nat) : (s.spoilRings d as).roots = s.roots := by
  unfold State.spoilRings
  refine foldl_roots (fun s b => ?_) _ _
  split <;> rfl
@[simp] theorem noteStores_roots (s : State) (d : Nat) (as : List Nat) : (s.noteStores d as).roots = s.roots := rfl
@[simp] theorem wrote_roots (s : State) (sp : Nat) (ls as : List Nat) (b : Bool) : (s.wrote sp ls as b).roots = s.roots := by
  unfold State.wrote
  cases sp <;> dsimp only <;> split <;> simp

@[simp] theorem freeOpen_roots (s : State) (d a n : Nat) : (s.freeOpen d a n).roots = s.roots := by
  unfold State.freeOpen
  split <;> rfl

@[simp] theorem pull_roots (s : State) (vas : List Nat) : (s.pull vas).roots = s.roots := by
  unfold State.pull
  split <;> rfl

theorem performLane_roots (s : State) (k l c d : Nat) (r : AtomReq) (i : Nat) : (s.performLane k l c d r i).1.roots = s.roots := by
  unfold State.performLane
  split
  · rfl
  · dsimp only
    split
    · exact pull_roots _ _
    split
    · rfl
    · rw [wrote_roots]
      split
      · rfl
      · exact freeOpen_roots s _ _ _

theorem atWaiter_roots {n k : Nat} {f : State → Team → Nat → State × Team} (hf : ∀ s t d, (f s t d).1.roots = s.roots) (s : State) :
    (s.atWaiter n k f).roots = s.roots := by
  unfold State.atWaiter
  split
  · rfl
  · next u hu =>
    split
    · exact (hf u _ _).trans (openTenant_roots hu)
    · split
      · exact openTenant_roots hu
      · exact (hf u _ _).trans (openTenant_roots hu)

@[simp] theorem endAny_roots (s : State) (n k c : Nat) (v : VA) : (s.endAny n k c v).roots = s.roots := by
  unfold State.endAny
  split
  · rfl
  · next u hu =>
    split
    · rw [atTeam_roots _ u, openTenant_roots hu]
      intro s
      split <;> simp
    · split
      · exact openTenant_roots hu
      · split
        · exact openTenant_roots hu
        · simpa using openTenant_roots hu

@[simp] theorem performOne_roots (s : State) (n i : Nat) (x : Team) : (s.performOne n i x).roots = s.roots := by
  unfold State.performOne
  split
  · split
    · rfl
    · split
      · simp
      · exact atWaiter_roots (fun s x d => by dsimp only; exact performLane_roots s _ _ _ _ _ _) s
  · rfl

@[simp] theorem performOrphan_roots (s : State) (o : Orphan) (i : Nat) : (s.performOrphan o i).roots = s.roots := by
  unfold State.performOrphan
  split
  · rfl
  · dsimp only
    rw [onTen_roots]
    split
    · rfl
    · exact performLane_roots _ _ _ _ _ _ _

@[simp] theorem endAtom_roots (s : State) (r : AtomReq) : (s.endAtom r).roots = s.roots := by
  simp only [State.endAtom, startPhase_roots, onTeam_roots]
  split <;> simp

@[simp] theorem land_roots (s : State) (e : BufEntry) (n : Nat) (x : Sector) (bs : List Byte) : (s.land e n x bs).roots = s.roots := by
  unfold State.land
  dsimp only
  split
  · rw [spoilRings_roots]; rfl
  · rfl

@[simp] theorem afterSector_roots (s : State) (n : Nat) : (s.afterSector n).roots = s.roots := by
  unfold State.afterSector
  split
  · rfl
  · split
    · rfl
    · split
      · rfl
      · split <;> simp

@[simp] theorem holdSector_roots (s : State) (i : Nat) (x : Sector) (t : Team) : (s.holdSector i x t).roots = s.roots := by
  unfold State.holdSector
  split
  · split
    · rw [afterSector_roots]; rfl
    · simp
  · rfl

@[simp] theorem drain_roots (s : State) (b : Batch) (i : Nat) : (s.drain b i).roots = s.roots := by
  unfold State.drain
  dsimp only
  repeat' split
  all_goals rfl

end Sys2Proof.Machine
end

