-- ==== Sys2Proof/Laws/RootsUnits.lean ====
section
/-!
SUPPORT. The fuses and the firmware in service through the functions of the module's units: completion, placement, the pager, the shutter,
gangs, requests, checkpoints, errors and self-tests.
-/
namespace Sys2Proof.Machine

/-! ### Completion -/

@[simp] theorem putBytesOf_roots (s : State) (bs : List Batch) (p a : Nat) (v : List Byte) (ids : List Nat) :
    (s.putBytes bs p a v ids).roots = s.roots := rfl

@[simp] theorem applyMem_roots (s : State) (bs : List Batch) (o : MemOp) : (s.applyMem bs o).roots = s.roots := by
  unfold State.applyMem
  split
  · rfl
  · simp
  · next sp op ty a xs ids =>
    cases sp with
    | zero => dsimp only; split <;> simp
    | succ d => dsimp only; split <;> simp

@[simp] theorem performAll_roots (s : State) (bs : List Batch) : (s.performAll bs).roots = s.roots := by
  unfold State.performAll
  dsimp only
  rw [foldl_roots (fun s (p : Nat × VA) => endAny_roots s _ p.1 _ p.2), onTen_roots, foldl_roots (fun s o => applyMem_roots s bs o)]

theorem finish_roots {s u : State} {bs : List Batch} (h : s.finish bs = some u) : u.roots = s.roots := by
  simp only [State.finish, Option.map_eq_some_iff] at h
  obtain ⟨x, _, rfl⟩ := h
  exact performAll_roots s bs

@[simp] theorem complete_roots (s : State) (b : Batch) : (s.complete b).roots = s.roots := by
  unfold State.complete
  simp only []
  split
  · rfl
  · split
    · rfl
    · split
      · split <;> rfl
      · generalize (if s.ten.roomFor _ = true then _ else [b] : List Batch) = bs
        split
        · rfl
        · split
          · next h => exact finish_roots h
          · cases h : s.finish [b] with
            | none => rfl
            | some u => exact finish_roots h

/-! ### Placement and gangs -/

@[simp] theorem placeBlock_roots (s : State) (l : Launch) (c : Core) (f : List Nat × Nat) : (s.placeBlock l c f).roots = s.roots := rfl

theorem placeAll_roots (l : Nat) : ∀ (n : Nat) (s t : State), s.placeAll l n = some t → t.roots = s.roots := by
  intro n
  induction n with
  | zero => intro s t h; cases h; rfl
  | succ n ih =>
    intro s t h
    unfold State.placeAll at h
    split at h
    · cases h
    · simp only [] at h
      split at h
      · cases h
      · exact (ih _ _ h).trans (placeBlock_roots _ _ _ _)

@[simp] theorem send_roots (s : State) (q : Datagram) (n : Nat) (p : List Byte) : (s.send q n p).roots = s.roots := rfl
@[simp] theorem answer_roots (s : State) (q : Datagram) (n : Nat) (p : List Byte) : (s.answer q n p).roots = s.roots := rfl
@[simp] theorem closeLaunch_roots (s : State) (l : Nat) (g : Gang) (b : Bool) : (s.closeLaunch l g b).roots = s.roots := by
  unfold State.closeLaunch
  split
  · rfl
  · split <;> rfl
@[simp] theorem setDecision_roots (s : State) (l : Nat) (g : Gang) (b : Bool) : (s.setDecision l g b).roots = s.roots := by
  simp [State.setDecision]
@[simp] theorem decideGang_roots (s : State) (l : Nat) (g : Gang) (b : Bool) : (s.decideGang l g b).roots = s.roots :=
  setDecision_roots s l g b
@[simp] theorem gotReady_roots (s : State) (l : Nat) (g : Gang) (r : Nat) : (s.gotReady l g r).roots = s.roots := by
  unfold State.gotReady
  dsimp only
  split
  · exact decideGang_roots _ _ _ _
  · rfl
@[simp] theorem sendReady_roots (s : State) (l : Launch) : (s.sendReady l).roots = s.roots := by
  unfold State.sendReady
  split
  · split
    · simp only []
      split
      · split <;> simp
      · rfl
    · rfl
  · rfl

/-! ### Pager and shutter -/

@[simp] theorem dropTeams_roots (s : State) (ks : List Nat) : (s.dropTeams ks).roots = s.roots := by
  unfold State.dropTeams
  rw [stow_roots]
  exact foldl_roots (fun s k => atTeam_roots drop_roots s) _ _
@[simp] theorem invalidate_roots (s : State) (v n : Nat) : (s.invalidate v n).roots = s.roots := by
  unfold State.invalidate
  exact dropTeams_roots _ _
@[simp] theorem reframe_roots (s : State) : s.reframe.roots = s.roots := rfl
@[simp] theorem relay_roots (s : State) : s.relay.roots = s.roots := rfl
theorem evictOne_roots {s t : State} {l : List Nat} {n : Nat} (h : s.evictOne l n = some t) : t.roots = s.roots := by
  unfold State.evictOne at h
  split at h
  · cases h
  · rw [Option.some.injEq] at h
    subst h
    simp

@[simp] theorem makeRoom_roots (l : List Nat) (n : Nat) : ∀ (f : Nat) (s : State), (s.makeRoom l n f).roots = s.roots := by
  intro f
  induction f with
  | zero => intro s; rfl
  | succ f ih =>
    intro s
    unfold State.makeRoom
    split
    · rfl
    · split
      · rfl
      · next u hu => exact (ih u).trans (evictOne_roots hu)

@[simp] theorem bring_roots (s : State) (l : List Nat) : (s.bring l).1.roots = s.roots := by
  unfold State.bring
  dsimp only
  split
  · exact pull_roots _ _
  · split
    · rw [reframe_roots, onTen_roots, makeRoom_roots]
    · exact makeRoom_roots _ _ _ _
theorem bring_state {s t : State} {l : List Nat} {b : Bool} (h : s.bring l = (t, b)) : t.roots = s.roots := by
  rw [← bring_roots s l, h]

theorem savePane_roots (s : State) (c p : Nat) (b : Bool) : (s.savePane c p b).1.roots = s.roots := by
  unfold State.savePane
  simp only []
  split
  · simp
  · split <;> simp

theorem putBack_roots {s t : State} {b : Saved} {l : Launch} {c : Core} {f : List Nat × Nat} (h : s.putBack b l c f = some t) :
    t.roots = s.roots := by
  unfold State.putBack at h
  simp only [Option.map_eq_some_iff] at h
  obtain ⟨x, _, rfl⟩ := h
  rfl

@[simp] theorem endTeams_roots (s : State) (ks : List Nat) : (s.endTeams ks).roots = s.roots := by
  unfold State.endTeams
  rw [stow_roots]
  refine foldl_roots (fun s k => atTeam_roots (fun s => ?_) s) _ _
  split <;> simp
@[simp] theorem loseContext_roots (s : State) (c v : Nat) : (s.loseContext c v).roots = s.roots := by simp [State.loseContext]
@[simp] theorem abortMember_roots (s : State) (l : Nat) (g : Gang) (r : Nat) : (s.abortMember l g r).roots = s.roots := by
  simp [State.abortMember]
@[simp] theorem answerGang_roots (s : State) (g r : Nat) : (s.answerGang g r).roots = s.roots := by
  unfold State.answerGang
  split
  · split <;> rfl
  · rfl

/-! ### Peers and requests -/

theorem peerRequest_roots {q : PeerOp} {u : WinUse} {n : Nat} {f : State → State} (hf : ∀ s, (f s).roots = s.roots) (s : State) :
    (s.peerRequest q u n f).roots = s.roots := by
  unfold State.peerRequest
  split
  · rfl
  · split
    · rfl
    · next v hv =>
      have hv := openTenant_roots hv
      split
      · exact hv
      · exact hv
      · rw [hf, hv]
      · split
        · next hw => rw [hf, bring_state hw, hv]
        · next hw => rw [onTen_roots, bring_state hw, hv]

@[simp] theorem peerAtomic_roots (q : PeerOp) (op : Nat) (a c : DWord) (s : State) : (s.peerAtomic q op a c).roots = s.roots := by
  unfold State.peerAtomic
  split
  · rfl
  · split
    · rfl
    · refine peerRequest_roots (fun s => ?_) s
      rfl

/-- The roots of the state that an execution leaves. -/
def Done.roots : Done → Sparse Remap × Nat × Nat
  | .reply s _ _ => s.roots
  | .later s => s.roots
  | .hold s => s.roots

@[simp] theorem refuse_roots (s : State) (n : Nat) : (refuse s n).roots = s.roots := rfl
@[simp] theorem reply_roots (s : State) (n : Nat) (p : List Byte) : (Done.reply s n p).roots = s.roots := rfl
@[simp] theorem later_roots (s : State) : (Done.later s).roots = s.roots := rfl
@[simp] theorem hold_roots (s : State) : (Done.hold s).roots = s.roots := rfl

@[simp] theorem over_roots (s : State) (q : Datagram) : (s.over q).roots = s.roots := rfl
@[simp] theorem waitsOn_roots (s : State) (q : Datagram) : (s.waitsOn q).roots = s.roots := rfl

theorem execute_roots {q : Datagram} {a : Bool} {f : Nat → State → Done} (hf : ∀ c s, (f c s).roots = s.roots) (s : State) :
    (s.execute q a f).roots = s.roots := by
  unfold State.execute
  have h := hf (ctxOf q) s
  split <;> next e => rw [e] at h; first | simpa using h | (split <;> simpa using h)

theorem serve_roots {q : Datagram} {b a : Bool} {f : Nat → State → Done} (hf : ∀ c s, (f c s).roots = s.roots) (s : State) :
    (s.serve q b a f).roots = s.roots := by
  unfold State.serve
  dsimp only
  split
  · simp
  · split
    · simp
    · split
      · simp
      · split
        · simp
        · exact execute_roots hf s

theorem request_roots {q : Datagram} {b a : Bool} {f : Nat → State → Done} (hf : ∀ c s, (f c s).roots = s.roots) (s : State) :
    (s.request q b a f).roots = s.roots := by
  unfold State.request
  split
  · rfl
  · split
    · rfl
    · next u hu =>
      have hu := openTenant_roots hu
      split
      · rfl
      · split
        · rfl
        · split
          · rfl
          · split
            · rfl
            · split
              · exact hu
              · rw [serve_roots hf]; exact hu

theorem rpc_roots {q : Datagram} {m : Nat} {b : Bool} {f : Nat → State → Done} (hf : ∀ c s, (f c s).roots = s.roots) (s : State) :
    (s.rpc q m b f).roots = s.roots := by
  unfold State.rpc
  split
  · exact request_roots hf s
  · rfl

theorem operator_roots {q : Datagram} {b : Bool} {f : State → State × Nat × List Byte} (hf : ∀ s, (f s).1.roots = s.roots) (s : State) :
    (s.operator q b f).roots = s.roots := by
  unfold State.operator
  split
  · rfl
  · split
    · exact request_roots (fun c s => rfl) s
    · split
      · rfl
      · split
        · rfl
        · exact hf s

theorem hostAccess_roots {w : Bool} {v n : Nat} {f : State → Done} (hf : ∀ s, (f s).roots = s.roots) (s : State) :
    (s.hostAccess w v n f).roots = s.roots := by
  unfold State.hostAccess
  split
  · rfl
  · exact hf s
  · split
    · next h => rw [hf, bring_state h]
    · next h => rw [hold_roots, onTen_roots, bring_state h]

@[simp] theorem submitted_roots (s : State) (c : Nat) (r : List Byte) (g : Option Gang) : (s.submitted c r g).roots = s.roots := rfl
@[simp] theorem submitGang_roots (s : State) (q : Datagram) (c : Nat) : (s.submitGang q c).roots = s.roots := by
  unfold State.submitGang
  dsimp only
  repeat' split
  all_goals rfl
@[simp] theorem answerWait_roots (s : State) (w : OpenWait) (n : Nat) : (s.answerWait w n).roots = s.roots := rfl

@[simp] theorem flushReports_roots : ∀ (n : Nat) (s : State), (s.flushReports n).roots = s.roots := by
  intro n
  induction n with
  | zero => intro s; rfl
  | succ n ih =>
    intro s
    unfold State.flushReports
    split
    · rfl
    · split
      · rfl
      · next h => rw [ih, onTen_roots, pushRecord_roots h]

theorem register_roots {q : Datagram} {w n : Nat} {b : Bool} {f : Nat → List Byte → State → Done}
    (hf : ∀ c d s, (f c d s).roots = s.roots) (s : State) : (s.register q w n b f).roots = s.roots := by
  unfold State.register
  refine rpc_roots (fun c s => ?_) s
  split
  · rfl
  · split
    · rfl
    · exact hostAccess_roots (fun s => hf _ _ s) s

@[simp] theorem tickClock_roots (s : State) : s.tickClock.roots = s.roots := rfl
theorem service_roots (s : State) (r : SyscReq) (l : Nat) : (s.service r l).1.roots = s.roots := by
  unfold State.service
  split
  · rfl
  · split
    · simp only []
      split <;> rfl
    · split
      · rfl
      · split
        · next h => exact pushRecord_roots h
        · rfl

@[simp] theorem load_roots (s : State) (f : List Byte) : (s.load f).roots = s.roots := by
  unfold State.load
  split
  · rfl
  · split
    · rfl
    · split
      · rfl
      · split
        · rfl
        · split <;> rfl

@[simp] theorem removeTenant_roots (s : State) (n : Nat) : (s.removeTenant n).roots = s.roots := rfl

/-! ### Migration and checkpoints -/

@[simp] theorem freeze_roots (s : State) : s.freeze.roots = s.roots := by simp [State.freeze]
@[simp] theorem moveTenant_roots (s : State) (m : Mig) : (s.moveTenant m).roots = s.roots := rfl
@[simp] theorem tryMove_roots (s : State) : s.tryMove.roots = s.roots := by
  unfold State.tryMove
  split
  · split <;> simp
  · rfl
@[simp] theorem takeWith_roots (s : State) (q : Datagram) (b : List Byte) : (s.takeWith q b).roots = s.roots := by
  unfold State.takeWith
  simp only []
  split <;> rfl
@[simp] theorem endTake_roots (s : State) (k : Take) (st : Nat) : (s.endTake k st).roots = s.roots := rfl
@[simp] theorem readTable_roots (s : State) (k : Take) (va : Nat) : (s.readTable k va).roots = s.roots := by
  unfold State.readTable
  dsimp only
  split
  · exact endTake_roots _ _ _
  · split
    · next h => exact bring_state h
    · next h => rw [onTen_roots]; exact bring_state h
  · split
    · exact onTen_roots _ _
    · exact endTake_roots _ _ _
@[simp] theorem completeCkpt_roots (s : State) (b : Ip) (c : Ckpt) : (s.completeCkpt b c).roots = s.roots := rfl
theorem rehome_roots (s : State) (p : Page) : (s.rehome p).1.roots = s.roots := by
  unfold State.rehome
  dsimp only
  split <;> simp
theorem heed_roots (s : State) (va : Nat) : (s.heed va).1.roots = s.roots := by
  unfold State.heed
  split
  · rfl
  · exact rehome_roots s _
theorem heed_state {s t : State} {va : Nat} {b : Bool} (h : s.heed va = (t, b)) : t.roots = s.roots := by
  rw [← heed_roots s va, h]
@[simp] theorem retryAt_roots (s : State) (a b : Ip) (o : OutMsg) : (s.retryAt a b o).roots = s.roots := by
  unfold State.retryAt
  split <;> rfl
@[simp] theorem recordTake_roots (s : State) (k : Take) : (s.recordTake k).roots = s.roots := rfl

/-! ### Errors, self-tests, power -/

@[simp] theorem correctedOn_roots (s : State) (n c : Nat) : (s.correctedOn n c).roots = s.roots := by
  refine atTenant_roots (fun s => ?_) s
  rfl
@[simp] theorem hwerr_roots (s : State) (n k : Nat) (v : Option VA) : (s.hwerr n k v).roots = s.roots := by
  refine atTeam_roots (fun s => ?_) s
  split <;> simp
@[simp] theorem corrected_roots (s : State) (u : HwUnit) : (s.corrected u).roots = s.roots := by
  cases u <;> simp only [State.corrected] <;> first | rfl | (split <;> simp)
@[simp] theorem uncorrected_roots (s : State) (u : HwUnit) : (s.uncorrected u).roots = s.roots := by
  cases u <;> simp only [State.uncorrected] <;> first | rfl | simp | (split <;> simp) | (refine atTenant_roots (fun s => ?_) s; rfl)

theorem savePanes_roots (ps : List Pane) : ∀ s : State, (s.savePanes ps).1.roots = s.roots := by
  induction ps with
  | nil => intro s; rfl
  | cons p ps ih =>
    intro s
    unfold State.savePanes
    have h := savePane_roots s p.ctx p.num false
    split
    · next e => rw [e] at h; exact h
    · next e => rw [e] at h; rw [ih]; exact h

@[simp] theorem rebuildPane_roots (s : State) (p : Pane) : (s.rebuildPane p).roots = s.roots := rfl
@[simp] theorem losePane_roots (s : State) (p : Pane) : (s.losePane p).roots = s.roots := by
  unfold State.losePane
  split <;> rfl
@[simp] theorem again_roots (s : State) (u : HwUnit) : (s.again u).roots = s.roots := by
  unfold State.again
  dsimp only
  split <;> rfl
theorem vacate_roots (s : State) (ps : List Page) : (s.vacate ps).1.roots = s.roots := by
  unfold State.vacate
  dsimp only
  exact foldl_roots (f := fun s (p : Page) => s.invalidate p.va p.size) (fun s p => invalidate_roots s p.va p.size) ps s
@[simp] theorem raise_roots (s : State) (x : Sector) : (s.raise x).roots = s.roots := by
  unfold State.raise
  dsimp only
  split <;> rfl
theorem boot_roots (s : State) (w : FwImage) : (s.boot w).fuse = s.fuse ∧ (s.boot w).rollback = s.rollback ∧
    (s.rollback ≤ s.fwVersion → (s.boot w).rollback ≤ (s.boot w).fwVersion) := by
  unfold State.boot
  split
  · next h =>
    refine ⟨rfl, rfl, fun _ => ?_⟩
    simp only [State.trusts, Bool.and_eq_true, decide_eq_true_eq] at h
    exact h.2
  · exact ⟨rfl, rfl, id⟩

theorem shrink_roots (ps : List Page) : ∀ s : State, (State.shrink ps s).1.roots = s.roots := by
  induction ps with
  | nil => intro s; rfl
  | cons p ps ih =>
    intro s
    unfold State.shrink
    split
    · rfl
    · split
      · split
        · rw [ih]; rfl
        · rfl
      · rw [ih]; rfl

theorem shrink_state {ps : List Page} {s t : State} {o : Option Nat} (h : State.shrink ps s = (t, o)) : t.roots = s.roots := by
  rw [← shrink_roots ps s, h]
theorem savePanes_state {ps : List Pane} {s t : State} {b : Bool} (h : s.savePanes ps = (t, b)) : t.roots = s.roots := by
  rw [← savePanes_roots ps s, h]
theorem vacate_state {ps : List Page} {s t : State} {b : Bool} (h : s.vacate ps = (t, b)) : t.roots = s.roots := by
  rw [← vacate_roots s ps, h]

@[simp] theorem reshape_roots (s : State) (p : Pane) (u : HwUnit) : (s.reshape p u).roots = s.roots := by
  unfold State.reshape
  simp only [onTen_roots]
  split
  · rw [losePane_roots, rebuildPane_roots]; rfl
  · split
    · next e => rw [relay_roots, shrink_state e, onTen_roots, losePane_roots, rebuildPane_roots]; rfl
    · next e =>
      rw [report_roots, foldl_roots]
      · rw [relay_roots, shrink_state e, onTen_roots, losePane_roots, rebuildPane_roots]; rfl
      · intro s c
        simp

@[simp] theorem moveFor_roots (s : State) (u : HwUnit) : (s.moveFor u).roots = s.roots := by
  cases u <;> first | rfl | (simp only [State.moveFor, State.moveOff, reframe_roots, onTen_roots]; refine foldl_roots (fun s p => ?_) _ _; rfl)

theorem testBay_roots (s : State) (b : Nat) (u : HwUnit) (p : Bool) : (s.testBay b u p).1.roots = s.roots := by
  unfold State.testBay
  split
  · dsimp only
    split <;> rfl
  · split
    · rfl
    · next v hv =>
      have hv := openTenant_roots hv
      split
      · exact hv
      · dsimp only
        split
        · next e => exact (savePanes_state e).trans hv
        · next e =>
          have h := (savePanes_state e).trans hv
          split
          · next e => exact (vacate_state e).trans h
          · next e =>
            have h := (vacate_state e).trans h
            split
            · rw [moveFor_roots]; exact h
            · rw [reshape_roots]; exact h

@[simp] theorem powerDown_roots (s : State) : s.powerDown.roots = s.roots := rfl

@[simp] theorem capture_roots (s : State) (i : Instr) (n : Nat) : (s.capture i n).roots = s.roots := by
  have lanes : ∀ (t k : Nat) (c : CtrKind) (j : Nat), (s.atTeam t k fun s =>
      match s.team.pendAt c j with
      | none => s
      | some (pos, p) => match p.req with
        | none => s
        | some q =>
          if q.left.contains n then
            match s.serveOne q n with
            | (s, q, true) => s.setReq pos (some q)
            | (s, q, false) => s.holdReq pos q
          else s).roots = s.roots := by
    intro t k c j
    refine atTeam_roots (fun s => ?_) s
    split
    · rfl
    · split
      · rfl
      · next q _ =>
        split
        · have h := serveOne_roots s q n
          split
          · next e => rw [e] at h; exact h
          · next e => rw [e] at h; simpa using h
        · rfl
  unfold State.capture
  simp only []
  split
  · exact lanes _ _ _ _
  · exact lanes _ _ _ _
  · refine atTeam_roots (fun s => ?_) s
    split
    · rfl
    · split
      · rfl
      · split
        · next h => exact serveTab_roots.1 _ h
        · next h => exact serveTab_roots.2 _ h
  · split
    · rfl
    · split
      · rfl
      · refine atTeam_roots (fun s => ?_) s
        split
        · exact raise_roots _ _
        · split
          · rfl
          · exact holdSector_roots _ _ _ _
  · rfl

end Sys2Proof.Machine
end

