-- ==== Sys2Proof/Laws/RootsExec.lean ====
section
/-! SUPPORT. No instruction of exec and no event changes the machine's roots of trust: the
fuse table, the anti-rollback counter and the running firmware version (24 R363, 25 R397), but
for the firmware image check, which may only install a version at or above the counter. -/

namespace Sys2Proof.Machine

theorem execNop_roots {o : ROps} {s u : State} (h : execNop o s = .next u) : u.roots = s.roots := by
  simp only [execNop] at h
  refine issue_roots (fun s => ?_) h
  simp

theorem execSmov_roots {o : ROps} {s u : State} (h : execSmov o s = .next u) : u.roots = s.roots := by
  simp only [execSmov, scalarOp] at h
  refine issue_roots (fun s => ?_) h
  simp

theorem execSmovi_roots {o : IOps} {s u : State}
    (h : execSmovi o s = .next u) : u.roots = s.roots := by
  simp only [execSmovi, scalarOp] at h
  refine issue_roots (fun s => ?_) h
  simp

theorem execSadd_roots {o : ROps} {s u : State} (h : execSadd o s = .next u) : u.roots = s.roots := by
  simp only [execSadd, scalarOp] at h
  refine issue_roots (fun s => ?_) h
  simp

theorem execSsub_roots {o : ROps} {s u : State} (h : execSsub o s = .next u) : u.roots = s.roots := by
  simp only [execSsub, scalarOp] at h
  refine issue_roots (fun s => ?_) h
  simp

theorem execSmul_roots {o : ROps} {s u : State} (h : execSmul o s = .next u) : u.roots = s.roots := by
  simp only [execSmul, scalarOp] at h
  refine issue_roots (fun s => ?_) h
  simp

theorem execSmulh_roots {o : ROps} {s u : State}
    (h : execSmulh o s = .next u) : u.roots = s.roots := by
  simp only [execSmulh, scalarOp] at h
  refine issue_roots (fun s => ?_) h
  simp

theorem execSmulhu_roots {o : ROps} {s u : State}
    (h : execSmulhu o s = .next u) : u.roots = s.roots := by
  simp only [execSmulhu, scalarOp] at h
  refine issue_roots (fun s => ?_) h
  simp

theorem execSand_roots {o : ROps} {s u : State} (h : execSand o s = .next u) : u.roots = s.roots := by
  simp only [execSand, scalarOp] at h
  refine issue_roots (fun s => ?_) h
  simp

theorem execSor_roots {o : ROps} {s u : State} (h : execSor o s = .next u) : u.roots = s.roots := by
  simp only [execSor, scalarOp] at h
  refine issue_roots (fun s => ?_) h
  simp

theorem execSxor_roots {o : ROps} {s u : State} (h : execSxor o s = .next u) : u.roots = s.roots := by
  simp only [execSxor, scalarOp] at h
  refine issue_roots (fun s => ?_) h
  simp

theorem execSshl_roots {o : ROps} {s u : State} (h : execSshl o s = .next u) : u.roots = s.roots := by
  simp only [execSshl, scalarOp] at h
  refine issue_roots (fun s => ?_) h
  simp

theorem execSshr_roots {o : ROps} {s u : State} (h : execSshr o s = .next u) : u.roots = s.roots := by
  simp only [execSshr, scalarOp] at h
  refine issue_roots (fun s => ?_) h
  simp

theorem execSsra_roots {o : ROps} {s u : State} (h : execSsra o s = .next u) : u.roots = s.roots := by
  simp only [execSsra, scalarOp] at h
  refine issue_roots (fun s => ?_) h
  simp

theorem execScmp_roots {o : XOps} {s u : State} (h : execScmp o s = .next u) : u.roots = s.roots := by
  simp only [execScmp, scalarOp] at h
  refine issue_roots (fun s => ?_) h
  simp

theorem execSsel_roots {o : XOps} {s u : State} (h : execSsel o s = .next u) : u.roots = s.roots := by
  simp only [execSsel, scalarOp] at h
  refine issue_roots (fun s => ?_) h
  simp

theorem execSaddi_roots {o : IOps} {s u : State}
    (h : execSaddi o s = .next u) : u.roots = s.roots := by
  simp only [execSaddi, scalarOp] at h
  refine issue_roots (fun s => ?_) h
  simp

theorem execSldk_roots {o : ROps} {s u : State} (h : execSldk o s = .next u) : u.roots = s.roots := by
  simp only [execSldk] at h
  refine issue_roots (fun s => ?_) h
  simp

theorem execSminS_roots {o : XOps} {s u : State}
    (h : execSminS o s = .next u) : u.roots = s.roots := by
  simp only [execSminS, scalarOp] at h
  refine issue_roots (fun s => ?_) h
  simp

theorem execSminU_roots {o : XOps} {s u : State}
    (h : execSminU o s = .next u) : u.roots = s.roots := by
  simp only [execSminU, scalarOp] at h
  refine issue_roots (fun s => ?_) h
  simp

theorem execSmaxS_roots {o : XOps} {s u : State}
    (h : execSmaxS o s = .next u) : u.roots = s.roots := by
  simp only [execSmaxS, scalarOp] at h
  refine issue_roots (fun s => ?_) h
  simp

theorem execSmaxU_roots {o : XOps} {s u : State}
    (h : execSmaxU o s = .next u) : u.roots = s.roots := by
  simp only [execSmaxU, scalarOp] at h
  refine issue_roots (fun s => ?_) h
  simp

theorem execSbit_roots {o : XOps} {s u : State} (h : execSbit o s = .next u) : u.roots = s.roots := by
  simp only [execSbit, scalarOp] at h
  refine issue_roots (fun s => ?_) h
  simp

theorem execSrdsr_roots {o : ROps} {s u : State}
    (h : execSrdsr o s = .next u) : u.roots = s.roots := by
  simp only [execSrdsr] at h
  refine issue_roots (fun s => ?_) h
  simp

theorem execSwrsr_roots {o : ROps} {s u : State}
    (h : execSwrsr o s = .next u) : u.roots = s.roots := by
  simp only [execSwrsr] at h
  refine issue_roots (fun s => ?_) h
  rw [onTeam_roots, State.pinSeed]
  split <;> rfl

theorem execBrCond_roots {o : IOps} {s u : State}
    (h : execBrCond o s = .next u) : u.roots = s.roots := by
  simp only [execBrCond] at h
  refine issueT_roots (fun c s => ?_) h
  repeat' split
  all_goals rfl

theorem execBrz_roots {o : IOps} {s u : State} (h : execBrz o s = .next u) : u.roots = s.roots := by
  simp only [execBrz] at h
  refine issueT_roots (fun c s => ?_) h
  repeat' split
  all_goals rfl

theorem execBrnz_roots {o : IOps} {s u : State} (h : execBrnz o s = .next u) : u.roots = s.roots := by
  simp only [execBrnz] at h
  refine issueT_roots (fun c s => ?_) h
  repeat' split
  all_goals rfl

theorem execCall_roots {o : IOps} {s u : State} (h : execCall o s = .next u) : u.roots = s.roots := by
  simp only [execCall] at h
  refine issueT_roots (fun c s => ?_) h
  repeat' split
  all_goals rfl

theorem execCalls_roots {o : ROps} {s u : State}
    (h : execCalls o s = .next u) : u.roots = s.roots := by
  simp only [execCalls] at h
  refine issueT_roots (fun c s => ?_) h
  simp

theorem execRet_roots {o : ROps} {s u : State} (h : execRet o s = .next u) : u.roots = s.roots := by
  simp only [execRet] at h
  refine issueT_roots (fun c s => ?_) h
  repeat' split
  all_goals rfl

theorem execJmps_roots {o : ROps} {s u : State} (h : execJmps o s = .next u) : u.roots = s.roots := by
  simp only [execJmps] at h
  refine issueT_roots (fun c s => ?_) h
  simp

theorem execEndt_roots {o : ROps} {s u : State} (h : execEndt o s = .next u) : u.roots = s.roots := by
  simp only [execEndt] at h
  refine issueT_roots (fun c s => ?_) h
  simp

theorem execWaitc_roots {o : ROps} {s u : State}
    (h : execWaitc o s = .next u) : u.roots = s.roots := by
  simp only [execWaitc] at h
  refine issue_roots (fun s => ?_) h
  simp

theorem execMand_roots {o : ROps} {s u : State} (h : execMand o s = .next u) : u.roots = s.roots := by
  simp only [execMand, maskOp] at h
  refine issue_roots (fun s => ?_) h
  simp

theorem execMor_roots {o : ROps} {s u : State} (h : execMor o s = .next u) : u.roots = s.roots := by
  simp only [execMor, maskOp] at h
  refine issue_roots (fun s => ?_) h
  simp

theorem execMxor_roots {o : ROps} {s u : State} (h : execMxor o s = .next u) : u.roots = s.roots := by
  simp only [execMxor, maskOp] at h
  refine issue_roots (fun s => ?_) h
  simp

theorem execMandn_roots {o : ROps} {s u : State}
    (h : execMandn o s = .next u) : u.roots = s.roots := by
  simp only [execMandn, maskOp] at h
  refine issue_roots (fun s => ?_) h
  simp

theorem execMnot_roots {o : ROps} {s u : State} (h : execMnot o s = .next u) : u.roots = s.roots := by
  simp only [execMnot, maskOp] at h
  refine issue_roots (fun s => ?_) h
  simp

theorem execMmov_roots {o : ROps} {s u : State} (h : execMmov o s = .next u) : u.roots = s.roots := by
  simp only [execMmov, maskOp] at h
  refine issue_roots (fun s => ?_) h
  simp

theorem execMseti_roots {o : IOps} {s u : State}
    (h : execMseti o s = .next u) : u.roots = s.roots := by
  simp only [execMseti, maskOp] at h
  refine issue_roots (fun s => ?_) h
  simp

theorem execExenter_roots {o : ROps} {s u : State}
    (h : execExenter o s = .next u) : u.roots = s.roots := by
  simp only [execExenter] at h
  refine issue_roots (fun s => ?_) h
  simp

theorem execExset_roots {o : ROps} {s u : State}
    (h : execExset o s = .next u) : u.roots = s.roots := by
  simp only [execExset, maskOp] at h
  refine issue_roots (fun s => ?_) h
  simp

theorem execMcnt_roots {o : ROps} {s u : State} (h : execMcnt o s = .next u) : u.roots = s.roots := by
  simp only [execMcnt] at h
  refine issue_roots (fun s => ?_) h
  simp

theorem execMfirst_roots {o : ROps} {s u : State}
    (h : execMfirst o s = .next u) : u.roots = s.roots := by
  simp only [execMfirst] at h
  refine issue_roots (fun s => ?_) h
  simp

theorem execMgetw_roots {o : ROps} {s u : State}
    (h : execMgetw o s = .next u) : u.roots = s.roots := by
  simp only [execMgetw] at h
  refine issue_roots (fun s => ?_) h
  simp

theorem execMputw_roots {o : ROps} {s u : State}
    (h : execMputw o s = .next u) : u.roots = s.roots := by
  simp only [execMputw] at h
  refine issue_roots (fun s => ?_) h
  repeat' split
  all_goals rfl

theorem execVtom_roots {o : ROps} {s u : State} (h : execVtom o s = .next u) : u.roots = s.roots := by
  simp only [execVtom] at h
  refine issue_roots (fun s => ?_) h
  simp

theorem execMtov_roots {o : ROps} {s u : State} (h : execMtov o s = .next u) : u.roots = s.roots := by
  simp only [execMtov] at h
  refine issue_roots (fun s => ?_) h
  simp

theorem execQswph_roots {o : ROps} {s u : State}
    (h : execQswph o s = .next u) : u.roots = s.roots := by
  simp only [execQswph, quadOp] at h
  refine issue_roots (fun s => ?_) h
  simp

theorem execQswpv_roots {o : ROps} {s u : State}
    (h : execQswpv o s = .next u) : u.roots = s.roots := by
  simp only [execQswpv, quadOp] at h
  refine issue_roots (fun s => ?_) h
  simp

theorem execQswpd_roots {o : ROps} {s u : State}
    (h : execQswpd o s = .next u) : u.roots = s.roots := by
  simp only [execQswpd, quadOp] at h
  refine issue_roots (fun s => ?_) h
  simp

theorem execQbcst_roots {o : ROps} {s u : State}
    (h : execQbcst o s = .next u) : u.roots = s.roots := by
  simp only [execQbcst, quadOp] at h
  refine issue_roots (fun s => ?_) h
  simp

theorem execQddx_roots {o : ROps} {s u : State} (h : execQddx o s = .next u) : u.roots = s.roots := by
  simp only [execQddx, derivOp] at h
  refine issue_roots (fun s => ?_) h
  simp

theorem execQddy_roots {o : ROps} {s u : State} (h : execQddy o s = .next u) : u.roots = s.roots := by
  simp only [execQddy, derivOp] at h
  refine issue_roots (fun s => ?_) h
  simp

theorem execQhelp_roots {o : ROps} {s u : State}
    (h : execQhelp o s = .next u) : u.roots = s.roots := by
  simp only [execQhelp, maskOp] at h
  refine issue_roots (fun s => ?_) h
  simp

theorem execVfadd_roots {o : XOps} {s u : State}
    (h : execVfadd o s = .next u) : u.roots = s.roots := by
  simp only [execVfadd, floatOp] at h
  refine issue_roots (fun s => ?_) h
  simp

theorem execVfsub_roots {o : XOps} {s u : State}
    (h : execVfsub o s = .next u) : u.roots = s.roots := by
  simp only [execVfsub, floatOp] at h
  refine issue_roots (fun s => ?_) h
  simp

theorem execVfmul_roots {o : XOps} {s u : State}
    (h : execVfmul o s = .next u) : u.roots = s.roots := by
  simp only [execVfmul, floatOp] at h
  refine issue_roots (fun s => ?_) h
  simp

theorem execVfma_roots {o : XOps} {s u : State} (h : execVfma o s = .next u) : u.roots = s.roots := by
  simp only [execVfma, floatOp] at h
  refine issue_roots (fun s => ?_) h
  simp

theorem execVfmin_roots {o : XOps} {s u : State}
    (h : execVfmin o s = .next u) : u.roots = s.roots := by
  simp only [execVfmin, floatOp] at h
  refine issue_roots (fun s => ?_) h
  simp

theorem execVfmax_roots {o : XOps} {s u : State}
    (h : execVfmax o s = .next u) : u.roots = s.roots := by
  simp only [execVfmax, floatOp] at h
  refine issue_roots (fun s => ?_) h
  simp

theorem execVfdiv_roots {o : XOps} {s u : State}
    (h : execVfdiv o s = .next u) : u.roots = s.roots := by
  simp only [execVfdiv, floatOp] at h
  refine issue_roots (fun s => ?_) h
  simp

theorem execVfsqrt_roots {o : XOps} {s u : State}
    (h : execVfsqrt o s = .next u) : u.roots = s.roots := by
  simp only [execVfsqrt, funOp, floatOp] at h
  refine issue_roots (fun s => ?_) h
  simp

theorem execVfrcp_roots {o : XOps} {s u : State}
    (h : execVfrcp o s = .next u) : u.roots = s.roots := by
  simp only [execVfrcp, funOp, floatOp] at h
  refine issue_roots (fun s => ?_) h
  simp

theorem execVfrsq_roots {o : XOps} {s u : State}
    (h : execVfrsq o s = .next u) : u.roots = s.roots := by
  simp only [execVfrsq, funOp, floatOp] at h
  refine issue_roots (fun s => ?_) h
  simp

theorem execVfexp2_roots {o : XOps} {s u : State}
    (h : execVfexp2 o s = .next u) : u.roots = s.roots := by
  simp only [execVfexp2, funOp, floatOp] at h
  refine issue_roots (fun s => ?_) h
  simp

theorem execVflog2_roots {o : XOps} {s u : State}
    (h : execVflog2 o s = .next u) : u.roots = s.roots := by
  simp only [execVflog2, funOp, floatOp] at h
  refine issue_roots (fun s => ?_) h
  simp

theorem execVfsinpi_roots {o : XOps} {s u : State}
    (h : execVfsinpi o s = .next u) : u.roots = s.roots := by
  simp only [execVfsinpi, funOp, floatOp] at h
  refine issue_roots (fun s => ?_) h
  simp

theorem execVfcospi_roots {o : XOps} {s u : State}
    (h : execVfcospi o s = .next u) : u.roots = s.roots := by
  simp only [execVfcospi, funOp, floatOp] at h
  refine issue_roots (fun s => ?_) h
  simp

theorem execVfcmp_roots {o : XOps} {s u : State}
    (h : execVfcmp o s = .next u) : u.roots = s.roots := by
  simp only [execVfcmp] at h
  refine issue_roots (fun s => ?_) h
  simp

theorem execVfclass_roots {o : XOps} {s u : State}
    (h : execVfclass o s = .next u) : u.roots = s.roots := by
  simp only [execVfclass] at h
  refine issue_roots (fun s => ?_) h
  simp

theorem execVfrnd_roots {o : XOps} {s u : State}
    (h : execVfrnd o s = .next u) : u.roots = s.roots := by
  simp only [execVfrnd, floatOp] at h
  refine issue_roots (fun s => ?_) h
  simp

theorem execVsel_roots {o : XOps} {s u : State} (h : execVsel o s = .next u) : u.roots = s.roots := by
  simp only [execVsel] at h
  refine issue_roots (fun s => ?_) h
  simp

theorem execVfldexp_roots {o : XOps} {s u : State}
    (h : execVfldexp o s = .next u) : u.roots = s.roots := by
  simp only [execVfldexp, floatOp] at h
  refine issue_roots (fun s => ?_) h
  simp

theorem execVfadds_roots {o : XOps} {s u : State}
    (h : execVfadds o s = .next u) : u.roots = s.roots := by
  simp only [execVfadds, floatOp] at h
  refine issue_roots (fun s => ?_) h
  simp

theorem execVfmuls_roots {o : XOps} {s u : State}
    (h : execVfmuls o s = .next u) : u.roots = s.roots := by
  simp only [execVfmuls, floatOp] at h
  refine issue_roots (fun s => ?_) h
  simp

theorem execVfmas_roots {o : XOps} {s u : State}
    (h : execVfmas o s = .next u) : u.roots = s.roots := by
  simp only [execVfmas, floatOp] at h
  refine issue_roots (fun s => ?_) h
  simp

theorem execVhadd_roots {o : XOps} {s u : State}
    (h : execVhadd o s = .next u) : u.roots = s.roots := by
  simp only [execVhadd, floatOp] at h
  refine issue_roots (fun s => ?_) h
  simp

theorem execVhmul_roots {o : XOps} {s u : State}
    (h : execVhmul o s = .next u) : u.roots = s.roots := by
  simp only [execVhmul, floatOp] at h
  refine issue_roots (fun s => ?_) h
  simp

theorem execVhfma_roots {o : XOps} {s u : State}
    (h : execVhfma o s = .next u) : u.roots = s.roots := by
  simp only [execVhfma, floatOp] at h
  refine issue_roots (fun s => ?_) h
  simp

theorem execVhdot2_roots {o : XOps} {s u : State}
    (h : execVhdot2 o s = .next u) : u.roots = s.roots := by
  simp only [execVhdot2, floatOp] at h
  refine issue_roots (fun s => ?_) h
  simp

theorem execVfdot4_roots {o : XOps} {s u : State}
    (h : execVfdot4 o s = .next u) : u.roots = s.roots := by
  simp only [execVfdot4, floatOp] at h
  refine issue_roots (fun s => ?_) h
  simp

theorem execViadd_roots {o : ROps} {s u : State}
    (h : execViadd o s = .next u) : u.roots = s.roots := by
  simp only [execViadd, intOp, laneOp] at h
  refine issue_roots (fun s => ?_) h
  simp

theorem execVisub_roots {o : ROps} {s u : State}
    (h : execVisub o s = .next u) : u.roots = s.roots := by
  simp only [execVisub, intOp, laneOp] at h
  refine issue_roots (fun s => ?_) h
  simp

theorem execVimul_roots {o : ROps} {s u : State}
    (h : execVimul o s = .next u) : u.roots = s.roots := by
  simp only [execVimul, intOp, laneOp] at h
  refine issue_roots (fun s => ?_) h
  simp

theorem execVimulh_roots {o : XOps} {s u : State}
    (h : execVimulh o s = .next u) : u.roots = s.roots := by
  simp only [execVimulh, intOp, laneOp] at h
  refine issue_roots (fun s => ?_) h
  simp

theorem execVimad_roots {o : XOps} {s u : State}
    (h : execVimad o s = .next u) : u.roots = s.roots := by
  simp only [execVimad] at h
  refine issue_roots (fun s => ?_) h
  simp

theorem execVimin_roots {o : XOps} {s u : State}
    (h : execVimin o s = .next u) : u.roots = s.roots := by
  simp only [execVimin, intOp, laneOp] at h
  refine issue_roots (fun s => ?_) h
  simp

theorem execVimax_roots {o : XOps} {s u : State}
    (h : execVimax o s = .next u) : u.roots = s.roots := by
  simp only [execVimax, intOp, laneOp] at h
  refine issue_roots (fun s => ?_) h
  simp

theorem execVand_roots {o : ROps} {s u : State} (h : execVand o s = .next u) : u.roots = s.roots := by
  simp only [execVand, intOp, laneOp] at h
  refine issue_roots (fun s => ?_) h
  simp

theorem execVor_roots {o : ROps} {s u : State} (h : execVor o s = .next u) : u.roots = s.roots := by
  simp only [execVor, intOp, laneOp] at h
  refine issue_roots (fun s => ?_) h
  simp

theorem execVxor_roots {o : ROps} {s u : State} (h : execVxor o s = .next u) : u.roots = s.roots := by
  simp only [execVxor, intOp, laneOp] at h
  refine issue_roots (fun s => ?_) h
  simp

theorem execVshl_roots {o : ROps} {s u : State} (h : execVshl o s = .next u) : u.roots = s.roots := by
  simp only [execVshl, intOp, laneOp] at h
  refine issue_roots (fun s => ?_) h
  simp

theorem execVshr_roots {o : ROps} {s u : State} (h : execVshr o s = .next u) : u.roots = s.roots := by
  simp only [execVshr, intOp, laneOp] at h
  refine issue_roots (fun s => ?_) h
  simp

theorem execVsra_roots {o : ROps} {s u : State} (h : execVsra o s = .next u) : u.roots = s.roots := by
  simp only [execVsra, intOp, laneOp] at h
  refine issue_roots (fun s => ?_) h
  simp

theorem execVicmp_roots {o : XOps} {s u : State}
    (h : execVicmp o s = .next u) : u.roots = s.roots := by
  simp only [execVicmp] at h
  refine issue_roots (fun s => ?_) h
  simp

theorem execVbit_roots {o : XOps} {s u : State} (h : execVbit o s = .next u) : u.roots = s.roots := by
  simp only [execVbit, laneOp] at h
  refine issue_roots (fun s => ?_) h
  simp

theorem execVbfe_roots {o : XOps} {s u : State} (h : execVbfe o s = .next u) : u.roots = s.roots := by
  simp only [execVbfe, laneOp] at h
  refine issue_roots (fun s => ?_) h
  simp

theorem execVbfi_roots {o : XOps} {s u : State} (h : execVbfi o s = .next u) : u.roots = s.roots := by
  simp only [execVbfi, laneOp] at h
  refine issue_roots (fun s => ?_) h
  simp

theorem execViadd64_roots {o : ROps} {s u : State}
    (h : execViadd64 o s = .next u) : u.roots = s.roots := by
  simp only [execViadd64] at h
  refine issue_roots (fun s => ?_) h
  simp

theorem execVidot4_roots {o : XOps} {s u : State}
    (h : execVidot4 o s = .next u) : u.roots = s.roots := by
  simp only [execVidot4, dotOp] at h
  refine issue_roots (fun s => ?_) h
  simp

theorem execVidot8_roots {o : XOps} {s u : State}
    (h : execVidot8 o s = .next u) : u.roots = s.roots := by
  simp only [execVidot8, dotOp] at h
  refine issue_roots (fun s => ?_) h
  simp

theorem execViadds_roots {o : XOps} {s u : State}
    (h : execViadds o s = .next u) : u.roots = s.roots := by
  simp only [execViadds] at h
  refine issue_roots (fun s => ?_) h
  simp

theorem execVmov_roots {o : ROps} {s u : State} (h : execVmov o s = .next u) : u.roots = s.roots := by
  simp only [execVmov, laneOp] at h
  refine issue_roots (fun s => ?_) h
  simp

theorem execVmovs_roots {o : ROps} {s u : State}
    (h : execVmovs o s = .next u) : u.roots = s.roots := by
  simp only [execVmovs, laneOp] at h
  refine issue_roots (fun s => ?_) h
  simp

theorem execVmovi_roots {o : IOps} {s u : State}
    (h : execVmovi o s = .next u) : u.roots = s.roots := by
  simp only [execVmovi, laneOp] at h
  refine issue_roots (fun s => ?_) h
  simp

theorem execVlane_roots {o : ROps} {s u : State}
    (h : execVlane o s = .next u) : u.roots = s.roots := by
  simp only [execVlane, laneOp] at h
  refine issue_roots (fun s => ?_) h
  simp

theorem execViaddi_roots {o : IOps} {s u : State}
    (h : execViaddi o s = .next u) : u.roots = s.roots := by
  simp only [execViaddi, laneOp] at h
  refine issue_roots (fun s => ?_) h
  simp

theorem execVcvt_roots {o : XOps} {s u : State} (h : execVcvt o s = .next u) : u.roots = s.roots := by
  simp only [execVcvt, floatOp] at h
  refine issue_roots (fun s => ?_) h
  simp

theorem execVcvtn_roots {o : XOps} {s u : State}
    (h : execVcvtn o s = .next u) : u.roots = s.roots := by
  simp only [execVcvtn, floatOp] at h
  refine issue_roots (fun s => ?_) h
  simp

theorem execVcvtw_roots {o : XOps} {s u : State}
    (h : execVcvtw o s = .next u) : u.roots = s.roots := by
  simp only [execVcvtw] at h
  refine issue_roots (fun s => ?_) h
  simp

theorem execVpk16_roots {o : XOps} {s u : State}
    (h : execVpk16 o s = .next u) : u.roots = s.roots := by
  simp only [execVpk16, floatOp] at h
  refine issue_roots (fun s => ?_) h
  simp

theorem execVblksc_roots {o : XOps} {s u : State}
    (h : execVblksc o s = .next u) : u.roots = s.roots := by
  simp only [execVblksc] at h
  refine issue_roots (fun s => ?_) h
  simp

theorem execVshfl_roots {o : XOps} {s u : State}
    (h : execVshfl o s = .next u) : u.roots = s.roots := by
  simp only [execVshfl, laneOp] at h
  refine issue_roots (fun s => ?_) h
  simp

theorem execVbcst_roots {o : XOps} {s u : State}
    (h : execVbcst o s = .next u) : u.roots = s.roots := by
  simp only [execVbcst, laneOp] at h
  refine issue_roots (fun s => ?_) h
  simp

theorem execVred_roots {o : XOps} {s u : State} (h : execVred o s = .next u) : u.roots = s.roots := by
  simp only [execVred] at h
  refine issue_roots (fun s => ?_) h
  repeat' split
  all_goals first | rfl | simp

theorem execVredsp_roots {o : XOps} {s u : State}
    (h : execVredsp o s = .next u) : u.roots = s.roots := by
  simp only [execVredsp] at h
  refine issue_roots (fun s => ?_) h
  repeat' split
  all_goals first | rfl | simp

theorem execVscan_roots {o : XOps} {s u : State}
    (h : execVscan o s = .next u) : u.roots = s.roots := by
  simp only [execVscan] at h
  refine issue_roots (fun s => ?_) h
  simp

theorem execHad32_roots {o : XOps} {s u : State}
    (h : execHad32 o s = .next u) : u.roots = s.roots := by
  simp only [execHad32] at h
  refine issue_roots (fun s => ?_) h
  simp

theorem execVpackl_roots {o : XOps} {s u : State}
    (h : execVpackl o s = .next u) : u.roots = s.roots := by
  simp only [execVpackl] at h
  refine issue_roots (fun s => ?_) h
  simp

theorem execLdl_roots {o : XOps} {s u : State} (h : execLdl o s = .next u) : u.roots = s.roots := by
  simp only [execLdl] at h
  refine issue_roots (fun s => ?_) h
  simp

theorem execStl_roots {o : XOps} {s u : State} (h : execStl o s = .next u) : u.roots = s.roots := by
  simp only [execStl] at h
  refine issue_roots (fun s => ?_) h
  simp

theorem execLdd_roots {o : XOps} {s u : State} (h : execLdd o s = .next u) : u.roots = s.roots := by
  simp only [execLdd] at h
  refine issue_roots (fun s => ?_) h
  simp

theorem execStd_roots {o : XOps} {s u : State} (h : execStd o s = .next u) : u.roots = s.roots := by
  simp only [execStd] at h
  refine issue_roots (fun s => ?_) h
  repeat' split
  all_goals rfl

theorem execAtd_roots {o : XOps} {s u : State} (h : execAtd o s = .next u) : u.roots = s.roots := by
  simp only [execAtd] at h
  refine issue_roots (fun s => ?_) h
  repeat' split
  all_goals rfl

theorem execAtdR_roots {o : XOps} {s u : State} (h : execAtdR o s = .next u) : u.roots = s.roots := by
  simp only [execAtdR] at h
  refine issueT_roots (fun c s => ?_) h
  simp

theorem execSpill_roots {o : XOps} {s u : State}
    (h : execSpill o s = .next u) : u.roots = s.roots := by
  simp only [execSpill] at h
  refine issue_roots (fun s => ?_) h
  simp

theorem execFill_roots {o : XOps} {s u : State} (h : execFill o s = .next u) : u.roots = s.roots := by
  simp only [execFill] at h
  refine issue_roots (fun s => ?_) h
  repeat' split
  all_goals rfl

theorem execLdh_roots {o : XOps} {s u : State} (h : execLdh o s = .next u) : u.roots = s.roots := by
  simp only [execLdh] at h
  refine issue_roots (fun s => ?_) h
  repeat' split
  all_goals rfl

theorem execSldl_roots {o : ROps} {s u : State} (h : execSldl o s = .next u) : u.roots = s.roots := by
  simp only [execSldl] at h
  refine issue_roots (fun s => ?_) h
  simp

theorem execSstl_roots {o : ROps} {s u : State} (h : execSstl o s = .next u) : u.roots = s.roots := by
  simp only [execSstl] at h
  refine issue_roots (fun s => ?_) h
  simp

theorem coreRec_roots (s : State) (c : Core) (r : Rec) : (State.addRec { s with core := c } r).roots = s.roots := rfl

theorem execCpyout_roots {o : XOps} {s u : State}
    (h : execCpyout o s = .next u) : u.roots = s.roots := by
  simp only [execCpyout] at h
  refine issue_roots (fun s => ?_) h
  split
  · rfl
  · simp

theorem execCpyoutH_roots {o : XOps} {s u : State}
    (h : execCpyoutH o s = .next u) : u.roots = s.roots := by
  simp only [execCpyoutH] at h
  refine issue_roots (fun s => ?_) h
  repeat' split
  all_goals first | rfl | exact (coreRec_roots _ _ _).trans (touchPages_roots _ _)

theorem execTcpyout_roots {o : XOps} {s u : State}
    (h : execTcpyout o s = .next u) : u.roots = s.roots := by
  simp only [execTcpyout] at h
  refine issue_roots (fun s => ?_) h
  repeat' split
  all_goals first | rfl | exact (coreRec_roots _ _ _).trans (touchPages_roots _ _)

theorem execHopen_roots {o : XOps} {s u : State}
    (h : execHopen o s = .next u) : u.roots = s.roots := by
  simp only [execHopen] at h
  refine issue_roots (fun s => ?_) h
  repeat' split
  all_goals rfl

theorem execHseal_roots {o : ROps} {s u : State}
    (h : execHseal o s = .next u) : u.roots = s.roots := by
  simp only [execHseal] at h
  refine issue_roots (fun s => ?_) h
  repeat' split
  all_goals first | rfl | simp

theorem execHfree_roots {o : ROps} {s u : State}
    (h : execHfree o s = .next u) : u.roots = s.roots := by
  simp only [execHfree] at h
  refine issue_roots (fun s => ?_) h
  repeat' split
  all_goals rfl

theorem execHwaitFull_roots {o : ROps} {s u : State}
    (h : execHwaitFull o s = .next u) : u.roots = s.roots := by
  simp only [execHwaitFull] at h
  refine issue_roots (fun s => ?_) h
  simp

theorem execHwaitIdle_roots {o : ROps} {s u : State}
    (h : execHwaitIdle o s = .next u) : u.roots = s.roots := by
  simp only [execHwaitIdle] at h
  refine issue_roots (fun s => ?_) h
  simp

theorem execHstat_roots {o : ROps} {s u : State}
    (h : execHstat o s = .next u) : u.roots = s.roots := by
  simp only [execHstat, scalarOp] at h
  refine issue_roots (fun s => ?_) h
  simp

theorem execGatom_roots {o : XOps} {s u : State}
    (h : execGatom o s = .next u) : u.roots = s.roots := by
  simp only [execGatom] at h
  refine issue_roots (fun s => ?_) h
  repeat' split
  all_goals first | rfl | simp

theorem execGatomr_roots {o : XOps} {s u : State}
    (h : execGatomr o s = .next u) : u.roots = s.roots := by
  simp only [execGatomr] at h
  refine issueT_roots (fun c s => ?_) h
  simp

theorem execEvpop_roots {o : ROps} {s u : State}
    (h : execEvpop o s = .next u) : u.roots = s.roots := by
  simp only [execEvpop] at h
  refine issue_roots (fun s => ?_) h
  rfl

theorem execMldb_roots {o : XOps} {s u : State} (h : execMldb o s = .next u) : u.roots = s.roots := by
  simp only [execMldb, matIssue] at h
  refine issue_roots (fun s => ?_) h
  simp

theorem execMma_roots {o : XOps} {s u : State} (h : execMma o s = .next u) : u.roots = s.roots := by
  simp only [execMma, matIssue] at h
  refine issue_roots (fun s => ?_) h
  simp

theorem execMoutl_roots {o : XOps} {s u : State}
    (h : execMoutl o s = .next u) : u.roots = s.roots := by
  simp only [execMoutl, matIssue] at h
  refine issue_roots (fun s => ?_) h
  simp

theorem execMrd_roots {o : XOps} {s u : State} (h : execMrd o s = .next u) : u.roots = s.roots := by
  simp only [execMrd] at h
  refine issue_roots (fun s => ?_) h
  simp

theorem execMzero_roots {o : ROps} {s u : State}
    (h : execMzero o s = .next u) : u.roots = s.roots := by
  simp only [execMzero, matIssue] at h
  refine issue_roots (fun s => ?_) h
  simp

theorem execMfence_roots {o : ROps} {s u : State}
    (h : execMfence o s = .next u) : u.roots = s.roots := by
  simp only [execMfence] at h
  refine issue_roots (fun s => ?_) h
  simp

theorem execXldb_roots {o : XOps} {s u : State} (h : execXldb o s = .next u) : u.roots = s.roots := by
  simp only [execXldb, matIssue] at h
  refine issue_roots (fun s => ?_) h
  simp

theorem execXcmp_roots {o : XOps} {s u : State} (h : execXcmp o s = .next u) : u.roots = s.roots := by
  simp only [execXcmp, matIssue] at h
  refine issue_roots (fun s => ?_) h
  simp

theorem execXrow_roots {o : XOps} {s u : State} (h : execXrow o s = .next u) : u.roots = s.roots := by
  simp only [execXrow, matIssue] at h
  refine issue_roots (fun s => ?_) h
  simp

theorem execXcol_roots {o : XOps} {s u : State} (h : execXcol o s = .next u) : u.roots = s.roots := by
  simp only [execXcol, matIssue] at h
  refine issue_roots (fun s => ?_) h
  simp

theorem execXclos_roots {o : XOps} {s u : State}
    (h : execXclos o s = .next u) : u.roots = s.roots := by
  simp only [execXclos, matIssue] at h
  refine issue_roots (fun s => ?_) h
  simp

theorem execXcomp_roots {o : ROps} {s u : State}
    (h : execXcomp o s = .next u) : u.roots = s.roots := by
  simp only [execXcomp, matIssue] at h
  refine issue_roots (fun s => ?_) h
  simp

theorem execXtrn_roots {o : ROps} {s u : State} (h : execXtrn o s = .next u) : u.roots = s.roots := by
  simp only [execXtrn, matIssue] at h
  refine issue_roots (fun s => ?_) h
  simp

theorem execXlog_roots {o : XOps} {s u : State} (h : execXlog o s = .next u) : u.roots = s.roots := by
  simp only [execXlog, matIssue] at h
  refine issue_roots (fun s => ?_) h
  simp

theorem execXset_roots {o : XOps} {s u : State} (h : execXset o s = .next u) : u.roots = s.roots := by
  simp only [execXset, matIssue] at h
  refine issue_roots (fun s => ?_) h
  simp

theorem execTex_roots {o : XOps} {s u : State} (h : execTex o s = .next u) : u.roots = s.roots := by
  simp only [execTex] at h
  refine issue_roots (fun s => ?_) h
  simp

theorem execTexld_roots {o : XOps} {s u : State}
    (h : execTexld o s = .next u) : u.roots = s.roots := by
  simp only [execTexld] at h
  refine issue_roots (fun s => ?_) h
  simp

theorem execHgf_roots {o : XOps} {s u : State} (h : execHgf o s = .next u) : u.roots = s.roots := by
  simp only [execHgf] at h
  refine issue_roots (fun s => ?_) h
  simp

theorem execTrace_roots {o : XOps} {s u : State}
    (h : execTrace o s = .next u) : u.roots = s.roots := by
  simp only [execTrace] at h
  refine issue_roots (fun s => ?_) h
  simp

theorem execRnd_roots {o : XOps} {s u : State} (h : execRnd o s = .next u) : u.roots = s.roots := by
  simp only [execRnd] at h
  refine issue_roots (fun s => ?_) h
  simp

theorem execTres_roots {o : XOps} {s u : State} (h : execTres o s = .next u) : u.roots = s.roots := by
  simp only [execTres] at h
  refine issue_roots (fun s => ?_) h
  simp

theorem execTview_roots {o : XOps} {s u : State}
    (h : execTview o s = .next u) : u.roots = s.roots := by
  simp only [execTview] at h
  refine issue_roots (fun s => ?_) h
  simp

theorem execTqdel_roots {o : XOps} {s u : State}
    (h : execTqdel o s = .next u) : u.roots = s.roots := by
  simp only [execTqdel, queueOp] at h
  refine issue_roots (fun s => ?_) h
  repeat' split
  all_goals first | rfl | simp

theorem execTqadd_roots {o : XOps} {s u : State}
    (h : execTqadd o s = .next u) : u.roots = s.roots := by
  simp only [execTqadd] at h
  refine issue_roots (fun s => ?_) h
  repeat' split
  all_goals first | rfl | simp

theorem execTqrem_roots {o : XOps} {s u : State}
    (h : execTqrem o s = .next u) : u.roots = s.roots := by
  simp only [execTqrem, queueOp] at h
  refine issue_roots (fun s => ?_) h
  repeat' split
  all_goals first | rfl | simp

theorem execBinpush_roots {o : XOps} {s u : State}
    (h : execBinpush o s = .next u) : u.roots = s.roots := by
  simp only [execBinpush] at h
  refine issue_roots (fun s => ?_) h
  repeat' split
  all_goals rfl

theorem execBinflush_roots {o : ROps} {s u : State}
    (h : execBinflush o s = .next u) : u.roots = s.roots := by
  simp only [execBinflush] at h
  refine issue_roots (fun s => ?_) h
  simp

theorem execLaunch_roots {o : XOps} {s u : State}
    (h : execLaunch o s = .next u) : u.roots = s.roots := by
  simp only [execLaunch] at h
  refine issueT_roots (fun c s => ?_) h
  simp

theorem execYield_roots {o : IOps} {s u : State}
    (h : execYield o s = .next u) : u.roots = s.roots := by
  simp only [execYield] at h
  refine issueT_roots (fun c s => ?_) h
  simp

theorem execBar_roots {o : ROps} {s u : State} (h : execBar o s = .next u) : u.roots = s.roots := by
  simp only [execBar] at h
  refine issueT_roots (fun c s => ?_) h
  simp

theorem execSysc_roots {o : XOps} {s u : State} (h : execSysc o s = .next u) : u.roots = s.roots := by
  simp only [execSysc] at h
  refine issueT_roots (fun c s => ?_) h
  simp

theorem execTrap_roots {o : ROps} {s u : State} (h : execTrap o s = .next u) : u.roots = s.roots := by
  simp only [execTrap] at h
  refine issueT_roots (fun c s => ?_) h
  simp

theorem execLdovt_roots {o : ROps} {s u : State}
    (h : execLdovt o s = .next u) : u.roots = s.roots := by
  simp only [execLdovt] at h
  refine issue_roots (fun s => ?_) h
  simp

theorem execSleep_roots {o : ROps} {s u : State}
    (h : execSleep o s = .next u) : u.roots = s.roots := by
  simp only [execSleep] at h
  refine issue_roots (fun s => ?_) h
  repeat' split
  all_goals rfl

theorem execPrd_roots {o : ROps} {s u : State} (h : execPrd o s = .next u) : u.roots = s.roots := by
  simp only [execPrd] at h
  refine issue_roots (fun s => ?_) h
  repeat' split
  all_goals rfl

theorem execPwr_roots {o : ROps} {s u : State} (h : execPwr o s = .next u) : u.roots = s.roots := by
  simp only [execPwr] at h
  refine issue_roots (fun s => ?_) h
  rfl

theorem execEret_roots {o : ROps} {s u : State} (h : execEret o s = .next u) : u.roots = s.roots := by
  simp only [execEret] at h
  refine issueT_roots (fun c s => ?_) h
  simp

theorem execClauseDecode_roots {t k : Nat} {s u : State}
    (h : execClauseDecode t k s = .next u) : u.roots = s.roots := by
  simp only [execClauseDecode, Host.Outcome.next.injEq] at h
  subst h
  refine atTeam_roots (fun s => ?_) s
  repeat' split
  all_goals first | rfl | simp

theorem execDeadline_roots {t k : Nat} {s u : State}
    (h : execDeadline t k s = .next u) : u.roots = s.roots := by
  simp only [execDeadline, Host.Outcome.next.injEq] at h
  subst h
  refine atTeam_roots (fun s => ?_) s
  repeat' split
  all_goals first | rfl | simp

theorem execLoadDataArrival_roots {t k i : Nat} {s u : State}
    (h : execLoadDataArrival t k n s = .next u) : u.roots = s.roots := by
  simp only [execLoadDataArrival, Host.Outcome.next.injEq] at h
  subst h
  refine atTeam_roots (fun s => ?_) s
  repeat' split
  all_goals first | rfl | simp

theorem execAtomicOldValueArrival_roots {t k i : Nat} {s u : State}
    (h : execAtomicOldValueArrival t k n s = .next u) : u.roots = s.roots := by
  simp only [execAtomicOldValueArrival, Host.Outcome.next.injEq] at h
  subst h
  refine atTeam_roots (fun s => ?_) s
  repeat' split
  all_goals first | rfl | simp

theorem execComplete_roots {t b : Nat} {s u : State}
    (h : execComplete t b s = .next u) : u.roots = s.roots := by
  simp only [execComplete, Host.Outcome.next.injEq] at h
  subst h
  refine atTenant_roots (fun s => ?_) s
  repeat' split
  all_goals first | rfl | simp

theorem execPerform_roots {t k i : Nat} {s u : State}
    (h : execPerform t k n s = .next u) : u.roots = s.roots := by
  simp only [execPerform, Host.Outcome.next.injEq] at h
  subst h
  refine atTenant_roots (fun s => ?_) s
  repeat' split
  all_goals first | rfl | simp

theorem execEventRecordPost_roots {t b e : Nat} {s u : State}
    (h : execEventRecordPost t b e s = .next u) : u.roots = s.roots := by
  simp only [execEventRecordPost, Host.Outcome.next.injEq] at h
  subst h
  refine atTenant_roots (fun s => ?_) s
  rfl

theorem execEngineReply_roots {t k i : Nat} {s u : State}
    (h : execEngineReply t k n s = .next u) : u.roots = s.roots := by
  simp only [execEngineReply, Host.Outcome.next.injEq] at h
  subst h
  refine atTeam_roots (fun s => ?_) s
  repeat' split
  all_goals first | rfl | simp

theorem execTableReply_roots {t k i : Nat} {s u : State}
    (h : execTableReply t k n s = .next u) : u.roots = s.roots := by
  simp only [execTableReply, Host.Outcome.next.injEq] at h
  subst h
  refine atTeam_roots (fun s => ?_) s
  repeat' split
  all_goals first | rfl | simp

theorem execSyscReply_roots {t k : Nat} {s u : State}
    (h : execSyscReply t k s = .next u) : u.roots = s.roots := by
  simp only [execSyscReply, Host.Outcome.next.injEq] at h
  subst h
  refine atTeam_roots (fun s => ?_) s
  repeat' split
  all_goals rfl

theorem execSleepExpiry_roots {t k : Nat} {s u : State}
    (h : execSleepExpiry t k s = .next u) : u.roots = s.roots := by
  simp only [execSleepExpiry, Host.Outcome.next.injEq] at h
  subst h
  refine atTeam_roots (fun s => ?_) s
  repeat' split
  all_goals rfl

theorem execLaunchRelease_roots {t l : Nat} {s u : State}
    (h : execLaunchRelease t l s = .next u) : u.roots = s.roots := by
  simp only [execLaunchRelease, Host.Outcome.next.injEq] at h
  subst h
  refine atTenant_roots (fun s => ?_) s
  rfl

theorem execLaunchRetire_roots {t l : Nat} {s u : State}
    (h : execLaunchRetire t l s = .next u) : u.roots = s.roots := by
  simp only [execLaunchRetire, Host.Outcome.next.injEq] at h
  subst h
  refine atTenant_roots (fun s => ?_) s
  rfl

theorem execBinAgeExpiry_roots {t die bin : Nat} {s u : State}
    (h : execBinAgeExpiry t die bin s = .next u) : u.roots = s.roots := by
  simp only [execBinAgeExpiry, Host.Outcome.next.injEq] at h
  subst h
  refine atTenant_roots (fun s => ?_) s
  rfl

theorem execWorldSync_roots {t l : Nat} {s u : State}
    (h : execWorldSync t l s = .next u) : u.roots = s.roots := by
  simp only [execWorldSync, Host.Outcome.next.injEq] at h
  subst h
  refine atTenant_roots (fun s => ?_) s
  rfl

theorem execSaveMapTimeout_roots {t p : Nat} {va : DWord} {s u : State}
    (h : execSaveMapTimeout t p va s = .next u) : u.roots = s.roots := by
  simp only [execSaveMapTimeout, Host.Outcome.next.injEq] at h
  subst h
  refine atTenant_roots (fun s => ?_) s
  repeat' split
  all_goals first | rfl | simp

theorem execInvalidate_roots {t va len : Nat} {s u : State}
    (h : execInvalidate t va len s = .next u) : u.roots = s.roots := by
  simp only [execInvalidate, Host.Outcome.next.injEq] at h
  subst h
  refine atTenant_roots (fun s => ?_) s
  simp

theorem execReady_roots {t g rank : Nat} {s u : State}
    (h : execReady t g rank s = .next u) : u.roots = s.roots := by
  simp only [execReady, Host.Outcome.next.injEq] at h
  subst h
  refine atTenant_roots (fun s => ?_) s
  repeat' split
  all_goals first | rfl | simp

theorem execCommit_roots {t g : Nat} {s u : State}
    (h : execCommit t g s = .next u) : u.roots = s.roots := by
  simp only [execCommit, Host.Outcome.next.injEq] at h
  subst h
  refine atTenant_roots (fun s => ?_) s
  repeat' split
  all_goals first | rfl | simp

theorem execAbort_roots {t g rank : Nat} {s u : State}
    (h : execAbort t g rank s = .next u) : u.roots = s.roots := by
  simp only [execAbort, Host.Outcome.next.injEq] at h
  subst h
  refine atTenant_roots (fun s => ?_) s
  repeat' split
  all_goals first | rfl | simp

theorem execGangTimeout_roots {t g : Nat} {s u : State}
    (h : execGangTimeout t g s = .next u) : u.roots = s.roots := by
  simp only [execGangTimeout, Host.Outcome.next.injEq] at h
  subst h
  refine atTenant_roots (fun s => ?_) s
  repeat' split
  all_goals first | rfl | simp

theorem execGangDecisionQuery_roots {t g rank : Nat} {reached : Bool} {s u : State}
    (h : execGangDecisionQuery t g rank reached s = .next u) : u.roots = s.roots := by
  simp only [execGangDecisionQuery, Host.Outcome.next.injEq] at h
  subst h
  refine atTenant_roots (fun s => ?_) s
  repeat' split
  all_goals first | rfl | simp

theorem execFetchAdd_roots {q : PeerOp} {s u : State}
    (h : execFetchAdd q s = .next u) : u.roots = s.roots := by
  simp only [execFetchAdd, Host.Outcome.next.injEq] at h
  subst h
  all_goals first | rfl | simp

theorem execCompareSwap_roots {q : PeerOp} {s u : State}
    (h : execCompareSwap q s = .next u) : u.roots = s.roots := by
  simp only [execCompareSwap, Host.Outcome.next.injEq] at h
  subst h
  all_goals first | rfl | simp

theorem execPeerUnsupportedOp_roots {q : PeerOp} {s u : State}
    (h : execPeerUnsupportedOp q s = .next u) : u.roots = s.roots := by
  simp only [execPeerUnsupportedOp, Host.Outcome.next.injEq] at h
  subst h
  repeat' split
  all_goals rfl

theorem execPeerAck_roots {t b p : Nat} {s u : State}
    (h : execPeerAck t b p s = .next u) : u.roots = s.roots := by
  simp only [execPeerAck, Host.Outcome.next.injEq] at h
  subst h
  refine atTenant_roots (fun s => ?_) s
  rfl

theorem execPeerfail_roots {t b p : Nat} {s u : State}
    (h : execPeerfail t b p s = .next u) : u.roots = s.roots := by
  simp only [execPeerfail, Host.Outcome.next.injEq] at h
  subst h
  refine atTenant_roots (fun s => ?_) s
  split
  · rfl
  · exact (foldl_roots (f := fun s (m : PeerMap) => s.report 3 (leBytes 16 m.peer.toNat ++ leBytes 4 m.win) 0)
      (fun s m => report_roots _ _ _ _) _ _).trans (onTen_roots _ _)

theorem execMigratePagePush_roots {t : Nat} {s u : State}
    (h : execMigratePagePush t s = .next u) : u.roots = s.roots := by
  simp only [execMigratePagePush, Host.Outcome.next.injEq] at h
  subst h
  refine atTenant_roots (fun s => ?_) s
  repeat' split
  all_goals first | rfl | simp

theorem execMigrateEnd_roots {t : Nat} {s u : State}
    (h : execMigrateEnd t s = .next u) : u.roots = s.roots := by
  simp only [execMigrateEnd, Host.Outcome.next.injEq] at h
  subst h
  refine atTenant_roots (fun s => ?_) s
  repeat' split
  all_goals rfl

theorem execCheckpointFreeze_roots {t : Nat} {s u : State}
    (h : execCheckpointFreeze t s = .next u) : u.roots = s.roots := by
  simp only [execCheckpointFreeze, Host.Outcome.next.injEq] at h
  subst h
  refine atTenant_roots (fun s => ?_) s
  repeat' split
  all_goals first | rfl | simp

theorem execCheckpointComplete_roots {t : Nat} {durable : Bool} {s u : State}
    (h : execCheckpointComplete t durable s = .next u) : u.roots = s.roots := by
  simp only [execCheckpointComplete, Host.Outcome.next.injEq] at h
  subst h
  refine atTenant_roots (fun s => ?_) s
  repeat' split
  all_goals rfl

theorem execLinkCrcRetry_roots {port : Nat} {repaired : Bool} {s u : State}
    (h : execLinkCrcRetry port repaired s = .next u) : u.roots = s.roots := by
  simp only [execLinkCrcRetry, Host.Outcome.next.injEq] at h
  subst h
  repeat' split
  all_goals rfl

theorem execHbmRetrain_roots {ch : Nat} {s u : State}
    (h : execHbmRetrain ch s = .next u) : u.roots = s.roots := by
  simp only [execHbmRetrain, Host.Outcome.next.injEq] at h
  subst h
  rfl

theorem execDroopStretch_roots {t c n : Nat} {s u : State}
    (h : execDroopStretch t c n s = .next u) : u.roots = s.roots := by
  simp only [execDroopStretch, Host.Outcome.next.injEq] at h
  subst h
  refine atTenant_roots (fun s => ?_) s
  rfl

theorem execThermalThrottle_roots {celsius : Nat} {s u : State}
    (h : execThermalThrottle celsius s = .next u) : u.roots = s.roots := by
  simp only [execThermalThrottle, Host.Outcome.next.injEq] at h
  subst h
  repeat' split
  all_goals rfl

theorem execThermalShutdown_roots {celsius : Nat} {s u : State}
    (h : execThermalShutdown celsius s = .next u) : u.roots = s.roots := by
  simp only [execThermalShutdown, Host.Outcome.next.injEq] at h
  subst h
  repeat' split
  all_goals rfl

/-- The module comes up with an image that R397 accepts: nothing passes the fused counter. -/
theorem execBringUp_roots {failed : List HwUnit} {w : FwImage} {s u : State} (h : execBringUp failed w s = .next u) :
    u.fuse = s.fuse ∧ u.rollback = s.rollback ∧ (s.rollback ≤ s.fwVersion → u.rollback ≤ u.fwVersion) := by
  simp only [execBringUp, Host.Outcome.next.injEq] at h
  subst h
  split
  · exact ⟨rfl, rfl, id⟩
  · exact boot_roots s w

theorem execPowerLoss_roots  {s u : State} (h : execPowerLoss  s = .next u) : u.roots = s.roots := by
  simp only [execPowerLoss, Host.Outcome.next.injEq] at h
  subst h
  rfl

theorem execAlloc_roots {q : Datagram} {s u : State}
    (h : execAlloc q s = .next u) : u.roots = s.roots := by
  simp only [execAlloc, Host.Outcome.next.injEq] at h
  subst h
  refine rpc_roots (fun c s => ?_) s
  repeat' split
  all_goals rfl

theorem execFree_roots {q : Datagram} {s u : State}
    (h : execFree q s = .next u) : u.roots = s.roots := by
  simp only [execFree, Host.Outcome.next.injEq] at h
  subst h
  refine rpc_roots (fun c s => ?_) s
  repeat' split
  all_goals first | rfl | simp

theorem execRpcLaunch_roots {q : Datagram} {s u : State}
    (h : execRpcLaunch q s = .next u) : u.roots = s.roots := by
  simp only [execRpcLaunch, Host.Outcome.next.injEq] at h
  subst h
  refine rpc_roots (fun c s => ?_) s
  repeat' split
  all_goals first | rfl | exact submitGang_roots _ _ _

theorem execWaitTimeout_roots {t i : Nat} {s u : State}
    (h : execWaitTimeout t n s = .next u) : u.roots = s.roots := by
  simp only [execWaitTimeout, Host.Outcome.next.injEq] at h
  subst h
  refine atTenant_roots (fun s => ?_) s
  repeat' split
  all_goals rfl

theorem execSync_roots {q : Datagram} {s u : State}
    (h : execSync q s = .next u) : u.roots = s.roots := by
  simp only [execSync, Host.Outcome.next.injEq] at h
  subst h
  refine rpc_roots (fun c s => ?_) s
  simp

theorem execMigrate_roots {q : Datagram} {s u : State}
    (h : execMigrate q s = .next u) : u.roots = s.roots := by
  simp only [execMigrate, Host.Outcome.next.injEq] at h
  subst h
  refine rpc_roots (fun c s => ?_) s
  repeat' split
  all_goals first | rfl | simp

theorem execAttest_roots {q : Datagram} {s u : State}
    (h : execAttest q s = .next u) : u.roots = s.roots := by
  simp only [execAttest, Host.Outcome.next.injEq] at h
  subst h
  refine rpc_roots (fun c s => ?_) s
  rfl

theorem execEvents_roots {q : Datagram} {s u : State}
    (h : execEvents q s = .next u) : u.roots = s.roots := by
  simp only [execEvents, Host.Outcome.next.injEq] at h
  subst h
  refine rpc_roots (fun c s => ?_) s
  repeat' split
  all_goals first | rfl | simp

theorem execLog_roots {q : Datagram} {s u : State}
    (h : execLog q s = .next u) : u.roots = s.roots := by
  simp only [execLog, Host.Outcome.next.injEq] at h
  subst h
  refine rpc_roots (fun c s => ?_) s
  repeat' split
  all_goals rfl

theorem execConfig_roots {q : Datagram} {s u : State}
    (h : execConfig q s = .next u) : u.roots = s.roots := by
  simp only [execConfig, Host.Outcome.next.injEq] at h
  subst h
  refine rpc_roots (fun c s => ?_) s
  repeat' split
  all_goals rfl

theorem execPeermap_roots {q : Datagram} {s u : State}
    (h : execPeermap q s = .next u) : u.roots = s.roots := by
  simp only [execPeermap, Host.Outcome.next.injEq] at h
  subst h
  refine rpc_roots (fun c s => ?_) s
  repeat' split
  all_goals rfl

theorem execPrecisionTimeProtocol_roots {slew : Int} {s u : State}
    (h : execPrecisionTimeProtocol slew s = .next u) : u.roots = s.roots := by
  simp only [execPrecisionTimeProtocol, Host.Outcome.next.injEq] at h
  subst h
  repeat' split
  all_goals rfl

theorem execGangDecisionExpiry_roots {t g : Nat} {s u : State}
    (h : execGangDecisionExpiry t g s = .next u) : u.roots = s.roots := by
  simp only [execGangDecisionExpiry, Host.Outcome.next.injEq] at h
  subst h
  refine atTenant_roots (fun s => ?_) s
  rfl

theorem execAtl_roots {o : XOps} {s u : State} (h : execAtl o s = .next u) : u.roots = s.roots := by
  simp only [execAtl] at h
  refine issue_roots (fun s => ?_) h
  split
  · exact (await_roots _ _).trans (atomLs_roots ..)
  · exact atomLs_roots ..

theorem execBrk_roots {o : ROps} {s u : State} (h : execBrk o s = .next u) : u.roots = s.roots := by
  simp only [execBrk] at h
  split at h
  · cases h
  · split at h
    · cases h; simp
    · split at h
      · cases h; simp
      · cases h; simp

theorem execHgs_roots {o : XOps} {s u : State} (h : execHgs o s = .next u) : u.roots = s.roots := by
  simp only [execHgs] at h
  refine issue_roots (fun s => ?_) h
  repeat' split
  all_goals simp

theorem execTqnew_roots {o : XOps} {s u : State} (h : execTqnew o s = .next u) : u.roots = s.roots := by
  simp only [execTqnew] at h
  refine issue_roots (fun s => ?_) h
  split
  · rfl
  · refine (nextSeq_roots _).trans ((await_roots _ _).trans ?_)
    have ht : ∀ l, (if s.active.isEmpty then s else s.touchPages l).roots = s.roots := by intro l; split <;> simp
    split
    · exact (onTeam_roots _ _).trans (ht _)
    · exact (addRec_roots _ _).trans ((onTeam_roots _ _).trans (ht _))

theorem execCopySectorArrival_roots {t i : Nat} {s u : State} (h : execCopySectorArrival t i s = .next u) : u.roots = s.roots := by
  simp only [execCopySectorArrival, Host.Outcome.next.injEq] at h
  subst h
  split
  · rfl
  · split
    · rfl
    · refine atTeam_roots (fun s => ?_) s
      split
      · exact raise_roots _ _
      · split
        · simp
        · rfl
        · simp; rfl

theorem execDrainComplete_roots {t b i : Nat} {s u : State} (h : execDrainComplete t b i s = .next u) : u.roots = s.roots := by
  simp only [execDrainComplete, Host.Outcome.next.injEq] at h
  subst h
  split
  · rfl
  · split
    · rfl
    · exact atTeam_roots (fun s => by simp) s

theorem startOp_roots (s : State) (m : MatOp) : (s.startOp m).roots = s.roots := by
  simp only [State.startOp]
  split
  · exact (endFault_roots _ _ _ _ _).trans (touchPages_roots _ _)
  · exact (pageFault_roots _ _ _).trans (touchPages_roots _ _)
  · split
    · split
      · exact (endFault_roots _ _ _ _ _).trans (touchPages_roots _ _)
      · exact touchPages_roots _ _
    · exact touchPages_roots s m.fetch

theorem settleOp_roots (s : State) (o : Option Nat) : (s.settleOp o).roots = s.roots := by
  unfold State.settleOp
  split
  · split
    · exact (onTeam_roots _ _).trans (settlePend_roots ..)
    · rfl
  · rfl

theorem completeOp_roots (s : State) (m : MatOp) (n : Nat) : (s.completeOp m n).roots = s.roots := by
  unfold State.completeOp
  refine (settleOp_roots _ _).trans ?_
  exact (taint_roots _ _).trans ((onTeam_roots _ _).trans ((rfl : _ = (s.putMac (s.matOut m n)).roots).trans (putMac_roots ..)))

theorem execMatrixOpStart_roots {t m : Nat} {s u : State} (h : execMatrixOpStart t m s = .next u) : u.roots = s.roots := by
  simp only [execMatrixOpStart, State.atTenant, Host.Outcome.next.injEq] at h
  subst h
  split
  · rfl
  · rename_i h
    split
    · split
      · exact (atTeam_roots (fun s => startOp_roots ..) _).trans (openTenant_roots h)
      · rfl
    · rfl

theorem execMatrixOpComplete_roots {t m mism : Nat} {s u : State} (h : execMatrixOpComplete t m mism s = .next u) :
    u.roots = s.roots := by
  simp only [execMatrixOpComplete, State.atTenant, Host.Outcome.next.injEq] at h
  subst h
  split
  · rfl
  · rename_i h
    split
    · split
      · exact (atTeam_roots (fun s => completeOp_roots ..) _).trans (openTenant_roots h)
      · rfl
    · rfl

theorem execBarRelease_roots {t b : Nat} {s u : State} (h : execBarRelease t b s = .next u) : u.roots = s.roots := by
  simp only [execBarRelease, Host.Outcome.next.injEq] at h
  subst h
  refine atTenant_roots (fun s => ?_) s
  split
  · exact foldl_roots (fun s x => atTeam_roots (fun s => by simp) s) _ _
  · rfl

theorem execSyscDeliver_roots {t k : Nat} {s u : State} (h : execSyscDeliver t k s = .next u) : u.roots = s.roots := by
  simp only [execSyscDeliver, Host.Outcome.next.injEq] at h
  subst h
  refine atWaiter_roots (fun s x d => ?_) s
  split
  · split
    · rfl
    · exact service_roots ..
  · rfl

theorem execBlockPlace_roots {t l c : Nat} {s u : State} (h : execBlockPlace t l c s = .next u) : u.roots = s.roots := by
  simp only [execBlockPlace, Host.Outcome.next.injEq] at h
  subst h
  refine atTenant_roots (fun s => ?_) s
  split
  · repeat' split
    · rfl
    · rfl
    · next hp => rw [sendReady_roots]; exact placeAll_roots _ _ _ _ hp
    · rfl
    · simp
    · rfl
    · rfl
  · rfl

theorem execQuantumExpiry_roots {t p : Nat} {stall : Bool} {s u : State} (h : execQuantumExpiry t p stall s = .next u) : u.roots = s.roots := by
  simp only [execQuantumExpiry, Host.Outcome.next.injEq] at h
  subst h
  refine atTenant_roots (fun s => ?_) s
  split
  · rfl
  · split
    · rfl
    · split <;> (rename_i h; exact ((congrArg (fun r => State.roots r.1) h).symm).trans (savePane_roots s _ p stall))

theorem execContextRestore_roots {t b c : Nat} {s u : State} (h : execContextRestore t b c s = .next u) : u.roots = s.roots := by
  simp only [execContextRestore, Host.Outcome.next.injEq] at h
  subst h
  refine atTenant_roots (fun s => ?_) s
  split
  · split
    · rfl
    · split
      · rfl
      · split
        · rfl
        · split
          · rfl
          · generalize hp : State.putBack _ _ _ _ _ = w
            cases w with
            | none => rfl
            | some v => exact putBack_roots hp
  · rfl

theorem execPagerRestart_roots {t k : Nat} {s u : State} (h : execPagerRestart t k s = .next u) : u.roots = s.roots := by
  simp only [execPagerRestart, Host.Outcome.next.injEq] at h
  subst h
  refine atTenant_roots (fun s => ?_) s
  split
  · rfl
  · split
    · split
      · next h => exact bring_state h
      · next h => exact (onTen_roots ..).trans (bring_state h)
    · rfl

theorem execFramesTimeout_roots {t k : Nat} {s u : State} (h : execFramesTimeout t k s = .next u) : u.roots = s.roots := by
  simp only [execFramesTimeout, Host.Outcome.next.injEq] at h
  subst h
  refine atTenant_roots (fun s => ?_) s
  split
  · rfl
  · split
    · split
      · exact (atTeam_roots (fun s => endFault_roots _ _ _ _ _) _).trans (makeRoom_roots _ _ _ _)
      · exact makeRoom_roots _ _ _ _
    · rfl

theorem execPageArrival_roots {t va : Nat} {s u : State} (h : execPageArrival t va s = .next u) : u.roots = s.roots := by
  simp only [execPageArrival, Host.Outcome.next.injEq] at h
  subst h
  refine atTenant_roots (fun s => ?_) s
  split
  · rfl
  · split
    · next h => exact heed_state h
    · next h1 =>
      split
      · next h => exact (bring_state h).trans ((onTen_roots ..).trans (heed_state h1))
      · next h => exact (onTen_roots ..).trans ((bring_state h).trans ((onTen_roots ..).trans (heed_state h1)))

theorem execRdmaWrite_roots {q : PeerOp} {s u : State} (h : execRdmaWrite q s = .next u) : u.roots = s.roots := by
  simp only [execRdmaWrite, Host.Outcome.next.injEq] at h
  subst h
  exact peerRequest_roots (fun s => by split <;> rfl) s

theorem execRdmaRead_roots {q : PeerOp} {s u : State} (h : execRdmaRead q s = .next u) : u.roots = s.roots := by
  simp only [execRdmaRead, Host.Outcome.next.injEq] at h
  subst h
  exact peerRequest_roots (fun s => by rfl) s

theorem execEccError_roots {x : HwUnit} {corrected : Bool} {s u : State} (h : execEccError x corrected s = .next u) :
    u.roots = s.roots := by
  simp only [execEccError, Host.Outcome.next.injEq] at h
  subst h
  split
  · rfl
  · split
    · exact (again_roots _ _).trans (corrected_roots s x)
    · have h := uncorrected_roots s x
      simpa [State.roots] using h

theorem execSelfTest_roots {x : HwUnit} {pass : Bool} {s u : State} (h : execSelfTest x pass s = .next u) : u.roots = s.roots := by
  simp only [execSelfTest, Host.Outcome.next.injEq] at h
  subst h
  split
  · rfl
  · split
    · rfl
    · split <;> (rename_i h; exact ((congrArg (fun r => State.roots r.1) h).symm).trans (testBay_roots s _ x pass))

/-- The firmware image check may only raise the running version to one at or above the counter (25 R397). -/
theorem execFirmwareImageCheck_roots {w : FwImage} {s u : State} (h : execFirmwareImageCheck w s = .next u) :
    u.fuse = s.fuse ∧ u.rollback = s.rollback ∧ (s.rollback ≤ s.fwVersion → u.rollback ≤ u.fwVersion) := by
  simp only [execFirmwareImageCheck, Host.Outcome.next.injEq] at h
  subst h
  split
  · exact ⟨rfl, rfl, id⟩
  · exact boot_roots s w

theorem execLoad_roots {q : Datagram} {s u : State} (h : execLoad q s = .next u) : u.roots = s.roots := by
  simp only [execLoad, Host.Outcome.next.injEq] at h
  subst h
  refine rpc_roots (fun c s => ?_) s
  split
  · rfl
  · split
    · simp
    · exact (load_roots _ _).trans rfl

theorem execRead_roots {q : Datagram} {s u : State} (h : execRead q s = .next u) : u.roots = s.roots := by
  simp only [execRead, Host.Outcome.next.injEq] at h
  subst h
  refine rpc_roots (fun c s => ?_) s
  split
  · rfl
  · exact hostAccess_roots (fun _ => rfl) s

theorem execWrite_roots {q : Datagram} {s u : State} (h : execWrite q s = .next u) : u.roots = s.roots := by
  simp only [execWrite, Host.Outcome.next.injEq] at h
  subst h
  refine rpc_roots (fun c s => ?_) s
  split
  · rfl
  · exact hostAccess_roots (fun s => by split <;> rfl) s

theorem execWait_roots {q : Datagram} {s u : State} (h : execWait q s = .next u) : u.roots = s.roots := by
  simp only [execWait, Host.Outcome.next.injEq] at h
  subst h
  split
  · refine atTenant_roots (fun s => ?_) s
    repeat' split
    all_goals rfl
  · refine rpc_roots (fun c s => ?_) s
    repeat' split
    all_goals rfl

theorem execUnassignedMethod_roots {q : Datagram} {s u : State} (h : execUnassignedMethod q s = .next u) : u.roots = s.roots := by
  simp only [execUnassignedMethod, Host.Outcome.next.injEq] at h
  subst h
  split
  · exact request_roots (fun _ _ => rfl) s
  · rfl

theorem execStatus_roots {q : Datagram} {s u : State} (h : execStatus q s = .next u) : u.roots = s.roots := by
  simp only [execStatus, Host.Outcome.next.injEq] at h
  subst h
  split
  · exact request_roots (fun _ _ => rfl) s
  · rfl

theorem execRegisterWorld_roots {q : Datagram} {s u : State} (h : execRegisterWorld q s = .next u) : u.roots = s.roots := by
  simp only [execRegisterWorld, Host.Outcome.next.injEq] at h
  subst h
  split
  · rfl
  · refine register_roots (fun c d s => ?_) s
    split
    · rfl
    · refine hostAccess_roots (fun s => ?_) s
      split
      · rfl
      · split <;> rfl

theorem execRegisterQuery_roots {q : Datagram} {s u : State} (h : execRegisterQuery q s = .next u) : u.roots = s.roots := by
  simp only [execRegisterQuery, Host.Outcome.next.injEq] at h
  subst h
  split
  · rfl
  · refine register_roots (fun c d s => ?_) s
    split
    · rfl
    · split <;> rfl

theorem execRegisterBin_roots {q : Datagram} {s u : State} (h : execRegisterBin q s = .next u) : u.roots = s.roots := by
  simp only [execRegisterBin, Host.Outcome.next.injEq] at h
  subst h
  split
  · rfl
  · refine register_roots (fun c d s => ?_) s
    repeat' split
    all_goals rfl

theorem execRegisterTexture_roots {q : Datagram} {s u : State} (h : execRegisterTexture q s = .next u) : u.roots = s.roots := by
  simp only [execRegisterTexture, Host.Outcome.next.injEq] at h
  subst h
  split
  · rfl
  · refine register_roots (fun c d s => ?_) s
    split
    · rfl
    · exact hostAccess_roots (fun _ => rfl) s

theorem execCheckpointTake_roots {q : Datagram} {s u : State} (h : execCheckpointTake q s = .next u) : u.roots = s.roots := by
  simp only [execCheckpointTake, Host.Outcome.next.injEq] at h
  subst h
  split
  · rfl
  · refine rpc_roots (fun c s => ?_) s
    split
    · rfl
    · split
      · rfl
      · split
        · rfl
        · split
          · simp
          · split
            · rfl
            · exact takeWith_roots ..
            · rfl

@[simp] theorem rollBack_roots (s : State) (c : Ckpt) : (s.rollBack c).roots = s.roots := by
  simp only [State.rollBack]
  split
  · split <;> rfl
  · rfl

theorem execCheckpointRestore_roots {q : Datagram} {s u : State} (h : execCheckpointRestore q s = .next u) : u.roots = s.roots := by
  simp only [execCheckpointRestore, Host.Outcome.next.injEq] at h
  subst h
  split
  · rfl
  · refine rpc_roots (fun c s => ?_) s
    split
    · rfl
    · split
      · split <;> rfl
      · split
        · rfl
        · next c _ _ => exact rollBack_roots s c

theorem execCheckpointList_roots {q : Datagram} {s u : State} (h : execCheckpointList q s = .next u) : u.roots = s.roots := by
  simp only [execCheckpointList, Host.Outcome.next.injEq] at h
  subst h
  split
  · rfl
  · exact rpc_roots (fun c s => by split <;> rfl) s

theorem execWindowCreate_roots {q : Datagram} {s u : State} (h : execWindowCreate q s = .next u) : u.roots = s.roots := by
  simp only [execWindowCreate, Host.Outcome.next.injEq] at h
  subst h
  split
  · rfl
  · refine rpc_roots (fun c s => ?_) s
    split
    · rfl
    · split <;> rfl

theorem execWindowRemove_roots {q : Datagram} {s u : State} (h : execWindowRemove q s = .next u) : u.roots = s.roots := by
  simp only [execWindowRemove, Host.Outcome.next.injEq] at h
  subst h
  split
  · rfl
  · exact rpc_roots (fun c s => by split <;> rfl) s

theorem execTenantCreate_roots {q : Datagram} {s u : State} (h : execTenantCreate q s = .next u) : u.roots = s.roots := by
  simp only [execTenantCreate, Host.Outcome.next.injEq] at h
  subst h
  split
  · rfl
  · refine operator_roots (fun s => ?_) s
    split
    · rfl
    · split <;> rfl

theorem execTenantRemove_roots {q : Datagram} {s u : State} (h : execTenantRemove q s = .next u) : u.roots = s.roots := by
  simp only [execTenantRemove, Host.Outcome.next.injEq] at h
  subst h
  split
  · rfl
  · refine operator_roots (fun s => ?_) s
    split
    · rfl
    · split <;> simp

theorem execContextCreate_roots {q : Datagram} {s u : State} (h : execContextCreate q s = .next u) : u.roots = s.roots := by
  simp only [execContextCreate, Host.Outcome.next.injEq] at h
  subst h
  split
  · rfl
  · refine rpc_roots (fun c s => ?_) s
    split
    · rfl
    · split
      · rfl
      · split <;> rfl

theorem execContextDestroy_roots {q : Datagram} {s u : State} (h : execContextDestroy q s = .next u) : u.roots = s.roots := by
  simp only [execContextDestroy, Host.Outcome.next.injEq] at h
  subst h
  split
  · rfl
  · refine rpc_roots (fun c s => ?_) s
    repeat' split
    all_goals rfl
end Sys2Proof.Machine
end

