-- ==== Sys2Proof/Tests/Slice0.lean ====
section
/-!
SUPPORT. The model's own tests: words from the spec's encodings decode to their instructions, ill-formed terms are refused, single steps on
small states give the results of the spec's rules and worked examples, and for every statement with hypotheses a concrete state and
operands that meet them.
-/
set_option exponentiation.threshold 2048
set_option maxRecDepth 4096

namespace Sys2Proof.Tests

open Sys2Proof Sys2Proof.Machine Sys2Proof.Claims

/-! ### Small states -/

/-- An operand record of each form. -/
def r3 (d a b : Byte) : ROps := { d := d, a := a, b := b }
def i3 (d a b : Byte) (imm : Word) : IOps := { d := d, a := a, b := b, imm := imm }
def x6 (d a b c fn : Byte) (mod : BitVec 16) : XOps := { d := d, a := a, b := b, c := c, fn := fn, mod := mod }

/-- The page that holds the code, readable, writable and executable. -/
def page0 : Page := { va := 0x10000, size := 0x10000, r := true, w := true, x := true, st := .hbm, pin := false, peer := 0, gpa := 0x10000 }
/-- Its frame. -/
def stage0 : Stage2 := { gpa := 0x10000, size := 0x10000, r := true, w := true, pa := some 0 }
def pane0 : Pane := { num := 0, bay := 0 }
def core0 : Core := { there := true, num := 0, pane := 0, die := 0, bay := 0 }
def blk0 : Block := { key := 1, launch := 1, teams := 2, core := 0, lsz := 4096, runN := 1 }
/-- Four lanes, all on, every grant, a deadline of 100 words. -/
def team0 : Team :=
  { key := 1, launch := 1, blk := 1, lanes := 4, budget := 256, gx := 8, ga := 8, z := 1024, pc := 0x10000, wait := .run, exec := 0xF, dl := 100 }
/-- The clause at 0x1_0000 that holds one instruction. -/
def clauseOf (i : Instr) : Clause := { hdr := 0x10000, n := words i, words := encode i, pos := 0, sw := false }
/-- Tenant 0 with one pane, one core, one block and one team in the focus, and `i` latched. -/
def run (i : Instr) : State :=
  { power := .up
    ten := { num := 0, live := true, panes := [pane0], slots := 1, ctxs := [{ num := 0 }], pages := [page0], stage2 := [stage0], nextTeam := 3, nextBlk := 2, scratch := [(0, some {})] }
    core := core0, blk := blk0, team := { team0 with cl := some (clauseOf i) } }
/-- The same with other lists in the team. -/
def runT (i : Instr) (f : Team → Team) : State := { run i with team := f (run i).team }
/-- Scalar and vector registers of a team. -/
def withS (xs : List (Nat × Word)) (t : Team) : Team := xs.foldl (fun t p => t.setS p.1 p.2) t
/-- Lane `k` of register `r` takes element `k`. -/
def withV (r : Nat) (xs : List Word) (t : Team) : Team := (List.range xs.length).foldl (fun t k => t.setV r k (xs.getD k 0)) t

/-- The launch of the team, whose image has a handler at 0x1_0100. -/
def launch0 : Launch :=
  { id := 1, sub := 1, ctx := 0, rc := {}, st := .running, nblk := 1, placed := 1, retired := 0, handler := 0x10100, pins := [], gang := none
    recs := [], bin := none, rows := [], held := 0 }
/-- The same as `runT` with that launch. -/
def runH (i : Instr) (f : Team → Team) : State :=
  let s := runT i f
  { s with ten := { s.ten with launches := [launch0] } }

/-- The next state of an outcome; the state itself where there is none. -/
def after (o : Host.Outcome State Fault Refusal) (s : State) : State := match o with | .next t => t | _ => s
/-- The state after the instruction ran. -/
def done (i : Instr) (f : Team → Team) : State := after (exec i (runT i f)) (runT i f)
/-- Four lanes of a vector register. -/
def lanes4 (s : State) (r : Nat) : List Word := (List.range 4).map fun k => look 0 (1024 * r + k) s.team.v
def scalar (s : State) (k : Nat) : Word := look 0 k s.team.s

/-- An instruction of these states can issue. -/
theorem ready_run {i : Instr} (f : Team → Team) (hf : (f { team0 with cl := some (clauseOf i) }).cl = some (clauseOf i))
    (hd : words i ≤ (f { team0 with cl := some (clauseOf i) }).dl) (hw : i.wf = true) : Ready i (clauseOf i) (runT i f) := ⟨hf, hw, hd⟩

/-! ### Words from the spec's encodings (03 R44 to R47, R50, R54): opcode, D, A, B; then C, FN, MOD or the immediate -/
def scalarWords1 : List (List Word × Instr) :=
  [([0x00000000], .nop (r3 0 0 0)), ([0x01020400], .smov (r3 2 4 0)), ([0x02020000, 0x89ABCDEF], .smovi (i3 2 0 0 0x89ABCDEF)),
   ([0x03020406], .sadd (r3 2 4 6)), ([0x04020406], .ssub (r3 2 4 6)), ([0x05020406], .smul (r3 2 4 6)),
   ([0x06020406], .smulh (r3 2 4 6)), ([0x07020406], .smulhu (r3 2 4 6)), ([0x08020406], .sand (r3 2 4 6)),
   ([0x09020406], .sor (r3 2 4 6)), ([0x0A020406], .sxor (r3 2 4 6)), ([0x0B020406], .sshl (r3 2 4 6)), ([0x0C020406], .sshr (r3 2 4 6)),
   ([0x0D020406], .ssra (r3 2 4 6)), ([0x0E020406, 0x00030000], .scmp (x6 2 4 6 0 3 0x0000)),
   ([0x0F020406, 0x08000000], .ssel (x6 2 4 6 8 0 0x0000))]
theorem test_decode_scalarWords1 : ∀ p ∈ scalarWords1, decode p.1 = .ok (p.2, []) := by decide
def scalarWords2 : List (List Word × Instr) :=
  [([0x10020400, 0x89ABCDEF], .saddi (i3 2 4 0 0x89ABCDEF)), ([0x11020406], .sldk (r3 2 4 6)),
   ([0x12020406, 0x00000000], .sminS (x6 2 4 6 0 0 0x0000)), ([0x12020406, 0x00010000], .sminU (x6 2 4 6 0 1 0x0000)),
   ([0x12020406, 0x00020000], .smaxS (x6 2 4 6 0 2 0x0000)), ([0x12020406, 0x00030000], .smaxU (x6 2 4 6 0 3 0x0000)),
   ([0x13020400, 0x00030000], .sbit (x6 2 4 0 0 3 0x0000)), ([0x14020400], .srdsr (r3 2 4 0)), ([0x15020400], .swrsr (r3 2 4 0)),
   ([0x16020400, 0x89ABCDEF], .brCond (i3 2 4 0 0x89ABCDEF)), ([0x17020000, 0x89ABCDEF], .brz (i3 2 0 0 0x89ABCDEF)),
   ([0x18020000, 0x89ABCDEF], .brnz (i3 2 0 0 0x89ABCDEF)), ([0x19020400, 0x89ABCDEF], .call (i3 2 4 0 0x89ABCDEF)),
   ([0x1A000406], .callv (r3 0 4 6)), ([0x1B000400], .calls (r3 0 4 0)), ([0x1C000000], .ret (r3 0 0 0))]
theorem test_decode_scalarWords2 : ∀ p ∈ scalarWords2, decode p.1 = .ok (p.2, []) := by decide
def scalarWords3 : List (List Word × Instr) :=
  [([0x1D000400], .jmps (r3 0 4 0)), ([0x1E000000], .endt (r3 0 0 0)), ([0x1F020400], .waitc (r3 2 4 0))]
theorem test_decode_scalarWords3 : ∀ p ∈ scalarWords3, decode p.1 = .ok (p.2, []) := by decide
def maskWords1 : List (List Word × Instr) :=
  [([0x20020406], .mand (r3 2 4 6)), ([0x21020406], .mor (r3 2 4 6)), ([0x22020406], .mxor (r3 2 4 6)),
   ([0x23020406], .mandn (r3 2 4 6)), ([0x24020400], .mnot (r3 2 4 0)), ([0x25020400], .mmov (r3 2 4 0)),
   ([0x26020000, 0x89ABCDEF], .mseti (i3 2 0 0 0x89ABCDEF)), ([0x27020400], .exenter (r3 2 4 0)), ([0x28000400], .exset (r3 0 4 0)),
   ([0x29020400], .mcnt (r3 2 4 0)), ([0x2A020400], .mfirst (r3 2 4 0)), ([0x2B020406], .mgetw (r3 2 4 6)),
   ([0x2C020406], .mputw (r3 2 4 6)), ([0x2D020400], .vtom (r3 2 4 0)), ([0x2E020400], .mtov (r3 2 4 0)),
   ([0x30020400], .qswph (r3 2 4 0))]
theorem test_decode_maskWords1 : ∀ p ∈ maskWords1, decode p.1 = .ok (p.2, []) := by decide
def maskWords2 : List (List Word × Instr) :=
  [([0x31020400], .qswpv (r3 2 4 0)), ([0x32020400], .qswpd (r3 2 4 0)), ([0x33020406], .qbcst (r3 2 4 6)),
   ([0x34020400], .qddx (r3 2 4 0)), ([0x35020400], .qddy (r3 2 4 0)), ([0x36020400], .qhelp (r3 2 4 0))]
theorem test_decode_maskWords2 : ∀ p ∈ maskWords2, decode p.1 = .ok (p.2, []) := by decide
def floatWords1 : List (List Word × Instr) :=
  [([0x40020406, 0x00000000], .vfadd (x6 2 4 6 0 0 0x0000)), ([0x41020406, 0x00000000], .vfsub (x6 2 4 6 0 0 0x0000)),
   ([0x42020406, 0x00000000], .vfmul (x6 2 4 6 0 0 0x0000)), ([0x43020406, 0x08000000], .vfma (x6 2 4 6 8 0 0x0000)),
   ([0x44020406, 0x00000000], .vfmin (x6 2 4 6 0 0 0x0000)), ([0x45020406, 0x00000000], .vfmax (x6 2 4 6 0 0 0x0000)),
   ([0x46020406, 0x00000000], .vfdiv (x6 2 4 6 0 0 0x0000)), ([0x47020400, 0x00000000], .vfsqrt (x6 2 4 0 0 0 0x0000)),
   ([0x48020400, 0x00000000], .vfrcp (x6 2 4 0 0 0 0x0000)), ([0x49020400, 0x00000000], .vfrsq (x6 2 4 0 0 0 0x0000)),
   ([0x4A020400, 0x00000000], .vfexp2 (x6 2 4 0 0 0 0x0000)), ([0x4B020400, 0x00000000], .vflog2 (x6 2 4 0 0 0 0x0000)),
   ([0x4C020400, 0x00000000], .vfsinpi (x6 2 4 0 0 0 0x0000)), ([0x4D020400, 0x00000000], .vfcospi (x6 2 4 0 0 0 0x0000)),
   ([0x4E020406, 0x00030000], .vfcmp (x6 2 4 6 0 3 0x0000)), ([0x4F020400, 0x01000005], .vfclass (x6 2 4 0 1 0 0x0005))]
theorem test_decode_floatWords1 : ∀ p ∈ floatWords1, decode p.1 = .ok (p.2, []) := by decide
def floatWords2 : List (List Word × Instr) :=
  [([0x50020400, 0x00000000], .vfrnd (x6 2 4 0 0 0 0x0000)), ([0x51020406, 0x00000005], .vsel (x6 2 4 6 0 0 0x0005)),
   ([0x52020406, 0x00000000], .vfldexp (x6 2 4 6 0 0 0x0000)), ([0x53020406, 0x00000000], .vfadds (x6 2 4 6 0 0 0x0000)),
   ([0x54020406, 0x00000000], .vfmuls (x6 2 4 6 0 0 0x0000)), ([0x55020406, 0x08000000], .vfmas (x6 2 4 6 8 0 0x0000)),
   ([0x56020406, 0x00000002], .vhadd (x6 2 4 6 0 0 0x0002)), ([0x57020406, 0x00000002], .vhmul (x6 2 4 6 0 0 0x0002)),
   ([0x58020406, 0x08000002], .vhfma (x6 2 4 6 8 0 0x0002)), ([0x59020406, 0x08000002], .vhdot2 (x6 2 4 6 8 0 0x0002)),
   ([0x5A020406, 0x08000043], .vfdot4 (x6 2 4 6 8 0 0x0043))]
theorem test_decode_floatWords2 : ∀ p ∈ floatWords2, decode p.1 = .ok (p.2, []) := by decide
def integerWords1 : List (List Word × Instr) :=
  [([0x5B020406], .viadd (r3 2 4 6)), ([0x5C020406], .visub (r3 2 4 6)), ([0x5D020406], .vimul (r3 2 4 6)),
   ([0x5E020406, 0x00010000], .vimulh (x6 2 4 6 0 1 0x0000)), ([0x5F020406, 0x08010000], .vimad (x6 2 4 6 8 1 0x0000)),
   ([0x60020406, 0x00010000], .vimin (x6 2 4 6 0 1 0x0000)), ([0x61020406, 0x00010000], .vimax (x6 2 4 6 0 1 0x0000)),
   ([0x62020406], .vand (r3 2 4 6)), ([0x63020406], .vor (r3 2 4 6)), ([0x64020406], .vxor (r3 2 4 6)), ([0x65020406], .vshl (r3 2 4 6)),
   ([0x66020406], .vshr (r3 2 4 6)), ([0x67020406], .vsra (r3 2 4 6)), ([0x68020406, 0x00030000], .vicmp (x6 2 4 6 0 3 0x0000)),
   ([0x69020400, 0x00030000], .vbit (x6 2 4 0 0 3 0x0000)), ([0x6A020406, 0x00010005], .vbfe (x6 2 4 6 0 1 0x0005))]
theorem test_decode_integerWords1 : ∀ p ∈ integerWords1, decode p.1 = .ok (p.2, []) := by decide
def integerWords2 : List (List Word × Instr) :=
  [([0x6B020406, 0x08000005], .vbfi (x6 2 4 6 8 0 0x0005)), ([0x6C020406], .viadd64 (r3 2 4 6)),
   ([0x6D020406, 0x08030000], .vidot4 (x6 2 4 6 8 3 0x0000)), ([0x6E020406, 0x08030000], .vidot8 (x6 2 4 6 8 3 0x0000)),
   ([0x6F020406, 0x00030000], .viadds (x6 2 4 6 0 3 0x0000)), ([0x70020400], .vmov (r3 2 4 0)), ([0x71020400], .vmovs (r3 2 4 0)),
   ([0x72020000, 0x89ABCDEF], .vmovi (i3 2 0 0 0x89ABCDEF)), ([0x73020000], .vlane (r3 2 0 0)),
   ([0x74020400, 0x89ABCDEF], .viaddi (i3 2 4 0 0x89ABCDEF))]
theorem test_decode_integerWords2 : ∀ p ∈ integerWords2, decode p.1 = .ok (p.2, []) := by decide
def convertWords : List (List Word × Instr) :=
  [([0x80020400, 0x000000C0], .vcvt (x6 2 4 0 0 0 0x00C0)), ([0x81020406, 0x00010010], .vcvtn (x6 2 4 6 0 1 0x0010)),
   ([0x82020406, 0x00020010], .vcvtw (x6 2 4 6 0 2 0x0010)), ([0x83020406, 0x00000002], .vpk16 (x6 2 4 6 0 0 0x0002)),
   ([0x84020400, 0x00000005], .vblksc (x6 2 4 0 0 0 0x0005)), ([0x90020406, 0x00030005], .vshfl (x6 2 4 6 0 3 0x0005)),
   ([0x91020406, 0x00010000], .vbcst (x6 2 4 6 0 1 0x0000)), ([0x92020400, 0x00030000], .vred (x6 2 4 0 0 3 0x0000)),
   ([0x93020400, 0x00030000], .vredsp (x6 2 4 0 0 3 0x0000)), ([0x94020400, 0x00030000], .vscan (x6 2 4 0 0 3 0x0000)),
   ([0x95020406, 0x00010000], .had32 (x6 2 4 6 0 1 0x0000)), ([0x96020400, 0x08000005], .vpackl (x6 2 4 0 8 0 0x0005))]
theorem test_decode_convertWords : ∀ p ∈ convertWords, decode p.1 = .ok (p.2, []) := by decide
def memoryWords : List (List Word × Instr) :=
  [([0xA0020406, 0x00000005], .ldl (x6 2 4 6 0 0 0x0005)), ([0xA1020406, 0x00000003], .stl (x6 2 4 6 0 0 0x0003)),
   ([0xA2020406, 0x00000005], .ldd (x6 2 4 6 0 0 0x0005)), ([0xA3020406, 0x00000003], .std (x6 2 4 6 0 0 0x0003)),
   ([0xA4020406, 0x00030080], .atl (x6 2 4 6 0 3 0x0080)), ([0xA5000406, 0x00030004], .atd (x6 0 4 6 0 3 0x0004)),
   ([0xA5020406, 0x000300C0], .atdR (x6 2 4 6 0 3 0x00C0)), ([0xA6020400, 0x08010000], .spill (x6 2 4 0 8 1 0x0000)),
   ([0xA7020400, 0x08010000], .fill (x6 2 4 0 8 1 0x0000)), ([0xA8020406, 0x00000005], .ldh (x6 2 4 6 0 0 0x0005)),
   ([0xA9020406], .sldl (r3 2 4 6)), ([0xAA020406], .sstl (r3 2 4 6))]
theorem test_decode_memoryWords : ∀ p ∈ memoryWords, decode p.1 = .ok (p.2, []) := by decide
def handleWords : List (List Word × Instr) :=
  [([0xB0020406, 0x00000002], .cpyin (x6 2 4 6 0 0 0x0002)), ([0xB1020400, 0x00000002], .cpyout (x6 2 4 0 0 0 0x0002)),
   ([0xB1020406, 0x00010002], .cpyoutH (x6 2 4 6 0 1 0x0002)), ([0xB2020406, 0x08000000], .tcpyin (x6 2 4 6 8 0 0x0000)),
   ([0xB3020406, 0x08000000], .tcpyout (x6 2 4 6 8 0 0x0000)), ([0xB4020406, 0x08000003], .hopen (x6 2 4 6 8 0 0x0003)),
   ([0xB5020000], .hseal (r3 2 0 0)), ([0xB6020000], .hfree (r3 2 0 0)), ([0xB7020000], .hwaitFull (r3 2 0 0)),
   ([0xB7020001], .hwaitIdle (r3 2 0 1)), ([0xB8020400], .hstat (r3 2 4 0)), ([0xB9020400, 0x00030004], .gatom (x6 2 4 0 0 3 0x0004)),
   ([0xBA020406, 0x00030004], .gatomr (x6 2 4 6 0 3 0x0004)), ([0xBB020000], .evpop (r3 2 0 0))]
theorem test_decode_handleWords : ∀ p ∈ handleWords, decode p.1 = .ok (p.2, []) := by decide
def matrixWords : List (List Word × Instr) :=
  [([0xC0020406, 0x00050001], .mldb (x6 2 4 6 0 5 0x0001)), ([0xC1020306, 0x08050001], .mma (x6 2 3 6 8 5 0x0001)),
   ([0xC2020306, 0x08000000], .moutl (x6 2 3 6 8 0 0x0000)), ([0xC3020406, 0x08030010], .mrd (x6 2 4 6 8 3 0x0010)),
   ([0xC4020000], .mzero (r3 2 0 0)), ([0xC5000000], .mfence (r3 0 0 0)), ([0xC6020406, 0x00020005], .xldb (x6 2 4 6 0 2 0x0005)),
   ([0xC7020306, 0x00030000], .xcmp (x6 2 3 6 0 3 0x0000)), ([0xC8020400, 0x00030005], .xrow (x6 2 4 0 0 3 0x0005)),
   ([0xC9020400, 0x00010005], .xcol (x6 2 4 0 0 1 0x0005)), ([0xCA020400, 0x00010000], .xclos (x6 2 4 0 0 1 0x0000)),
   ([0xCB020406], .xcomp (r3 2 4 6)), ([0xCC020400], .xtrn (r3 2 4 0)), ([0xCD020406, 0x00030000], .xlog (x6 2 4 6 0 3 0x0000)),
   ([0xCE020400, 0x00010000], .xmov (x6 2 4 0 0 1 0x0000)), ([0xCF020000, 0x00020000], .xset (x6 2 0 0 0 2 0x0000))]
theorem test_decode_matrixWords : ∀ p ∈ matrixWords, decode p.1 = .ok (p.2, []) := by decide
def engineWords : List (List Word × Instr) :=
  [([0xD0020406, 0x08000000], .tex (x6 2 4 6 8 0 0x0000)), ([0xD1020406, 0x08000000], .texld (x6 2 4 6 8 0 0x0000)),
   ([0xD2020406, 0x08000005], .hgf (x6 2 4 6 8 0 0x0005)), ([0xD3020406, 0x08000005], .hgs (x6 2 4 6 8 0 0x0005)),
   ([0xD4020406, 0x00000000], .trace (x6 2 4 6 0 0 0x0000)), ([0xD5020406, 0x00010001], .rnd (x6 2 4 6 0 1 0x0001)),
   ([0xE0020406, 0x00010000], .tres (x6 2 4 6 0 1 0x0000)), ([0xE1020406, 0x08020000], .tview (x6 2 4 6 8 2 0x0000)),
   ([0xE2020006, 0x00000000], .tqnew (x6 2 0 6 0 0 0x0000)), ([0xE3000406, 0x00000000], .tqdel (x6 0 4 6 0 0 0x0000)),
   ([0xE4020406, 0x00000005], .tqadd (x6 2 4 6 0 0 0x0005)), ([0xE5000406, 0x00000000], .tqrem (x6 0 4 6 0 0 0x0000)),
   ([0xE6000406, 0x00000005], .binpush (x6 0 4 6 0 0 0x0005)), ([0xE7000400], .binflush (r3 0 4 0)),
   ([0xE8000400, 0x08000001], .launch (x6 0 4 0 8 0 0x0001))]
theorem test_decode_engineWords : ∀ p ∈ engineWords, decode p.1 = .ok (p.2, []) := by decide
def systemWords : List (List Word × Instr) :=
  [([0xF0020000, 0x89ABCDEF], .yield_ (i3 2 0 0 0x89ABCDEF)), ([0xF1020000], .bar (r3 2 0 0)),
   ([0xF2020406, 0x08010001], .sysc (x6 2 4 6 8 1 0x0001)), ([0xF3020000], .trap (r3 2 0 0)), ([0xF4000400], .ldovt (r3 0 4 0)),
   ([0xF5010400], .sleep (r3 1 4 0)), ([0xF6020000], .brk (r3 2 0 0)), ([0xF7020400], .prd (r3 2 4 0)), ([0xF8000406], .pwr (r3 0 4 6)),
   ([0xF9000000], .eret (r3 0 0 0))]
theorem test_decode_systemWords : ∀ p ∈ systemWords, decode p.1 = .ok (p.2, []) := by decide

/-! ### Ill-formed terms, one for each check (03 R45, R49 to R51, R56 and the rule of each instruction) -/
/-- Must-be-zero fields, scalar, pair, mask, vector-pair and handle codes, conditions. -/
def badCodes : List Instr :=
  [.nop (r3 1 0 0), .smov (r3 0 0 1), .smov (r3 128 0 0), .smov (r3 0 216 0), .sadd (r3 0 0 216), .sysc (x6 1 0 0 0 0 0),
   .evpop (r3 1 0 0), .evpop (r3 128 0 0), .calls (r3 0 1 0), .mmov (r3 17 0 0), .mmov (r3 18 0 0), .mmov (r3 0 19 0), .exenter (r3 16 0 0),
   .cpyin (x6 0 0 255 0 0 2), .cpyout (x6 255 0 0 0 0 0), .viadd64 (r3 0 0 255), .hseal (r3 16 0 0), .hstat (r3 0 16 0),
   .brCond (i3 0 5 0 0), .brCond (i3 1 0 0 0), .brCond (i3 19 1 0 0), .call (i3 0 0 1 0), .waitc (r3 32 0 0), .brz (i3 128 0 0 0)]
/-- FN, RM and the sign, ABSA and SAT modifiers. -/
def badModifiers : List Instr :=
  [.sminS (x6 0 0 0 0 1 0), .sbit (x6 0 0 0 0 4 0), .scmp (x6 0 0 0 0 10 0), .vfadd (x6 0 0 0 0 1 0), .vfadd (x6 0 0 0 1 0 0),
   .vfadd (x6 0 0 0 0 0 0xC000), .vfmin (x6 0 0 0 0 0 0x2000), .vfmin (x6 0 0 0 0 0 0x1000), .vimad (x6 0 0 0 0 0 0x0800),
   .vfsqrt (x6 0 0 0 0 0 0x0400), .vfadd (x6 0 0 0 0 0 0x0200), .vimulh (x6 0 0 0 0 0 0x0100), .vfadd (x6 0 0 0 0 0 1)]
/-- Formats, element numbers, operation numbers. -/
def badFormats : List Instr :=
  [.vhadd (x6 0 0 0 0 0 3), .vfdot4 (x6 0 0 0 0 0 0x35), .vcvt (x6 0 0 0 0 0 0x00), .vcvt (x6 0 0 0 0 0 0x10), .vcvt (x6 0 0 0 0 0 0x20CD),
   .vcvtn (x6 0 0 0 0 0 0x00), .vcvtn (x6 0 0 0 0 0 0x34), .vcvtn (x6 0 0 1 0 0 0x30), .vcvtw (x6 0 0 0 0 1 0x10), .vpk16 (x6 0 0 0 0 0 4),
   .vblksc (x6 0 0 0 0 0 7), .vbfe (x6 0 0 0 0 0 33), .vshfl (x6 0 0 0 0 0 0), .vshfl (x6 0 0 0 0 0 6), .vred (x6 0 0 0 0 12 0),
   .vred (x6 0 0 0 0 0 0x2000), .vscan (x6 0 0 0 0 11 0), .vscan (x6 0 0 0 0 64 0), .had32 (x6 0 0 1 0 0 0), .vfclass (x6 0 0 0 2 0 0),
   .vsel (x6 0 0 0 0 0 19), .vpackl (x6 0 0 0 0 0 19)]
/-- Memory, handle, matrix, engine, table and system fields. -/
def badSystem : List Instr :=
  [.ldl (x6 0 0 0 0 0 7), .stl (x6 0 0 0 0 0 5), .atl (x6 0 0 0 0 8 0), .atl (x6 0 0 0 0 1 0), .atl (x6 0 0 255 0 0 4), .atl (x6 0 0 0 1 0 0),
   .atd (x6 1 0 0 0 0 0), .atdR (x6 0 0 0 0 0 0x00D0), .spill (x6 0 0 0 0 0 0), .spill (x6 127 0 0 2 1 0), .fill (x6 17 0 0 1 2 0),
   .hopen (x6 0 0 0 0 0 4), .hopen (x6 0 0 0 1 0 0), .gatom (x6 255 0 0 0 0 0), .gatomr (x6 0 0 0 0 0 0x0080), .mldb (x6 4 0 0 0 5 0),
   .mldb (x6 0 0 0 0 7 0), .mma (x6 8 0 0 0 5 0), .mma (x6 0 0 0 64 5 0), .mrd (x6 0 8 0 0 0 0), .mrd (x6 0 0 0 0 0 0x00E0), .mzero (r3 8 0 0),
   .xldb (x6 0 0 0 0 2 3), .xldb (x6 0 0 0 0 1 1), .xrow (x6 0 0 0 0 4 0), .xrow (x6 0 0 0 0 0 65), .xmov (x6 255 0 0 0 0 0), .xset (x6 0 0 0 0 3 0),
   .tex (x6 0 0 1 0 0 0), .tex (x6 0 0 0 16 0 0), .rnd (x6 0 0 216 0 0 1), .tres (x6 0 255 0 0 0 0), .tview (x6 0 0 0 1 0 0), .tqadd (x6 0 0 0 0 0 64),
   .binpush (x6 0 0 0 0 0 3), .binpush (x6 0 0 0 0 0 17), .launch (x6 0 0 0 1 0 0), .yield_ (i3 5 0 0 0), .bar (r3 5 0 0), .bar (r3 0 0 0),
   .sysc (x6 0 0 0 1 1 0), .sysc (x6 0 0 0 0 3 0), .sysc (x6 0 0 0 0 0 1), .ldovt (r3 1 0 0), .sleep (r3 2 0 0), .eret (r3 0 0 1)]
theorem test_bad_codes_refused : ∀ i ∈ badCodes, i.wf = false := by decide
theorem test_bad_modifiers_refused : ∀ i ∈ badModifiers, i.wf = false := by decide
theorem test_bad_formats_refused : ∀ i ∈ badFormats, i.wf = false := by decide
theorem test_bad_system_refused : ∀ i ∈ badSystem, i.wf = false := by decide
/-- The decoder refuses the words of every one of them. -/
theorem test_ill_formed_words_refused : ∀ i ∈ badCodes ++ badModifiers ++ badFormats, decode (encode i) ≠ .ok (i, []) := by decide
/-- 03 R41: a two-word instruction cut by the end; 03 R55: an unassigned opcode; 03 R51 and 03 R50 at the edge of a range. -/
theorem test_straddle : decode [0x40000000] = .error .straddle := by decide
theorem test_unassigned_opcode : decode [0x2F000000] = .error .opcode := by decide
theorem test_last_scalar_code : (Instr.smov (r3 127 215 0)).wf = true ∧ (Instr.mmov (r3 16 18 0)).wf = true := by decide

/-! ### One instruction on a small state: results by the rules and worked examples of the spec -/

/-- R85: the sum wraps at 2^32. -/
theorem test_saddi_wraps : scalar (done (.saddi (i3 2 4 0 2)) (withS [(4, 0xFFFFFFFF)])) 2 = 1 := by decide
/-- R84: the high half of −1 × 2 is all ones signed, 1 unsigned. -/
theorem test_smulh : scalar (done (.smulh (r3 2 4 5)) (withS [(4, 0xFFFFFFFF), (5, 2)])) 2 = 0xFFFFFFFF := by decide
theorem test_smulhu : scalar (done (.smulhu (r3 2 4 5)) (withS [(4, 0xFFFFFFFF), (5, 2)])) 2 = 1 := by decide
/-- R84: a destination that is also a source. -/
theorem test_ssub_same : scalar (done (.ssub (r3 4 5 4)) (withS [(4, 7), (5, 3)])) 4 = 0xFFFFFFFC := by decide
/-- R84: counts of 32 and more shift everything out; an arithmetic shift leaves the sign. -/
theorem test_sshl_32 : scalar (done (.sshl (r3 2 4 160)) (withS [(4, 1)])) 2 = 0 := by decide
theorem test_ssra_40 : scalar (done (.ssra (r3 2 4 168)) (withS [(4, 0x80000000)])) 2 = 0xFFFFFFFF := by decide
/-- R86: −1 is below 1 signed and above it unsigned. -/
theorem test_scmp_signed : scalar (done (.scmp (x6 2 4 129 0 2 0)) (withS [(4, 0xFFFFFFFF)])) 2 = 1 := by decide
theorem test_scmp_unsigned : scalar (done (.scmp (x6 2 4 129 0 6 0)) (withS [(4, 0xFFFFFFFF)])) 2 = 0 := by decide
theorem test_smin_unsigned : scalar (done (.sminU (x6 2 4 129 0 1 0)) (withS [(4, 0xFFFFFFFF)])) 2 = 1 := by decide
theorem test_ssel_zero : scalar (done (.ssel (x6 2 129 130 128 0 0)) id) 2 = 2 := by decide
/-- R86: 32 leading zeros of 0. -/
theorem test_sbit_clz : scalar (done (.sbit (x6 2 128 0 0 1 0)) id) 2 = 32 := by decide
/-- R28: LANES, and RM takes 4 and refuses 5 with ILLEGAL, subcode RESERVED. -/
theorem test_srdsr_lanes : scalar (done (.srdsr (r3 2 0 0)) id) 2 = 4 := by decide
theorem test_swrsr_rm : (done (.swrsr (r3 13 132 0)) id).team.rm = 4 := by decide
/-- R91, R47: a branch back by two words from the clause's header. -/
theorem test_br_back : (done (.brCond (i3 0 0 0 0xFFFFFFFE)) id).team.pc = 0xFFF8#56 := by decide
/-- R92. -/
theorem test_brz_not_taken : (done (.brz (i3 4 0 0 9)) (withS [(4, 1)])).team.pc = 0x1000C#56 := by decide
/-- R101: the target is bits [55:0] of the pair. -/
theorem test_jmps : (done (.jmps (r3 0 4 0)) (withS [(4, 0x2000), (5, 0xFF000001)])).team.pc = 0x100002000#56 := by decide
/-- R103: WAITC MC, 0 holds while MC stands at 1. -/
theorem test_waitc : (done (.waitc (r3 4 128 0)) fun t => { t with mc := 1 }).ready = false := by decide
/-- R108: helper lanes do not count; the first of lanes 1 and 3. -/
theorem test_mcnt_help : scalar (done (.mcnt (r3 2 18 0)) fun t => { t with lanes := 3 }) 2 = 0 := by decide
theorem test_mfirst : scalar (done (.mfirst (r3 2 16 0)) fun t => { t with exec := 0xA }) 2 = 1 := by decide
/-- R106: lanes at and above L read 0 after MNOT. -/
theorem test_mnot_live : look 0 3 (done (.mnot (r3 3 16 0)) fun t => { t with lanes := 3, exec := 0x1 }).team.m = 0x6#1024 := by decide
/-- R114, the worked example: L = 30, EXEC lanes 4 and 8. -/
theorem test_qhelp_exec : look 0 3 (done (.qhelp (r3 3 16 0)) fun t => { t with lanes := 30, exec := 0x110 }).team.m = 0xFF0#1024 := by decide
theorem test_qhelp_help : look 0 3 (done (.qhelp (r3 3 18 0)) fun t => { t with lanes := 30, exec := 0x110 }).team.m = 0x30000000#1024 := by decide
/-- R115, R127: lanes outside EXEC keep their values. -/
theorem test_viadd_masked :
    lanes4 (done (.viadd (r3 1 2 3)) fun t => { withV 1 [9, 9, 9, 9] (withV 2 [1, 2, 3, 4] (withV 3 [10, 20, 30, 40] t)) with exec := 0x5 }) 1 =
      [11, 9, 33, 9] := by decide
/-- R132: the carry goes into the high word, and the pairs may overlap. -/
theorem test_viadd64_carry :
    (let s := done (.viadd64 (r3 1 1 3)) fun t => withV 1 [0xFFFFFFFF] (withV 3 [1] t); (lanes4 s 1, lanes4 s 2)) = ([0, 0, 0, 0], [1, 0, 0, 0]) := by decide
/-- R131: a signed field of 4 bits at 4. -/
theorem test_vbfe_signed : lanes4 (done (.vbfe (x6 1 2 3 0 1 4)) fun t => withV 2 [0x80] (withV 3 [4] t)) 1 = [0xFFFFFFF8, 0, 0, 0] := by decide
/-- R133: a clamp sets OVERFLOW. -/
theorem test_viadds_clamps :
    (let s := done (.viadds (x6 1 2 3 0 0 0)) fun t => withV 2 [0x7FFFFFFF] (withV 3 [1] t); ((lanes4 s 1).head?, s.team.status)) =
      (some 0x7FFFFFFF, 16) := by decide
/-- R118: 1 + 2 = 3; R66: 1 − 1 is −0 under RDN. -/
theorem test_vfadd : lanes4 (done (.vfadd (x6 1 2 3 0 0 0)) fun t => withV 2 [0x3F800000] (withV 3 [0x40000000] t)) 1 = [0x40400000, 0, 0, 0] := by
  decide
theorem test_vfsub_rdn :
    (lanes4 (done (.vfsub (x6 1 2 2 0 0 0x4000)) fun t => withV 2 [0x3F800000] t) 1).head? = some 0x80000000 := by decide
/-- R119, the worked example: VFRCP.SAT of +0 gives the largest number and sets OVERFLOW. -/
theorem test_vfrcp_sat :
    (let s := done (.vfrcp (x6 1 2 0 0 0 0x1000)) fun t => { t with exec := 1 }; ((lanes4 s 1).head?, s.team.status)) = (some 0x7F7FFFFF, 16) := by decide
/-- R71: −0 lies below +0; a NaN and a number give the number and no INVALID. -/
theorem test_vfmin_zeros : (lanes4 (done (.vfmin (x6 1 2 3 0 0 0)) fun t => withV 3 [0x80000000] t) 1).head? = some 0x80000000 := by decide
theorem test_vfmax_nan :
    (let s := done (.vfmax (x6 1 2 3 0 0 0)) fun t => withV 2 [0x7FC00001] (withV 3 [0xBF800000] t); ((lanes4 s 1).head?, s.team.status)) =
      (some 0xBF800000, 0) := by decide
/-- R120, the worked examples: −0.4 under RDN is −1, under RTZ −0. -/
theorem test_vfrnd_rdn : (lanes4 (done (.vfrnd (x6 1 2 0 0 0 0x4000)) fun t => withV 2 [0xBECCCCCD] t) 1).head? = some 0xBF800000 := by decide
theorem test_vfrnd_rtz : (lanes4 (done (.vfrnd (x6 1 2 0 0 0 0x2000)) fun t => withV 2 [0xBECCCCCD] t) 1).head? = some 0x80000000 := by decide
/-- R73, the worked example: 70,000.0 to FP16 under entry 1 of the overflow table, then with RTZ. -/
theorem test_vpk16_overflow :
    (let s := run (.vpk16 (x6 1 2 3 0 0 1))
     let s : State := { s with team := withV 2 [0x4788B800] s.team, ten := { s.ten with ctxs := [{ num := 0, ovt := 1 }] } }
     let t := after (exec (.vpk16 (x6 1 2 3 0 0 1)) s) s
     ((lanes4 t 1).head?, t.team.status)) = (some 0x7C00, 16) := by decide
theorem test_vpk16_overflow_0 :
    (lanes4 (done (.vpk16 (x6 1 2 3 0 0 1)) fun t => withV 2 [0x4788B800] t) 1).head? = some 0x7BFF := by decide
/-- R137, the worked example "Block-scaling one span to INT16": the scale, then the narrowed elements. -/
theorem test_vblksc_s16 :
    (lanes4 (done (.vblksc (x6 8 4 0 0 0 10)) fun t => withV 4 [0x447A0000, 0xBF420000, 0x3D800000, 0x3CA00000] t) 8).head? = some 0x10 := by decide
theorem test_vcvtn_s16 :
    lanes4 (done (.vcvtn (x6 9 4 8 0 1 0xA0)) fun t =>
      withV 8 [0x10, 0x10, 0x10, 0x10] (withV 4 [0x447A0000, 0xBF420000, 0x3D800000, 0x3CA00000] t)) 9 = [0x7D00, 0xFFE8, 2, 1] := by decide
/-- R261, R273, the worked example: key 0, counter 1. -/
theorem test_rnd : (lanes4 (done (.rnd (x6 3 1 2 0 0 0)) fun t => withV 2 [1] t) 3).head? = some 0xF63A927F := by decide
theorem test_rnd_f : (lanes4 (done (.rnd (x6 3 1 2 0 1 0)) fun t => withV 2 [1] t) 3).head? = some 0x3F763A92 := by decide
/-- R144: the signed minimum of three active lanes; R145: no lane gives the identity and EMPTY. -/
theorem test_vred_min : scalar (done (.vred (x6 2 1 0 0 4 0)) fun t => { withV 1 [5, 0xFFFFFFFF, 7, 0x80000000] t with exec := 0x7 }) 2 = 0xFFFFFFFF := by
  decide
theorem test_vred_empty :
    (let s := done (.vred (x6 2 1 0 0 4 0)) fun t => { t with exec := 0 }; (scalar s 2, s.team.status)) = (0x7FFFFFFF, 1) := by decide
/-- R147: an inclusive integer sum. -/
theorem test_vscan_sum : lanes4 (done (.vscan (x6 2 1 0 0 0 0)) fun t => withV 1 [1, 2, 3, 4] t) 2 = [1, 3, 6, 10] := by decide
/-- R142: an XOR shuffle by 1 in segments of 4; R149: the selected lanes move to the front. -/
theorem test_vshfl_xor : lanes4 (done (.vshfl (x6 2 1 129 0 3 2)) fun t => withV 1 [1, 2, 3, 4] t) 2 = [2, 1, 4, 3] := by decide
theorem test_vpackl :
    (let s := done (.vpackl (x6 2 1 0 7 0 0)) fun t => { withV 1 [1, 2, 3, 4] t with m := [(0, 0xA)] }
     (lanes4 s 2, scalar s 7)) = ([2, 4, 0, 0], 2) := by decide
/-- R188: a byte store at an offset, little-endian for a word. -/
theorem test_stl_word :
    (let s := done (.stl (x6 1 2 128 0 0 0)) fun t => { withV 1 [0x11223344] (withV 2 [8] t) with exec := 1 }
     (List.range 5).map fun k => s.blk.ls.get (8 + k)) = [0x44, 0x33, 0x22, 0x11, 0] := by decide
/-- R192: ATL ADD of two lanes on one word. -/
theorem test_atl_add :
    (done (.atl (x6 0 2 1 0 0 0)) fun t => { withV 1 [3, 4] t with exec := 3 }).blk.ls.num 0 4 = 7 := by decide
/-- R209, R336: TRAP 5 enters the handler with the next header as its return point and all lanes on. -/
theorem test_trap_enters :
    (let t := (after (exec (.trap (r3 5 0 0)) (runH (.trap (r3 5 0 0)) id)) {}).team; (t.pc, t.priv, t.epc, t.exec)) =
      (0x10100#56, true, 0x10008#56, 0xF#1024) := by decide
/-- R206: YIELD.DEVICE opens a phase with 64 × n words. -/
theorem test_yield_deadline : (done (.yield_ (i3 3 0 0 2)) id).team.dl = 128 := by decide
theorem test_deadline_ends : (done (.yield_ (i3 3 0 0 2)) fun t => { t with dl := 1 }).team.wait = .ended := by decide
/-- R51: a privileged register outside privileged mode: the register that it would write is as before. -/
theorem test_priv_read :
    (let t := (after (exec (.srdsr (r3 2 32 0)) (runH (.srdsr (r3 2 32 0)) (withS [(2, 9)]))) {}).team; (look 0 2 t.s, t.pc, t.cause)) =
      (9, 0x10100#56, 0x300#32) := by decide
/-- R99, the worked example "A CALLV, worked through": EXEC, DEPTH, CREC and CTOP after the call. -/
def callvState : State :=
  let s := runT (.callv (r3 0 2 4)) fun t =>
    { withV 2 [0x00, 0x40, 0x00, 0x00, 0x80, 0x40, 0x00, 0x80] (withS [(4, 0x2000)] t) with lanes := 8, budget := 16, exec := 0x7F, ctop := 64, ptop := 64 }
  let w (a : Nat) (x : Nat) (m : Space) : Space := m.inits a (leBytes 4 x)
  { s with ten := { s.ten with
    pages := [{ page0 with va := 0 }], main := w 0x1FFC 0xA5010001 (w 0x203C 0xA5020000 (w 0x207C 0xA5010000 {})) } }
theorem test_callv :
    (let t := (after (exec (.callv (r3 0 2 4)) callvState) callvState).team; (t.exec, t.depth, t.crec, t.ctop, t.pc)) =
      (0x4D#1024, 1, some 240, 320, 0x2000#56) := by decide
/-- The placed instruction (SMOV s2, code 129) is the very next step. -/
theorem test_first_step : (match step (State.reset.withFetchWord 32 0x01028100) with | .next t => look 0 2 t.team.s | _ => 0) = 1 := by decide

/-! ### Every statement's hypotheses can be met: scalar, special registers, control flow (statements on pieces 05, 09) -/

/-- A ready instruction of `run`. -/
abbrev Can (i : Instr) (f : Team → Team) : Prop := Ready i (clauseOf i) (runT i f)

theorem test_meets_ImmediateScalarRule :
    ((127 : Byte).toNat < 128 ∧ (215 : Byte).toNat < 216 ∧ ((215 : Byte) ≠ 0 ∨ (1 : Byte) ≠ 0)) ∧ Can (.smovi (i3 127 0 0 5)) id ∧
      Can (.saddi (i3 127 215 0 5)) id := ⟨by decide, ⟨rfl, rfl, by decide⟩, ⟨rfl, rfl, by decide⟩⟩

theorem test_meets_ScalarResultsComplete :
    (Can (.smov (r3 127 215 0)) id ∧ Arith (runT (.smov (r3 127 215 0)) id) (.smov (r3 127 215 0)) 127 0xC0800000) ∧
    (Can (.smulh (r3 0 4 5)) id ∧ ∃ v, Arith (runT (.smulh (r3 0 4 5)) id) (.smulh (r3 0 4 5)) 0 v) ∧
    (Can (.sshl (r3 2 129 160)) id ∧ Shift (runT (.sshl (r3 2 129 160)) id) (.sshl (r3 2 129 160)) 2 0) ∧
    (Can (.scmp (x6 2 128 128 0 9 0)) id ∧ Shift (runT (.scmp (x6 2 128 128 0 9 0)) id) (.scmp (x6 2 128 128 0 9 0)) 2 1) ∧
    (Can (.scmp (x6 2 128 128 0 1 0)) id ∧ Shift (runT (.scmp (x6 2 128 128 0 1 0)) id) (.scmp (x6 2 128 128 0 1 0)) 2 0) ∧
    (Can (.sbit (x6 2 128 0 0 2 0)) id ∧ Shift (runT (.sbit (x6 2 128 0 0 2 0)) id) (.sbit (x6 2 128 0 0 2 0)) 2 32) ∧
    Can (.smaxS (x6 2 128 207 0 2 0)) id ∧ Shift (runT (.smaxS (x6 2 128 207 0 2 0)) id) (.smaxS (x6 2 128 207 0 2 0)) 2 0 := by
  refine ⟨⟨⟨rfl, rfl, by decide⟩, .smov _⟩, ⟨⟨rfl, rfl, by decide⟩, _, .smulh _⟩, ⟨⟨rfl, rfl, by decide⟩, .sshl _ _ (by decide)⟩,
    ⟨⟨rfl, rfl, by decide⟩, .scmp _ _ (.inl ⟨by show BitVec.toNat _ ≥ BitVec.toNat _; decide, rfl⟩)⟩,
    ⟨⟨rfl, rfl, by decide⟩, .scmp _ _ (.inr ⟨fun h => ?_, rfl⟩)⟩, ⟨⟨rfl, rfl, by decide⟩, .sbit _ _ ?_⟩, ⟨rfl, rfl, by decide⟩, .smaxS _ _ (by decide)⟩
  · have h : (128 : Byte) ≠ 128 := by intro; exact absurd rfl h
    exact h rfl
  · exact ⟨by decide, by decide, fun h => absurd h (by decide)⟩

theorem test_meets_ArgumentLoadCompletes :
    (Can (.sldk (r3 2 4 128)) (withS [(4, 4092)]) ∧ ((runT (.sldk (r3 2 4 128)) (withS [(4, 4092)])).sval 4).toNat = 4092 ∧ 4092 % 4 = 0 ∧ 4092 < 4096) ∧
    (Can (.sldk (r3 2 4 128)) (withS [(4, 4096)]) ∧ ((runT (.sldk (r3 2 4 128)) (withS [(4, 4096)])).sval 4).toNat = 4096 ∧ 4096 % 4 = 0) ∧
    Can (.sldk (r3 2 4 128)) (withS [(4, 4097)]) ∧ ((runT (.sldk (r3 2 4 128)) (withS [(4, 4097)])).sval 4).toNat = 4097 ∧ 4097 % 4 ≠ 0 :=
  ⟨⟨⟨rfl, rfl, by decide⟩, by decide⟩, ⟨⟨rfl, rfl, by decide⟩, by decide⟩, ⟨rfl, rfl, by decide⟩, by decide⟩

/-- A team in a handler. -/
def inHandler (t : Team) : Team := { t with priv := true }

theorem test_meets_SpecialRegistersComplete :
    (Can (.srdsr (r3 2 31 0)) id ∧ (31 : Byte).toNat < 32) ∧ (Can (.srdsr (r3 2 29 0)) id ∧ 29 - 22 < (runT (.srdsr (r3 2 29 0)) id).team.ga) ∧
    (Can (.srdsr (r3 2 37 0)) inHandler ∧ (runT (.srdsr (r3 2 37 0)) inHandler).team.priv = true) ∧
    (Can (.swrsr (r3 12 191 0)) id ∧ ∃ w, WriteSpecial (runT (.swrsr (r3 12 191 0)) id).team 63 12 w) ∧
    (Can (.swrsr (r3 13 132 0)) id ∧ ∃ w, WriteSpecial (runT (.swrsr (r3 13 132 0)) id).team 4 13 w) ∧
    (Can (.swrsr (r3 30 4 0)) id ∧ ∃ w, WriteSpecial (runT (.swrsr (r3 30 4 0)) id).team 0 30 w) ∧
    (Can (.swrsr (r3 32 132 0)) inHandler ∧ ∃ w, WriteSpecial (runT (.swrsr (r3 32 132 0)) inHandler).team 4 32 w) ∧
    Can (.swrsr (r3 33 4 0)) inHandler ∧ ∃ w, WriteSpecial (runT (.swrsr (r3 33 4 0)) inHandler).team 0xFFFFFF 33 w :=
  ⟨⟨⟨rfl, rfl, by decide⟩, by decide⟩, ⟨⟨rfl, rfl, by decide⟩, by decide⟩, ⟨⟨rfl, rfl, by decide⟩, rfl⟩,
    ⟨⟨rfl, rfl, by decide⟩, _, .status (by decide)⟩, ⟨⟨rfl, rfl, by decide⟩, _, .rm (by decide)⟩, ⟨⟨rfl, rfl, by decide⟩, _, .seed⟩,
    ⟨⟨rfl, rfl, by decide⟩, _, .epcLo rfl (by decide)⟩, ⟨rfl, rfl, by decide⟩, _, .epcHi rfl (by decide)⟩

/-- The launch of the team has pinned tick 5 of world 0. -/
def pinnedS : State :=
  let s := runH (.srdsr (r3 2 20 0)) id
  { s with ten := { s.ten with launches := [{ launch0 with pins := [(0, 5)] }] } }
/-- The codes that read the launch, at both ends of a case; MSTAT7 with and without its tile. -/
theorem test_meets_SpecialRegistersComplete_values :
    (Ready (.srdsr (r3 2 20 0)) (clauseOf (.srdsr (r3 2 20 0))) pinnedS ∧ SpecialValue pinnedS 20 5) ∧
    SpecialValue (runH (.srdsr (r3 2 20 0)) id) 20 0 ∧ SpecialValue pinnedS 5 1 ∧ SpecialValue pinnedS 21 (if launch0.rc.kind = 2 then BitVec.ofNat 32 launch0.recs.length else 0) ∧ SpecialValue pinnedS 14 2 ∧
    SpecialValue pinnedS 29 0 ∧ SpecialValue pinnedS 37 0 ∧
    Can (.srdsr (r3 2 29 0)) (fun t => { t with ga := 7 }) ∧ (runT (.srdsr (r3 2 29 0)) fun t => { t with ga := 7 }).team.ga ≤ (29 : Byte).toNat - 22 :=
  ⟨⟨⟨rfl, rfl, by decide⟩, .tick _ 0 5 rfl (by decide) (by decide)⟩, .noTick launch0 rfl (by decide), .blocks { launch0 with pins := [(0, 5)] } rfl, .bincount { launch0 with pins := [(0, 5)] } rfl, .deadline,
    .mstat 7 (by decide), .einfo, ⟨rfl, rfl, by decide⟩, by decide⟩

theorem test_meets_PrivilegeIsChecked :
    (Can (.srdsr (r3 2 32 0)) id ∧ (runT (.srdsr (r3 2 32 0)) id).team.priv = false) ∧
    (Can (.swrsr (r3 255 4 0)) id ∧ (runT (.swrsr (r3 255 4 0)) id).team.priv = false) ∧
    (Can (.srdsr (r3 2 38 0)) inHandler ∧ (runT (.srdsr (r3 2 38 0)) inHandler).team.priv = true) ∧
    (Can (.swrsr (r3 13 133 0)) id ∧ ∀ w, ¬ WriteSpecial (runT (.swrsr (r3 13 133 0)) id).team 5 13 w) ∧
    (Can (.swrsr (r3 31 133 0)) id ∧ ∀ w, ¬ WriteSpecial (runT (.swrsr (r3 31 133 0)) id).team 5 31 w) ∧
    Can (.ldovt (r3 0 128 0)) id ∧ (runT (.ldovt (r3 0 128 0)) id).team.priv = false :=
  ⟨⟨⟨rfl, rfl, by decide⟩, rfl⟩, ⟨⟨rfl, rfl, by decide⟩, rfl⟩, ⟨⟨rfl, rfl, by decide⟩, rfl⟩,
    ⟨⟨rfl, rfl, by decide⟩, fun _ h => by cases h with | rm h => exact absurd h (by decide)⟩,
    ⟨⟨rfl, rfl, by decide⟩, fun _ h => nomatch h⟩, ⟨rfl, rfl, by decide⟩, rfl⟩

theorem test_meets_HoldsAndBranchesComplete :
    Can (.nop (r3 0 0 0)) id ∧ Can (.waitc (r3 31 191 0)) id ∧ Can (.sleep (r3 1 128 0)) id ∧
    (Can (.brCond (i3 0 0 0 9)) id ∧ ∃ va, Goes (runT (.brCond (i3 0 0 0 9)) id) (clauseOf (.brCond (i3 0 0 0 9))) (.brCond (i3 0 0 0 9)) va) ∧
    (Can (.brz (i3 4 0 0 9)) id ∧ ∃ va, Goes (runT (.brz (i3 4 0 0 9)) id) (clauseOf (.brz (i3 4 0 0 9))) (.brz (i3 4 0 0 9)) va) ∧
    (Can (.brnz (i3 4 0 0 9)) id ∧ ∃ va, Goes (runT (.brnz (i3 4 0 0 9)) id) (clauseOf (.brnz (i3 4 0 0 9))) (.brnz (i3 4 0 0 9)) va) ∧
    Can (.jmps (r3 0 126 0)) id ∧ ∃ va, Goes (runT (.jmps (r3 0 126 0)) id) (clauseOf (.jmps (r3 0 126 0))) (.jmps (r3 0 126 0)) va :=
  ⟨⟨rfl, rfl, by decide⟩, ⟨rfl, rfl, by decide⟩, ⟨rfl, rfl, by decide⟩, ⟨⟨rfl, rfl, by decide⟩, _, .brTaken _ trivial⟩,
    ⟨⟨rfl, rfl, by decide⟩, _, .brzTaken _ (by decide)⟩, ⟨⟨rfl, rfl, by decide⟩, _, .brnzNot _ (by decide)⟩, ⟨rfl, rfl, by decide⟩, _, .jmps _⟩

/-- The mask conditions at their edges. -/
theorem test_meets_MaskCond : MaskCond 0 0 0 ∧ MaskCond 1 0 0xF ∧ ¬ MaskCond 2 0 0xF ∧ MaskCond 3 0xF 0xF ∧ ¬ MaskCond 4 0xF 0xF :=
  ⟨trivial, fun k => by simp, fun ⟨k, h⟩ => by simp at h, fun _ h => h, fun ⟨k, h, h'⟩ => by rw [h] at h'; exact absurd h' (by decide)⟩

/-- A state with the memory of the worked example: functions at 0x2000, 0x2040 and 0x2080. -/
def withFns (s : State) : State := { s with ten := { s.ten with pages := callvState.ten.pages, main := callvState.ten.main } }
def callI : Instr := .call (i3 0 0 0 0xFFFFC800)
def retI : Instr := .ret (r3 0 0 0)
/-- A team with a call record of kind `k` at 64. -/
def called (k : Byte) (t : Team) : Team := { t with depth := 1, crec := some 64, ctop := 80, spill := if k = 0 then [] else [(71, k)] }
/-- The state of the worked example after its call, at a RET. -/
def calledV : State :=
  let s := after (exec (.callv (r3 0 2 4)) callvState) callvState
  { s with team := { s.team with cl := some (clauseOf retI) } }
/-- The same with every lane of the group served. -/
def servedV : State := { calledV with team := { calledV.team with spill := putSpill calledV.team.spill 252 (leBytes 4 31) } }

theorem targetOk_fns : TargetOk (withFns (runT callI id)) 0x2000 ∧ TargetOk callvState 0x2000 ∧ TargetOk calledV 0x2040 := by
  refine ⟨⟨?_, ?_, ?_, ?_⟩, ⟨?_, ?_, ?_, ?_⟩, ⟨?_, ?_, ?_, ?_⟩⟩ <;> decide

theorem test_meets_CallsAndVectorCallsComplete :
    (Ready callI (clauseOf callI) (withFns (runT callI id)) ∧ Calls (withFns (runT callI id)) (clauseOf callI) callI 0 (target (clauseOf callI) 0xFFFFC800) ∧
      TargetOk (withFns (runT callI id)) (target (clauseOf callI) 0xFFFFC800) ∧
      max 0 0 + 16 + frameBytes (withFns (runT callI id)) 0x2000 ≤ (withFns (runT callI id)).team.z) ∧
    (Can (.calls (r3 0 4 0)) (withS [(4, 0x2000)]) ∧
      ∃ va, Calls (withFns (runT (.calls (r3 0 4 0)) (withS [(4, 0x2000)]))) (clauseOf (.calls (r3 0 4 0))) (.calls (r3 0 4 0)) 1 va) ∧
    (Can (.call (i3 0 2 0 9)) id ∧ ¬ MaskCond 2 ((runT (.call (i3 0 2 0 9)) id).mval 0) (runT (.call (i3 0 2 0 9)) id).execv) ∧
    (Can (.callv (r3 0 2 4)) (fun t => { t with exec := 0 }) ∧ (runT (.callv (r3 0 2 4)) fun t => { t with exec := 0 }).active = []) ∧
    (Ready (.callv (r3 0 2 4)) (clauseOf (.callv (r3 0 2 4))) callvState ∧ Granted [2] callvState ∧ callvState.active.head? = some 0 ∧
      laneTarget callvState (r3 0 2 4) 0 = 0x2000 ∧ (∀ k ∈ callvState.active, (callvState.vreg 2 k).toNat % 4 = 0) ∧ TargetOk callvState 0x2000 ∧
      callvState.team.depth ≠ 64 ∧ max 64 64 + groupBytes callvState.team + 16 + frameBytes callvState 0x2000 ≤ callvState.team.z) := by
  refine ⟨⟨⟨rfl, rfl, by decide⟩, .call _ trivial, targetOk_fns.1, by decide⟩, ⟨⟨rfl, rfl, by decide⟩, _, .calls _⟩,
    ⟨⟨rfl, rfl, by decide⟩, fun ⟨k, h⟩ => ?_⟩, ⟨⟨rfl, rfl, by decide⟩, by decide⟩, ⟨rfl, rfl, by decide⟩, by unfold Granted; decide, by decide, by decide,
    by decide, targetOk_fns.2.1, by decide, by decide⟩
  simp [runT, run, State.mval, State.mreg, Team.mask, Team.heldM, team0] at h

/-- CALLS with its target in s4:s5, in the memory of the worked example with two more function words. -/
def callsI : Instr := .calls (r3 0 4 0)
def callsS (x : Word) (f : Team → Team) (st : PageSt) : State :=
  let s := withFns (runT callsI fun t => f (withS [(4, x)] t))
  { s with ten := { s.ten with
    pages := [{ page0 with va := 0, st := st }], main := (s.ten.main.inits 0x2FFC (leBytes 4 0xA5008100)).inits 0x3FFC (leBytes 4 0xA5FF0000) } }
theorem test_meets_CallsAndVectorCallsComplete_traps :
    (Ready callsI (clauseOf callsI) (callsS 0x20000 id .hbm) ∧ Calls (callsS 0x20000 id .hbm) (clauseOf callsI) callsI 1 0x20000 ∧
      ∃ sub p, (callsS 0x20000 id .hbm).ten.fetchCheck (codeBytes (0x20000 - 4#56) 1) = .bad sub p) ∧
    (∃ ps, (callsS 0x2000 id .tier).ten.fetchCheck (codeBytes (0x2000 - 4#56) 1) = .absent ps) ∧
    ((callsS 0x5000 id .hbm).ten.fetchCheck (codeBytes (0x5000 - 4#56) 1) = .ok ∧ TargetTraps (callsS 0x5000 id .hbm) 0x5000 1 7) ∧
    ((callsS 0x3000 id .hbm).ten.fetchCheck (codeBytes (0x3000 - 4#56) 1) = .ok ∧ TargetTraps (callsS 0x3000 id .hbm) 0x3000 1 7) ∧
    ((callsS 0x4000 id .hbm).ten.fetchCheck (codeBytes (0x4000 - 4#56) 1) = .ok ∧ TargetTraps (callsS 0x4000 id .hbm) 0x4000 2 0) ∧
    (TargetOk (callsS 0x2000 (fun t => { t with depth := 64 }) .hbm) 0x2000 ∧ (callsS 0x2000 (fun t => { t with depth := 64 }) .hbm).team.depth = 64) ∧
    (TargetOk (callsS 0x2000 (fun t => { t with z := 79 }) .hbm) 0x2000 ∧ (callsS 0x2000 (fun t => { t with z := 79 }) .hbm).team.depth ≠ 64 ∧
      (callsS 0x2000 (fun t => { t with z := 79 }) .hbm).team.z < 0 + 16 + frameBytes (callsS 0x2000 (fun t => { t with z := 79 }) .hbm) 0x2000) ∧
    (Can (.callv (r3 0 2 4)) (withV 2 [0, 2]) ∧ Granted [2] (runT (.callv (r3 0 2 4)) (withV 2 [0, 2])) ∧ 1 ∈ (runT (.callv (r3 0 2 4)) (withV 2 [0, 2])).active ∧
      ((runT (.callv (r3 0 2 4)) (withV 2 [0, 2])).vreg 2 1).toNat % 4 ≠ 0 ∧ ((runT (.callv (r3 0 2 4)) (withV 2 [0, 2])).vreg 2 0).toNat % 4 = 0) ∧
    (laneTarget callvState (r3 0 2 4) 0 = 0x2000 ∧ callvState.team.z < 1000 + (groupBytes callvState.team + 16) + frameBytes callvState 0x2000) := by
  refine ⟨⟨⟨rfl, rfl, by decide⟩, .calls (r3 0 4 0), _, _, rfl⟩, ⟨_, rfl⟩, ⟨by decide, .tag (by decide)⟩, ⟨by decide, .scalars (by decide) (by decide)⟩,
    ⟨by decide, .budget (by decide) (by decide) (by decide)⟩, ⟨⟨?_, ?_, ?_, ?_⟩, by decide⟩, ⟨⟨?_, ?_, ?_, ?_⟩, by decide, by decide⟩,
    ⟨⟨rfl, rfl, by decide⟩, by unfold Granted; decide, by decide, by decide, by decide⟩, by decide, by decide⟩
  all_goals decide

theorem test_meets_ReturnsComplete :
    (Can retI id ∧ (runT retI id).team.depth = 0) ∧
    (Can retI (called 2) ∧ ∀ r, (runT retI (called 2)).team.crec = some r → spillNum (runT retI (called 2)).team (r + 7) 1 = 2) ∧
    (Can retI (called 1) ∧ spillNum (runT retI (called 1)).team (64 + 7) 1 ≤ 1) ∧
    (Ready retI (clauseOf retI) calledV ∧ calledV.team.crec = some 240 ∧ spillNum calledV.team (240 + 7) 1 = 3 ∧ spillNum calledV.team (240 + 8) 4 = 64 ∧
      spillNum calledV.team (240 + 12) 4 = 0 ∧ savedLane calledV.team 64 1 ∧ (∀ k, k < 1 → savedTarget calledV.team 64 k ≠ savedTarget calledV.team 64 1) ∧
      TargetOk calledV 0x2040 ∧ savedTarget calledV.team 64 1 = 0x2040 ∧ max (64 + groupBytes calledV.team) 64 + 16 + frameBytes calledV 0x2040 ≤ calledV.team.z) ∧
    (Ready retI (clauseOf retI) servedV ∧ servedV.team.crec = some 240 ∧ spillNum servedV.team (240 + 12) 4 = 31 ∧
      ∀ k, ¬ newTarget servedV.team 64 31 k) := by
  refine ⟨⟨⟨rfl, rfl, by decide⟩, rfl⟩, ⟨⟨rfl, rfl, by decide⟩, fun r h => ?_⟩, ⟨⟨rfl, rfl, by decide⟩, by decide⟩, ⟨⟨rfl, rfl, by decide⟩, by decide, by decide,
    by decide, by decide, ⟨by decide, by decide, by decide⟩, by decide, targetOk_fns.2.2, by decide, by decide⟩, ⟨rfl, rfl, by decide⟩, by decide, by decide,
    fun k h => ?_⟩
  · cases h; decide
  · have h1 : k < 8 := h.1.1
    have h2 : 31 < k := h.2.1
    omega
def endI : Instr := .endt (r3 0 0 0)
theorem test_meets_EndOfTeamCompletes :
    Can endI id ∧ (runT endI id).team.mc = 0 ∧ (runT endI id).launch? = none ∧ (runT endI id).team.key ≠ 0 ∧ (runT endI id).blk.key ≠ 0 ∧
      (∀ x ∈ (runT endI id).ten.teams, x.key ≠ 1) ∧ (∀ b ∈ (runT endI id).ten.blocks, b.key ≠ 1) ∧ (runT endI id).core.there = true ∧
      (∀ k ∈ (runT endI id).ten.cores, k.num ≠ (runT endI id).core.num) ∧ ((runT endI id).core.bt.map (·.1)).Pairwise (· < ·) := by
  refine ⟨⟨rfl, rfl, by decide⟩, ?_, ?_, ?_, ?_, ?_, ?_, ?_, ?_, ?_⟩ <;> decide

/-! ### Hypotheses: masks, vectors, floating point, cross-lane -/

theorem test_meets_MaskCountRule :
    ((127 : Byte).toNat < 128 ∧ (18 : Byte).toNat < 19 ∧ (1 : Byte) ≠ 0) ∧
    (Can (.mcnt (r3 127 16 0)) id ∧ ∃ v, MaskCount (runT (.mcnt (r3 127 16 0)) id) (.mcnt (r3 127 16 0)) 127 v) ∧
    (Can (.mfirst (r3 2 16 0)) (fun t => { t with exec := 0x8 }) ∧
      MaskCount (runT (.mfirst (r3 2 16 0)) fun t => { t with exec := 0x8 }) (.mfirst (r3 2 16 0)) 2 3) ∧
    (Can (.mfirst (r3 2 0 0)) id ∧ MaskCount (runT (.mfirst (r3 2 0 0)) id) (.mfirst (r3 2 0 0)) 2 0xFFFFFFFF) ∧
    Can (.mcnt (r3 2 18 0)) id ∧ (runT (.mcnt (r3 2 18 0)) id).team.lanes ≤ 1024 :=
  ⟨by decide, ⟨⟨rfl, rfl, by decide⟩, _, .mcnt _⟩, ⟨⟨rfl, rfl, by decide⟩, .mfirst _ 3 (by decide) (by decide) (by decide)⟩,
    ⟨⟨rfl, rfl, by decide⟩, .mfirstNone _ (by decide)⟩, ⟨rfl, rfl, by decide⟩, by decide⟩

theorem test_meets_MaskWritesComplete :
    (Can (.mand (r3 16 17 18)) id ∧ ∃ P, MaskRule (runT (.mand (r3 16 17 18)) id) (.mand (r3 16 17 18)) 16 P) ∧
    (Can (.mseti (i3 15 0 0 5)) id ∧ ∃ P, MaskRule (runT (.mseti (i3 15 0 0 5)) id) (.mseti (i3 15 0 0 5)) 15 P) ∧
    Can (.exenter (r3 15 16 0)) id ∧ (Can (.mputw (r3 3 128 129)) id ∧ ((runT (.mputw (r3 3 128 129)) id).sval 128).toNat < 1) ∧
    (Can (.mputw (r3 3 129 129)) id ∧ 1 ≤ ((runT (.mputw (r3 3 129 129)) id).sval 129).toNat) ∧
    (Can (.vtom (r3 16 255 0)) id ∧ Granted [255] (runT (.vtom (r3 16 255 0)) id)) ∧ Can (.mgetw (r3 2 17 159)) id :=
  ⟨⟨⟨rfl, rfl, by decide⟩, _, .mand _⟩, ⟨⟨rfl, rfl, by decide⟩, _, .mseti _⟩, ⟨rfl, rfl, by decide⟩, ⟨⟨rfl, rfl, by decide⟩, by decide⟩,
    ⟨⟨rfl, rfl, by decide⟩, by decide⟩, ⟨⟨rfl, rfl, by decide⟩, by unfold Granted; decide⟩, rfl, rfl, by decide⟩

theorem test_meets_PairAdditionRule :
    ((254 : Byte).toNat ≤ 254) ∧ Can (.viadd64 (r3 254 0 1)) id ∧ Granted [254, 255, 0, 1, 1, 2] (runT (.viadd64 (r3 254 0 1)) id) :=
  ⟨by decide, ⟨rfl, rfl, by decide⟩, by unfold Granted; decide⟩

theorem test_meets_VectorResultsComplete :
    (Can (.viadd (r3 255 2 3)) id ∧ (∃ f, Lanes (runT (.viadd (r3 255 2 3)) id) (.viadd (r3 255 2 3)) 255 [255, 2, 3] f) ∧
      Granted [255, 2, 3] (runT (.viadd (r3 255 2 3)) id)) ∧
    (Can (.vbit (x6 1 2 0 0 2 0)) id ∧ Lanes (runT (.vbit (x6 1 2 0 0 2 0)) id) (.vbit (x6 1 2 0 0 2 0)) 1 [1, 2] fun _ => 32) ∧
    (Can (.vbfi (x6 1 2 3 4 0 0)) id ∧ ∃ f, Lanes (runT (.vbfi (x6 1 2 3 4 0 0)) id) (.vbfi (x6 1 2 3 4 0 0)) 1 [1, 2, 3, 4] f) ∧
    (Can (.vshfl (x6 1 2 128 0 3 5)) id ∧ Granted [1, 2] (runT (.vshfl (x6 1 2 128 0 3 5)) id) ∧
      ∀ k, ∃ j, ShuffleFrom (2 ^ 5) k ((runT (.vshfl (x6 1 2 128 0 3 5)) id).sval 128).toNat 3 j) ∧
    Can (.vbcst (x6 1 2 128 0 1 0)) id ∧ Granted [1, 2] (runT (.vbcst (x6 1 2 128 0 1 0)) id) := by
  refine ⟨⟨⟨rfl, rfl, by decide⟩, ⟨_, .viadd _⟩, by unfold Granted; decide⟩, ⟨⟨rfl, rfl, by decide⟩, .vbit _ _ fun k => ?_⟩,
    ⟨⟨rfl, rfl, by decide⟩, fun k => (runT (.vbfi (x6 1 2 3 4 0 0)) id).vreg 4 k, .vbfi _ _ fun k q hq => ?_⟩,
    ⟨⟨rfl, rfl, by decide⟩, by unfold Granted; decide, fun k => ⟨_, .xor⟩⟩, ⟨rfl, rfl, by decide⟩, by unfold Granted; decide⟩
  · have h : (runT (.vbit (x6 1 2 0 0 2 0)) id).vreg 2 k = 0 := by simp [State.vreg, runT, run, team0, Team.heldV]
    show BitResult 2 ((runT (.vbit (x6 1 2 0 0 2 0)) id).vreg 2 k) 32
    rw [h]
    exact ⟨by decide, by simp, fun h => absurd h (by decide)⟩
  · have h : cutWidth ((runT (.vbfi (x6 1 2 3 4 0 0)) id).vreg (3 : Byte).toNat k).toNat (x6 1 2 3 4 0 0).lo8.toNat = 0 := by
      simp [cutWidth, XOps.lo8, x6]
    show _ = ite _ _ _
    rw [if_neg (by dsimp only [x6] at h ⊢; omega)]
    rfl

theorem test_meets_IntegerSumsComplete :
    (Can (.vimad (x6 1 2 3 4 1 0x1000)) id ∧
      (∃ x, IntSum (runT (.vimad (x6 1 2 3 4 1 0x1000)) id) (.vimad (x6 1 2 3 4 1 0x1000)) 1 [1, 2, 3, 4] true false x) ∧
      Granted [1, 2, 3, 4] (runT (.vimad (x6 1 2 3 4 1 0x1000)) id)) ∧
    (Can (.viadds (x6 1 2 3 0 1 0)) id ∧ ∃ x, IntSum (runT (.viadds (x6 1 2 3 0 1 0)) id) (.viadds (x6 1 2 3 0 1 0)) 1 [1, 2, 3] true false x) ∧
    (Can (.viadds (x6 1 2 3 0 2 0)) id ∧ ∃ x, IntSum (runT (.viadds (x6 1 2 3 0 2 0)) id) (.viadds (x6 1 2 3 0 2 0)) 1 [1, 2, 3] true true x) ∧
    Can (.vidot8 (x6 1 2 3 4 3 0)) id ∧ ∃ x, IntSum (runT (.vidot8 (x6 1 2 3 4 3 0)) id) (.vidot8 (x6 1 2 3 4 3 0)) 1 [1, 2, 3, 4] false false x :=
  ⟨⟨⟨rfl, rfl, by decide⟩, ⟨_, .vimad _⟩, by unfold Granted; decide⟩, ⟨⟨rfl, rfl, by decide⟩, _, .viaddsAdd _ (by decide)⟩,
    ⟨⟨rfl, rfl, by decide⟩, _, .viaddsSub _ (by decide)⟩, ⟨rfl, rfl, by decide⟩, _, .vidot8 _⟩

theorem test_meets_FloatArithmeticCompletes :
    Can (.vfma (x6 255 2 3 4 0 0xB800)) id ∧ (∃ g, Floats (runT (.vfma (x6 255 2 3 4 0 0xB800)) id) (.vfma (x6 255 2 3 4 0 0xB800)) (x6 255 2 3 4 0 0xB800)
      [255, 2, 3, 4] g) ∧ Granted [255, 2, 3, 4] (runT (.vfma (x6 255 2 3 4 0 0xB800)) id) :=
  ⟨⟨rfl, rfl, by decide⟩, ⟨_, .vfma _⟩, by unfold Granted; decide⟩

theorem test_meets_MinimumNumberCompletes :
    Can (.vfmin (x6 255 2 3 0 0 0x0C00)) id ∧ Can (.vfmax (x6 255 2 3 0 0 0x0100)) id ∧ Granted [255, 2, 3] (runT (.vfmin (x6 255 2 3 0 0 0x0C00)) id) ∧
      Granted [255, 2, 3] (runT (.vfmax (x6 255 2 3 0 0 0x0100)) id) :=
  ⟨⟨rfl, rfl, by decide⟩, ⟨rfl, rfl, by decide⟩, by unfold Granted; decide, by unfold Granted; decide⟩

theorem test_meets_NarrowResultsComplete :
    (Can (.vhadd (x6 1 2 3 0 0 2)) id ∧ (∃ g, Packed (runT (.vhadd (x6 1 2 3 0 0 2)) id) (.vhadd (x6 1 2 3 0 0 2)) (x6 1 2 3 0 0 2) [1, 2, 3] g) ∧
      Granted [1, 2, 3] (runT (.vhadd (x6 1 2 3 0 0 2)) id)) ∧
    (Can (.vcvt (x6 1 2 0 0 0 0xC0)) id ∧ ∃ p R, Conversions (runT (.vcvt (x6 1 2 0 0 0 0xC0)) id) (.vcvt (x6 1 2 0 0 0 0xC0)) 1 [1, 2] p R) ∧
    (Can (.vcvt (x6 1 2 0 0 0 0x0D)) id ∧ ∃ p R, Conversions (runT (.vcvt (x6 1 2 0 0 0 0x0D)) id) (.vcvt (x6 1 2 0 0 0 0x0D)) 1 [1, 2] p R) ∧
    (Can (.vcvt (x6 1 2 0 0 0 0xCD)) id ∧ ∃ p R, Conversions (runT (.vcvt (x6 1 2 0 0 0 0xCD)) id) (.vcvt (x6 1 2 0 0 0 0xCD)) 1 [1, 2] p R) ∧
    (Can (.vcvtn (x6 1 2 3 0 1 0x33)) id ∧ ∃ p R, Conversions (runT (.vcvtn (x6 1 2 3 0 1 0x33)) id) (.vcvtn (x6 1 2 3 0 1 0x33)) 1 [1, 2, 3] p R) ∧
    (Can (.qddx (r3 1 2 0)) id ∧ (∃ g, Nearest (runT (.qddx (r3 1 2 0)) id) (.qddx (r3 1 2 0)) 1 [1, 2] g) ∧ Granted [1, 2] (runT (.qddx (r3 1 2 0)) id)) ∧
    Can (.vblksc (x6 1 2 0 0 0 10)) id ∧ ∃ p R, Conversions (runT (.vblksc (x6 1 2 0 0 0 10)) id) (.vblksc (x6 1 2 0 0 0 10)) 1 [1, 2] p R :=
  ⟨⟨⟨rfl, rfl, by decide⟩, ⟨_, .vhadd _⟩, by unfold Granted; decide⟩, ⟨⟨rfl, rfl, by decide⟩, _, _, .vcvtFromF32 _ rfl⟩,
    ⟨⟨rfl, rfl, by decide⟩, _, _, .vcvtToF32 _ (by decide) rfl⟩, ⟨⟨rfl, rfl, by decide⟩, _, _, .vcvtInts _ (by decide) (by decide)⟩,
    ⟨⟨rfl, rfl, by decide⟩, _, _, .vcvtn _⟩, ⟨⟨rfl, rfl, by decide⟩, ⟨_, .qddx _⟩, by unfold Granted; decide⟩, ⟨rfl, rfl, by decide⟩, _, _, .vblksc _⟩

theorem test_meets_ComparisonsComplete :
    (Can (.vfcmp (x6 16 2 3 0 7 0)) id ∧ (∃ P, Compares (runT (.vfcmp (x6 16 2 3 0 7 0)) id) (.vfcmp (x6 16 2 3 0 7 0)) 16 [2, 3] P) ∧
      Granted [2, 3] (runT (.vfcmp (x6 16 2 3 0 7 0)) id)) ∧
    Can (.vfclass (x6 3 2 0 1 0 0x00FF)) id ∧ ∃ P, Compares (runT (.vfclass (x6 3 2 0 1 0 0x00FF)) id) (.vfclass (x6 3 2 0 1 0 0x00FF)) 3 [2] P :=
  ⟨⟨⟨rfl, rfl, by decide⟩, ⟨_, .vfcmp _⟩, by unfold Granted; decide⟩, ⟨rfl, rfl, by decide⟩, _, .vfclass _⟩

/-- A team with no active lane. -/
def noLanes (t : Team) : Team := { t with exec := 0 }
theorem test_meets_ReductionsComplete :
    (Can (.vred (x6 127 2 0 0 11 0)) id ∧ Granted [2] (runT (.vred (x6 127 2 0 0 11 0)) id)) ∧
    (Can (.vredsp (x6 1 2 0 0 0 0)) noLanes ∧ Granted [1, 2] (runT (.vredsp (x6 1 2 0 0 0 0)) noLanes) ∧ (runT (.vredsp (x6 1 2 0 0 0 0)) noLanes).active = []) ∧
    Can (.vredsp (x6 1 2 0 0 1 0x2000)) id ∧ Granted [1, 2] (runT (.vredsp (x6 1 2 0 0 1 0x2000)) id) ∧ (runT (.vredsp (x6 1 2 0 0 1 0x2000)) id).active ≠ [] := by
  refine ⟨⟨⟨rfl, rfl, by decide⟩, ?_⟩, ⟨⟨rfl, rfl, by decide⟩, ?_, by decide⟩, ⟨rfl, rfl, by decide⟩, ?_, by decide⟩ <;> (unfold Granted; decide)
theorem test_meets_IntegerReductionIsFold :
    Can (.vred (x6 2 255 0 0 10 0)) id ∧ Granted [255] (runT (.vred (x6 2 255 0 0 10 0)) id) ∧ Can (.vred (x6 2 255 0 0 0 0)) noLanes ∧
      Can (.vred (x6 2 255 0 0 4 0)) id ∧ (runT (.vred (x6 2 255 0 0 4 0)) id).team.lanes ≤ 1024 :=
  ⟨⟨rfl, rfl, by decide⟩, by unfold Granted; decide, ⟨rfl, rfl, by decide⟩, ⟨rfl, rfl, by decide⟩, by decide⟩
theorem test_meets_ScanCompletes :
    Can (.vscan (x6 1 2 0 0 0x31 0xA000)) id ∧ Granted [1, 2] (runT (.vscan (x6 1 2 0 0 0x31 0xA000)) id) := ⟨⟨rfl, rfl, by decide⟩, by unfold Granted; decide⟩
theorem test_meets_RotationAndCompactionComplete :
    Can (.had32 (x6 1 2 210 0 1 0)) id ∧ Granted [1, 2] (runT (.had32 (x6 1 2 210 0 1 0)) id) ∧ Can (.vpackl (x6 1 2 0 127 0 18)) id ∧
      Granted [1, 2] (runT (.vpackl (x6 1 2 0 127 0 18)) id) :=
  ⟨⟨rfl, rfl, by decide⟩, by unfold Granted; decide, ⟨rfl, rfl, by decide⟩, by unfold Granted; decide⟩

/-! ### Hypotheses: local store, scratchpad, sash, spill area, handles, copies -/

/-- Slot 1 bound to entry 0, a buffer of 64 bytes at 0 in the state given. -/
def buf (st : BufSt) (spad : Bool) : BufEntry :=
  { team := 1, blk := 1, slot := 1, spad := spad, base := 0, size := 64, st := st, sealed := st != .filling, drain := false, cur := st == .filling
    sealCur := false, freed := false, asked := false, evt := none, stamp := 0 }
def runB (i : Instr) (e : BufEntry) (f : Team → Team) : State :=
  let s := runT i f
  { s with team := { s.team with h := [(1, some 0)] }, core := { s.core with bt := [(0, some e)] } }
theorem ready_runB {i : Instr} {e : BufEntry} (hd : words i ≤ 100) (hw : i.wf = true) : Ready i (clauseOf i) (runB i e id) := ⟨rfl, hw, hd⟩

theorem noClash {s : State} (h : s.core.bt = []) (w : Nat) (xs : List (Nat × Nat)) : NoClash s w xs := by
  intro n e h'
  rw [h] at h'
  cases h'
def stlI : Instr := .stl (x6 1 2 4 0 0 0)
/-- The last word of the block's local store. -/
def atTop (t : Team) : Team := withS [(4, 4092)] { t with exec := 1 }
theorem test_meets_LocalAccessesComplete_stores :
    Can stlI atTop ∧ (∃ ws, Stores (runT stlI atTop) stlI 4 [2, 1] ((runT stlI atTop).offs (x6 1 2 4 0 0 0) (runT stlI atTop).active) ws) ∧ Granted [2, 1] (runT stlI atTop) ∧ InBounds 4 (runT stlI atTop).blk.lsz [(0, 4092)] ∧ NoClash (runT stlI atTop) 4 [(0, 4092)] ∧
      (∀ j, j < 4 → (runT stlI atTop).lsOpen (4092 + j) = false) ∧ (runT stlI atTop).offs (x6 1 2 4 0 0 0) (runT stlI atTop).active = [(0, 4092)] :=
  ⟨⟨rfl, rfl, by decide⟩, ⟨_, .stl _⟩, by unfold Granted; decide, by unfold InBounds; decide, noClash rfl _ _, by decide, by decide⟩
theorem test_meets_LocalAccessesComplete_loads :
    (Can (.ldl (x6 1 2 4 0 0 0)) atTop ∧ (runT (.ldl (x6 1 2 4 0 0 0)) atTop).team.lc < 63 ∧
      InBounds 4 (runT (.ldl (x6 1 2 4 0 0 0)) atTop).blk.lsz
        ((runT (.ldl (x6 1 2 4 0 0 0)) atTop).active.map fun k => (k, laneOff (runT (.ldl (x6 1 2 4 0 0 0)) atTop) (x6 1 2 4 0 0 0) k))) ∧
    (Can (.sldl (r3 2 4 128)) (withS [(4, 4092)]) ∧ ((runT (.sldl (r3 2 4 128)) (withS [(4, 4092)])).sval 4).toNat + 4 ≤ 4096) ∧
    (Ready (.ldh (x6 2 1 3 0 0 0)) (clauseOf (.ldh (x6 2 1 3 0 0 0))) (runB (.ldh (x6 2 1 3 0 0 0)) (buf .full false) id) ∧
      (runB (.ldh (x6 2 1 3 0 0 0)) (buf .full false) id).slotEntry 1 = some (0, buf .full false) ∧
      InBounds 4 64 ((runB (.ldh (x6 2 1 3 0 0 0)) (buf .full false) id).active.map fun k =>
        (k, ((runB (.ldh (x6 2 1 3 0 0 0)) (buf .full false) id).vreg 3 k).toNat))) :=
  ⟨⟨⟨rfl, rfl, by decide⟩, by decide, by unfold InBounds; decide⟩, ⟨⟨rfl, rfl, by decide⟩, by decide⟩, ⟨rfl, rfl, by decide⟩, by decide,
    by unfold InBounds; decide⟩

def lddI : Instr := .ldd (x6 1 2 4 0 0 0)
theorem test_meets_ScratchpadAndSashComplete_loads :
    (Can lddI (withS [(4, 16777212)]) ∧ Granted [2, 1] (runT lddI (withS [(4, 16777212)])) ∧
      InBounds 4 (runT lddI (withS [(4, 16777212)])).spLimit
        ((runT lddI (withS [(4, 16777212)])).active.map fun k => (k, laneOff (runT lddI (withS [(4, 16777212)])) (x6 1 2 4 0 0 0) k))) ∧
    Ready (.ldh (x6 2 1 3 0 0 0)) (clauseOf (.ldh (x6 2 1 3 0 0 0))) (runB (.ldh (x6 2 1 3 0 0 0)) (buf .draining true) id) ∧
      (runB (.ldh (x6 2 1 3 0 0 0)) (buf .draining true) id).slotEntry 1 = some (0, buf .draining true) :=
  ⟨⟨⟨rfl, rfl, by decide⟩, by unfold Granted; decide, by unfold InBounds; decide⟩, ⟨rfl, rfl, by decide⟩, by decide⟩

/-- Lanes whose pair v2:v3 holds an address in the mapped page, 32 bytes apart. -/
def inPage (t : Team) : Team := withV 2 [0x10000, 0x10020, 0x10040, 0x10060] t
theorem usable_page {s : State} {r w : Bool} {a : Nat} (h : s.ten.pageAt a = some page0) : Usable s r w a :=
  ⟨page0, h, fun _ => rfl, fun _ => rfl, .inl rfl⟩
theorem test_meets_ScratchpadAndSashComplete_records :
    (Can (.std (x6 1 2 4 0 0 0)) id ∧ ∃ rs, Records (runT (.std (x6 1 2 4 0 0 0)) id) (.std (x6 1 2 4 0 0 0)) false rs) ∧
    (Can (.atd (x6 0 2 1 0 0 0)) id ∧ ∃ rs, Records (runT (.atd (x6 0 2 1 0 0 0)) id) (.atd (x6 0 2 1 0 0 0)) false rs) ∧
    (Can (.gatom (x6 2 4 0 0 5 0)) inPage ∧ ∃ rs, Records (runT (.gatom (x6 2 4 0 0 5 0)) inPage) (.gatom (x6 2 4 0 0 5 0)) true rs) ∧
    (Can (.gatom (x6 2 4 0 0 0 3)) inPage ∧ ∃ rs, Records (runT (.gatom (x6 2 4 0 0 0 3)) inPage) (.gatom (x6 2 4 0 0 0 3)) true rs) ∧
    (Can (.cpyout (x6 2 4 0 0 0 2)) inPage ∧ ∃ rs, Records (runT (.cpyout (x6 2 4 0 0 0 2)) inPage) (.cpyout (x6 2 4 0 0 0 2)) true rs) := by
  refine ⟨⟨⟨rfl, rfl, by decide⟩, _, .std _ ?_ ?_ ?_⟩, ⟨⟨rfl, rfl, by decide⟩, _, .atd _ ?_ ?_ ?_⟩, ⟨⟨rfl, rfl, by decide⟩, _, .gatom _ ?_ ?_ ?_ ?_⟩,
    ⟨⟨rfl, rfl, by decide⟩, _, .gatomAdd _ ?_ ?_ ?_ rfl⟩, ⟨⟨rfl, rfl, by decide⟩, _, .cpyout _ ?_ ?_ ?_⟩⟩
  case refine_8 | refine_12 | refine_15 =>
    intro k hk
    have hk : k < 4 := List.mem_range.mp (List.mem_filter.mp hk).1
    interval_cases k <;> first
      | exact ⟨by decide, usable_page (by decide)⟩
      | exact ⟨by decide, usable_page (by decide), by decide⟩
  all_goals first
    | decide
    | (unfold Granted; decide)
    | (unfold InBounds; decide)
/-- A tenant with bin 7, records of four words. -/
def bin7 : BinDesc :=
  { num := 7, entry := 0x10000, thr := 4, rsw := 4, pri := 0, age := 100, vb := 1, ga := 0, gx := 0, lsb := 64, spb := 0, arg := 0, done := 0, ring := 0, cap := 8
    ctx := 0 }
def runBin (i : Instr) : State :=
  let s := runT i (withS [(4, 7)])
  { s with ten := { s.ten with bins := [bin7] } }
theorem test_meets_ScratchpadAndSashComplete_bins :
    (Ready (.binpush (x6 0 2 4 0 0 4)) (clauseOf (.binpush (x6 0 2 4 0 0 4))) (runBin (.binpush (x6 0 2 4 0 0 4))) ∧
      ∃ rs, Records (runBin (.binpush (x6 0 2 4 0 0 4))) (.binpush (x6 0 2 4 0 0 4)) false rs) ∧
    Ready (.binflush (r3 0 4 0)) (clauseOf (.binflush (r3 0 4 0))) (runBin (.binflush (r3 0 4 0))) ∧
      ∃ rs, Records (runBin (.binflush (r3 0 4 0))) (.binflush (r3 0 4 0)) false rs :=
  ⟨⟨⟨rfl, rfl, by decide⟩, _, .binpush _ bin7 (by decide) rfl (by unfold Granted; decide) (by decide) (by decide)⟩, ⟨rfl, rfl, by decide⟩, _,
    .binflush _ bin7 (by decide) (by decide)⟩

theorem test_meets_SpillAndFillComplete :
    (Can (.spill (x6 1 4 0 8 0 0)) (withS [(4, 0)]) ∧ 0 + 8 * unitOf (runT (.spill (x6 1 4 0 8 0 0)) (withS [(4, 0)])).team 0 ≤ 1024 ∧
      Granted (span 1 8) (runT (.spill (x6 1 4 0 8 0 0)) (withS [(4, 0)]))) ∧
    (Can (.spill (x6 0 4 0 128 1 0)) (withS [(4, 512)]) ∧ frameAt (runT (.spill (x6 0 4 0 128 1 0)) (withS [(4, 512)])).team + 512 + 128 * 4 ≤ 1024) ∧
    (Can (.spill (x6 18 4 0 1 2 0)) (withS [(4, 1020)]) ∧ 1020 + 1 * unitOf (runT (.spill (x6 18 4 0 1 2 0)) (withS [(4, 1020)])).team 2 ≤ 1024) ∧
    Can (.fill (x6 16 4 0 1 2 0)) (withS [(4, 1020)]) ∧ (runT (.fill (x6 16 4 0 1 2 0)) (withS [(4, 1020)])).team.lc < 63 :=
  ⟨⟨⟨rfl, rfl, by decide⟩, by decide, by unfold Granted; decide⟩, ⟨⟨rfl, rfl, by decide⟩, by decide⟩, ⟨⟨rfl, rfl, by decide⟩, by decide⟩, ⟨rfl, rfl, by decide⟩,
    by decide⟩

def atlI : Instr := .atl (x6 3 2 1 0 0 0x0080)
def lane0 (t : Team) : Team := { t with exec := 1 }
theorem test_meets_LocalAtomicsComplete :
    Can atlI lane0 ∧ (runT atlI lane0).team.ac < 63 ∧ Granted [2, 3, 1] (runT atlI lane0) ∧ InBounds 4 (runT atlI lane0).blk.lsz ((runT atlI lane0).offsA (x6 3 2 1 0 0 0x80)) ∧
      NoClash (runT atlI lane0) 4 ((runT atlI lane0).offsA (x6 3 2 1 0 0 0x80)) ∧ (runT atlI lane0).active = [0] ∧
      (∀ p ∈ (runT atlI lane0).offsA (x6 3 2 1 0 0 0x80), ∀ j, j < 4 → (runT atlI lane0).lsOpen (p.2 + j) = false) ∧
      Granted ((x6 3 2 1 0 0 0x80).a.toNat :: ((if (x6 3 2 1 0 0 0x80).ret then atomGroup (x6 3 2 1 0 0 0x80) 3 else []) ++
        atomGroup (x6 3 2 1 0 0 0x80) 1 ++ casGroup (x6 3 2 1 0 0 0x80) 0)) (runT atlI lane0) :=
  ⟨⟨rfl, rfl, by decide⟩, by decide, by unfold Granted; decide, by unfold InBounds; decide, noClash rfl _ _, by decide, by decide, by unfold Granted; decide⟩

theorem test_meets_HandlesComplete :
    (Can (.hopen (x6 15 128 4 5 0 3)) (withS [(4, 32)]) ∧ (runT (.hopen (x6 15 128 4 5 0 3)) (withS [(4, 32)])).slotEntry 15 = none ∧
      (runT (.hopen (x6 15 128 4 5 0 3)) (withS [(4, 32)])).freeEntry = some 0 ∧ 0 + 32 ≤ (runT (.hopen (x6 15 128 4 5 0 3)) (withS [(4, 32)])).spLimit) ∧
    (Ready (.hseal (r3 1 0 0)) (clauseOf (.hseal (r3 1 0 0))) (runB (.hseal (r3 1 0 0)) (buf .filling false) id) ∧
      (runB (.hseal (r3 1 0 0)) (buf .filling false) id).slotEntry 1 = some (0, buf .filling false)) ∧
    (Ready (.hfree (r3 1 0 0)) (clauseOf (.hfree (r3 1 0 0))) (runB (.hfree (r3 1 0 0)) (buf .draining false) id) ∧
      (runB (.hfree (r3 1 0 0)) (buf .draining false) id).slotEntry 1 = some (0, buf .draining false)) :=
  ⟨⟨⟨rfl, rfl, by decide⟩, by decide, by decide, by decide⟩, ⟨⟨rfl, rfl, by decide⟩, by decide⟩, ⟨rfl, rfl, by decide⟩, by decide⟩

theorem test_meets_HandleWaitsAndEventsComplete :
    (Ready (.hwaitFull (r3 1 0 0)) (clauseOf (.hwaitFull (r3 1 0 0))) (runB (.hwaitFull (r3 1 0 0)) (buf .filling false) id) ∧
      (runB (.hwaitFull (r3 1 0 0)) (buf .filling false) id).slotEntry 1 ≠ none) ∧
    Can (.hwaitIdle (r3 1 0 1)) id ∧ Can (.hstat (r3 2 1 0)) id ∧
    (Ready (.hstat (r3 2 1 0)) (clauseOf (.hstat (r3 2 1 0))) (runB (.hstat (r3 2 1 0)) (buf .full true) id) ∧
      (runB (.hstat (r3 2 1 0)) (buf .full true) id).slotEntry 1 = some (0, buf .full true)) ∧
    Can (.evpop (r3 126 0 0)) id ∧ (runT (.evpop (r3 126 0 0)) id).team.tc < 63 :=
  ⟨⟨⟨rfl, rfl, by decide⟩, by decide⟩, ⟨rfl, rfl, by decide⟩, ⟨rfl, rfl, by decide⟩, ⟨⟨rfl, rfl, by decide⟩, by decide⟩, ⟨rfl, rfl, by decide⟩, by decide⟩

/-- A layout record at 64 of the local store: base 0x1_0000, one dimension, elements of 4 bytes, a tile of 4 of an extent of 4. -/
def tileRec : List Byte := leBytes 8 0x10000 ++ leBytes 4 0x12 ++ [3, 0, 0, 0] ++ leBytes 4 4 ++ leBytes 4 1 ++ leBytes 4 1 ++ leBytes 4 1 ++ leBytes 32 0
def theTile : Tile := { base := 0x10000, dims := 1, mir := false, esz := 4, tile := [3, 0, 0, 0], ext := [4, 1, 1, 1], str := [0, 0, 0, 0] }
def runTile (i : Instr) (e : BufEntry) : State :=
  let s := runB i e (withS [(4, 64)])
  { s with blk := { s.blk with ls := ({} : Space).inits 64 tileRec } }
def tinI : Instr := .tcpyin (x6 1 4 8 128 0 0)
def toutI : Instr := .tcpyout (x6 1 4 8 128 0 0)
def cinI : Instr := .cpyin (x6 1 6 2 0 0 2)
def coutI : Instr := .cpyoutH (x6 2 1 6 0 1 2)
theorem tile_in_page {s : State} {o : XOps} {out : Bool} (h : (s.tileBytes o out).all (fun b => s.ten.pageAt b.1 == some page0) = true) (r w : Bool) :
    ∀ b ∈ s.tileBytes o out, Usable s r w b.1 := fun b hb => usable_page (by simpa using List.all_eq_true.mp h b hb)
theorem test_meets_CopiesComplete :
    (Ready cinI (clauseOf cinI) (runB cinI (buf .filling false) inPage) ∧ CanFill (runB cinI (buf .filling false) inPage) 1 0 (buf .filling false) ∧
      Granted [6, 2, 3] (runB cinI (buf .filling false) inPage) ∧ CopyLanesOk (runB cinI (buf .filling false) inPage) 16 64 2 6 false ∧
      (runB cinI (buf .filling false) inPage).ten.linesInFlight 0 + linesOf ((runB cinI (buf .filling false) inPage).active.map
        ((runB cinI (buf .filling false) inPage).vaddr 2)) ≤ 1024) ∧
    (Ready coutI (clauseOf coutI) (runB coutI (buf .full false) inPage) ∧ IsFull (runB coutI (buf .full false) inPage) 1 0 (buf .full false) ∧
      CopyLanesOk (runB coutI (buf .full false) inPage) 16 64 2 6 true ∧ (runB coutI (buf .full false) inPage).team.recCount < 256) ∧
    (Ready tinI (clauseOf tinI) (runTile tinI (buf .filling false)) ∧ CanFill (runTile tinI (buf .filling false)) 1 0 (buf .filling false) ∧
      TileOk (runTile tinI (buf .filling false)) (x6 1 4 8 128 0 0) 64 theTile false) ∧
    (Ready toutI (clauseOf toutI) (runTile toutI (buf .full false)) ∧ IsFull (runTile toutI (buf .full false)) 1 0 (buf .full false) ∧
      TileOk (runTile toutI (buf .full false)) (x6 1 4 8 128 0 0) 64 theTile true ∧ (runTile toutI (buf .full false)).team.recCount < 256) := by
  refine ⟨⟨⟨rfl, rfl, by decide⟩, ⟨by decide, rfl, rfl, rfl⟩, by unfold Granted; decide, ?_, by decide⟩,
    ⟨⟨rfl, rfl, by decide⟩, ⟨by decide, rfl⟩, ?_, by decide⟩,
    ⟨⟨rfl, rfl, by decide⟩, ⟨by decide, rfl, rfl, rfl⟩, by decide, by decide, by decide, by decide, by decide, tile_in_page (by decide) _ _⟩,
    ⟨⟨rfl, rfl, by decide⟩, ⟨by decide, rfl⟩, ⟨by decide, by decide, by decide, by decide, by decide, tile_in_page (by decide) _ _⟩, by decide⟩⟩
  all_goals
    intro k hk
    have hk : k < 4 := List.mem_range.mp (List.mem_filter.mp hk).1
    interval_cases k <;> exact ⟨by decide, by decide, by decide, usable_page (by decide)⟩

/-! ### Hypotheses met: boundaries, traps, services, matrix, engines, tables (10 to 13, 17, 18) -/

/-- A team with a SYSTEM-scope boundary in a gang launch that is decided. -/
def runGang (i : Instr) : State :=
  let s := runT i id
  let g : Gang := { id := 1, nmem := 2, rank := 0, tmo := 100, addrs := [], got := [0, 1], decided := some true, sent := true }
  { s with ten := { s.ten with launches := [{ launch0 with gang := some g }] } }
theorem mayClose_run (i : Instr) (f : Team → Team) (n : Nat) (h : (runT i f).team.mc = 0) : MayClose (runT i f) n :=
  ⟨h, fun _ l _ hl => absurd (show (none : Option Launch) = some l from hl) nofun⟩
theorem test_meets_BoundariesComplete :
    (Can (.yield_ (i3 3 0 0 0)) id ∧ MayClose (runT (.yield_ (i3 3 0 0 0)) id) 3) ∧ (Can (.yield_ (i3 4 0 0 9)) id ∧ MayClose (runGang (.yield_ (i3 4 0 0 9))) 4) ∧
    (Can (.bar (r3 1 0 0)) id ∧ MayClose (runT (.bar (r3 1 0 0)) id) 1) := by
  refine ⟨⟨⟨rfl, rfl, by decide⟩, mayClose_run _ _ _ rfl⟩, ⟨⟨rfl, rfl, by decide⟩, rfl, fun _ l g hl hg => ?_⟩, ⟨rfl, rfl, by decide⟩, mayClose_run _ _ _ rfl⟩
  cases hl; cases hg; rfl

def atdI : Instr := .atdR (x6 3 2 1 0 0 0x80)
def gatI : Instr := .gatomr (x6 8 2 6 0 0 0)
theorem test_meets_ReturningAtomicsComplete :
    (Can atdI id ∧ (runT atdI id).team.ac < 63 ∧ MayClose (runT atdI id) (x6 3 2 1 0 0 0x80).scope8.toNat ∧
      Granted (atomGroup (x6 3 2 1 0 0 0x80) 3 ++ 2 :: (atomGroup (x6 3 2 1 0 0 0x80) 1 ++ casGroup (x6 3 2 1 0 0 0x80) 0)) (runT atdI id) ∧
      InBounds (atomBytes (x6 3 2 1 0 0 0x80).loNib.toNat) (runT atdI id).spLimit ((runT atdI id).offsA (x6 3 2 1 0 0 0x80))) ∧
    (Can gatI inPage ∧ (runT gatI inPage).team.ac < 63 ∧ MayClose (runT gatI inPage) (x6 8 2 6 0 0 0).scope8.toNat ∧
      Granted (atomGroup (x6 8 2 6 0 0 0) 8 ++ [2, 3] ++ atomGroup (x6 8 2 6 0 0 0) 6 ++ casGroup (x6 8 2 6 0 0 0) 0) (runT gatI inPage) ∧
      ∀ k ∈ (runT gatI inPage).active, (runT gatI inPage).vaddr 2 k % atomBytes (x6 8 2 6 0 0 0).loNib.toNat = 0 ∧
        Usable (runT gatI inPage) true true ((runT gatI inPage).vaddr 2 k)) := by
  refine ⟨⟨⟨rfl, rfl, by decide⟩, by decide, mayClose_run _ _ _ rfl, by unfold Granted; decide, by unfold InBounds; decide⟩, ⟨rfl, rfl, by decide⟩, by decide,
    mayClose_run _ _ _ rfl, by unfold Granted; decide, fun k hk => ?_⟩
  have hk : k < 4 := List.mem_range.mp (List.mem_filter.mp hk).1
  interval_cases k <;> exact ⟨by decide, usable_page (by decide)⟩

theorem test_meets_TrapEntryRule :
    ((runH endI id).team.priv = false ∧ (runH endI id).handler ≠ 0) ∧ (runT endI inHandler).team.priv = true ∧ (runT endI id).handler = 0 :=
  ⟨⟨rfl, by decide⟩, rfl, rfl⟩

theorem test_meets_TrapsAndReturnComplete :
    (Ready (.trap (r3 255 0 0)) (clauseOf (.trap (r3 255 0 0))) (runH (.trap (r3 255 0 0)) id) ∧ (runH (.trap (r3 255 0 0)) id).team.priv = false ∧
      (runH (.trap (r3 255 0 0)) id).handler ≠ 0) ∧
    (Ready (.brk (r3 0 0 0)) (clauseOf (.brk (r3 0 0 0))) (runH (.brk (r3 0 0 0)) id) ∧ (runH (.brk (r3 0 0 0)) id).handler ≠ 0) ∧
    (Can (.eret (r3 0 0 0)) inHandler ∧ (runT (.eret (r3 0 0 0)) inHandler).team.priv = true ∧ MayClose (runT (.eret (r3 0 0 0)) inHandler) 4) ∧
    Can (.eret (r3 0 0 0)) id ∧ (runT (.eret (r3 0 0 0)) id).team.priv = false :=
  ⟨⟨⟨rfl, rfl, by decide⟩, rfl, by decide⟩, ⟨⟨rfl, rfl, by decide⟩, by decide⟩, ⟨⟨rfl, rfl, by decide⟩, rfl, mayClose_run _ _ _ rfl⟩, ⟨rfl, rfl, by decide⟩, rfl⟩

theorem test_meets_PrivilegeIsChecked_control :
    (Can (.prd (r3 2 133 0)) id ∧ ((runT (.prd (r3 2 133 0)) id).sval 133).toNat = 5) ∧ (Can (.pwr (r3 0 132 133)) id ∧
      ((runT (.pwr (r3 0 132 133)) id).sval 132).toNat = 4 ∧ ((runT (.pwr (r3 0 132 133)) id).sval 133).toNat ≤ 5) ∧
    (Can (.pwr (r3 0 131 133)) id ∧ ((runT (.pwr (r3 0 131 133)) id).sval 131).toNat = 3) ∧
    Can (.ldovt (r3 0 170 0)) id ∧ ((runT (.ldovt (r3 0 170 0)) id).sval 170).toNat < 256 ∧
      (∀ k, k < 4 → ((runT (.ldovt (r3 0 170 0)) id).sval 170).toNat / 4 ^ k % 4 ≠ 3) :=
  ⟨⟨⟨rfl, rfl, by decide⟩, by decide⟩, ⟨⟨rfl, rfl, by decide⟩, by decide, by decide⟩, ⟨⟨rfl, rfl, by decide⟩, by decide⟩, ⟨rfl, rfl, by decide⟩, by decide,
    by decide⟩

theorem test_meets_ServicesAndControlComplete :
    (Can (.sysc (x6 2 4 5 0 0 0)) id ∧ MayClose (runT (.sysc (x6 2 4 5 0 0 0)) id) 4) ∧
    (Can (.sysc (x6 2 4 5 255 255 1)) id ∧ MayClose (runT (.sysc (x6 2 4 5 255 255 1)) id) 4 ∧ Granted [255] (runT (.sysc (x6 2 4 5 255 255 1)) id)) ∧
    (Can (.ldovt (r3 0 128 0)) inHandler ∧ (runT (.ldovt (r3 0 128 0)) inHandler).team.priv = true ∧
      ((runT (.ldovt (r3 0 128 0)) inHandler).sval 128).toNat = 0) ∧
    (Can (.prd (r3 2 128 0)) inHandler ∧ ((runT (.prd (r3 2 128 0)) inHandler).sval 128).toNat = 0) ∧
    (Can (.prd (r3 2 133 0)) inHandler ∧ ((runT (.prd (r3 2 133 0)) inHandler).sval 133).toNat = 5) ∧
    (Can (.pwr (r3 0 132 133)) inHandler ∧ ((runT (.pwr (r3 0 132 133)) inHandler).sval 132).toNat = 4 ∧
      ((runT (.pwr (r3 0 132 133)) inHandler).sval 133).toNat = 5) ∧
    Can (.pwr (r3 0 131 191)) inHandler ∧ ((runT (.pwr (r3 0 131 191)) inHandler).sval 131).toNat = 3 :=
  ⟨⟨⟨rfl, rfl, by decide⟩, mayClose_run _ _ _ rfl⟩, ⟨⟨rfl, rfl, by decide⟩, mayClose_run _ _ _ rfl, by unfold Granted; decide⟩,
    ⟨⟨rfl, rfl, by decide⟩, rfl, by decide⟩, ⟨⟨rfl, rfl, by decide⟩, by decide⟩, ⟨⟨rfl, rfl, by decide⟩, by decide⟩,
    ⟨⟨rfl, rfl, by decide⟩, by decide, by decide⟩, ⟨rfl, rfl, by decide⟩, by decide⟩

/-- A FULL buffer of `n` bytes behind handle 1. -/
def bufN (n : Nat) : BufEntry := { buf .full true with size := n }
/-- The instruction is ready and meets the checks of its form. -/
def MatOk (i : Instr) (s : State) : Prop := Ready i (clauseOf i) s ∧ s.team.mc < 63 ∧ ∃ vs sc e, MatForms s i vs sc e
theorem test_meets_MatrixIssueCompletes :
    MatOk (.mldb (x6 0 1 4 0 5 1)) (runB (.mldb (x6 0 1 4 0 5 1)) (bufN 98304) id) ∧
    MatOk (.mma (x6 7 0 1 63 8 1)) (runB (.mma (x6 7 0 1 63 8 1)) (bufN (396 * 64)) id) ∧
    MatOk (.moutl (x6 0 0 1 132 0 0)) (runB (.moutl (x6 0 0 1 132 0 0)) (bufN 32) id) ∧
    MatOk (.mrd (x6 16 0 4 5 0 0)) (runT (.mrd (x6 16 0 4 5 0 0)) (withS [(4, 255)])) ∧
    MatOk (.mzero (r3 7 0 0)) (runT (.mzero (r3 7 0 0)) id) ∧ MatOk (.xldb (x6 0 255 4 0 0 0)) (runT (.xldb (x6 0 255 4 0 0 0)) id) ∧
    MatOk (.xcmp (x6 7 0 1 0 0 0)) (runT (.xcmp (x6 7 0 1 0 0 0)) id) ∧ MatOk (.xrow (x6 255 7 0 0 0 0)) (runT (.xrow (x6 255 7 0 0 0 0)) id) ∧
    MatOk (.xcol (x6 0 7 0 0 0 0)) (runT (.xcol (x6 0 7 0 0 0 0)) id) ∧ MatOk (.xclos (x6 0 7 0 0 0 0)) (runT (.xclos (x6 0 7 0 0 0 0)) id) ∧
    MatOk (.xcomp (r3 0 1 7)) (runT (.xcomp (r3 0 1 7)) id) ∧ MatOk (.xtrn (r3 0 7 0)) (runT (.xtrn (r3 0 7 0)) id) ∧
    MatOk (.xlog (x6 0 1 7 0 0 0)) (runT (.xlog (x6 0 1 7 0 0 0)) id) ∧ MatOk (.xset (x6 7 0 0 0 0 0)) (runT (.xset (x6 7 0 0 0 0 0)) id) ∧
    MatOk (.xmov (x6 254 7 0 0 0 0)) (runT (.xmov (x6 254 7 0 0 0 0)) id) ∧ MatOk (.xmov (x6 7 254 0 0 1 0)) (runT (.xmov (x6 7 254 0 0 1 0)) id) ∧
    Can (.mfence (r3 0 0 0)) id := by
  refine ⟨⟨⟨rfl, rfl, by decide⟩, by decide, _, _, _, .mldb _ _ ⟨_, rfl, .inl rfl, by decide⟩⟩,
    ⟨⟨rfl, rfl, by decide⟩, by decide, _, _, _, .mma _ _ ?_ ⟨_, rfl, .inl rfl, by decide⟩⟩,
    ⟨⟨rfl, rfl, by decide⟩, by decide, _, _, _, .moutl _ _ ?_ ⟨_, rfl, .inl rfl, by decide⟩⟩,
    ⟨⟨rfl, rfl, by decide⟩, by decide, _, _, _, .mrd _ ?_ (by decide)⟩, ⟨⟨rfl, rfl, by decide⟩, by decide, _, _, _, .mzero _ ?_⟩,
    ⟨⟨rfl, rfl, by decide⟩, by decide, _, _, _, .xldb _ ?_⟩, ⟨⟨rfl, rfl, by decide⟩, by decide, _, _, _, .xcmp _ ?_⟩,
    ⟨⟨rfl, rfl, by decide⟩, by decide, _, _, _, .xrow _ ?_⟩, ⟨⟨rfl, rfl, by decide⟩, by decide, _, _, _, .xcol _ ?_⟩,
    ⟨⟨rfl, rfl, by decide⟩, by decide, _, _, _, .xclos _ ?_⟩, ⟨⟨rfl, rfl, by decide⟩, by decide, _, _, _, .xcomp _ ?_⟩,
    ⟨⟨rfl, rfl, by decide⟩, by decide, _, _, _, .xtrn _ ?_⟩, ⟨⟨rfl, rfl, by decide⟩, by decide, _, _, _, .xlog _ ?_⟩,
    ⟨⟨rfl, rfl, by decide⟩, by decide, _, _, _, .xset _ ?_⟩, ⟨⟨rfl, rfl, by decide⟩, by decide, _, _, _, .xmov _ rfl ?_⟩,
    ⟨⟨rfl, rfl, by decide⟩, by decide, _, _, _, .xmovTo _ ?_ ?_⟩, ⟨rfl, rfl, by decide⟩⟩
  all_goals first
    | decide
    | (unfold GrantedAll; decide)

/-- A pair of scalars s4:s5 with address `a` (descriptor) and s6:s7 with address `b`. -/
def pairs (a b : Word) (t : Team) : Team := inPage (withS [(4, a), (5, 0), (6, b), (7, 0)] t)
/-- Memory that holds, from 0x1_0040, the descriptor of a hash grid of two dimensions and one level of 16 entries of two features. -/
def hgBytes : List Byte := leBytes 64 0x20 ++ leBytes 8 0x10200 ++ leBytes 4 1 ++ leBytes 4 4
def runHg (i : Instr) (f : Team → Team) : State :=
  let s := runT i f
  { s with ten := { s.ten with main := ({} : Space).inits 0x10040 hgBytes } }
def texI : Instr := .tex (x6 10 2 4 0 0 0)
def texldI : Instr := .texld (x6 10 2 4 0 0 0)
def hgfI : Instr := .hgf (x6 20 2 4 0 0 1)
def hgsI : Instr := .hgs (x6 20 2 4 6 0 1)
def traceI : Instr := .trace (x6 16 2 4 0 0 0)
def rndI : Instr := .rnd (x6 9 2 4 0 1 1)

/-- A descriptor that could be read and is well formed; one that could not, or is not. -/
def isOk (d : Desc) : Bool := match d with | .ok _ _ => true | _ => false
def isBad (d : Desc) : Bool := match d with | .bad _ => true | _ => false
theorem isOk_eq {d : Desc} (h : isOk d = true) : d ≠ .wait ∧ d ≠ .poisoned ∧ ∃ bs u, d = .ok bs u := by cases d <;> simp [isOk] at *
theorem isBad_eq {d : Desc} (h : isBad d = true) : d ≠ .wait ∧ d ≠ .poisoned ∧ ∃ u, d = .bad u := by cases d <;> simp [isBad] at *
/-- Every byte of the sums lies in the mapped page. -/
def sumsFine (s : State) (o : XOps) (d : Desc) : Bool :=
  match d with
  | .ok bs u => s.hgSums o (.ok bs u) != [] && (s.hgSums o (.ok bs u)).all fun x => (List.range 4).all fun j =>
      s.ten.pageAt ((x.1 + j) % 2 ^ 56) == some page0 && !s.ten.remote ((x.1 + j) % 2 ^ 56)
  | _ => false
def zeroAt (t : Team) : Team := pairs 0x10040 0x10000 { t with exec := 1 }
theorem hgs_fine : sumsFine (runHg hgsI zeroAt) (x6 20 2 4 6 0 1) ((runHg hgsI zeroAt).hgDesc (x6 20 2 4 6 0 1)) = true := by decide
theorem test_meets_EnginesComplete :
    (Can texI (pairs 0x10080 0) ∧ (runT texI (pairs 0x10080 0)).team.xc < 63 ∧ ∃ ds ms P src, EngineForms (runT texI (pairs 0x10080 0)) texI ds ms P src) ∧
    (Can texldI (pairs 0x10000 0) ∧ ∃ ds ms P src, EngineForms (runT texldI (pairs 0x10000 0)) texldI ds ms P src) ∧
    (Ready hgfI (clauseOf hgfI) (runHg hgfI (pairs 0x10040 0)) ∧ (∃ bs u, (runHg hgfI (pairs 0x10040 0)).hgDesc (x6 20 2 4 0 0 1) = .ok bs u) ∧
      ∃ ds ms P src, EngineForms (runHg hgfI (pairs 0x10040 0)) hgfI ds ms P src) ∧
    (Can traceI (pairs 0x10000 0) ∧ ∃ ds ms P src, EngineForms (runT traceI (pairs 0x10000 0)) traceI ds ms P src) ∧
    (Can rndI id ∧ Granted [9, 2] (runT rndI id)) ∧
    (Ready hgsI (clauseOf hgsI) (runHg hgsI zeroAt) ∧ Granted (span 20 2 ++ span 2 2) (runHg hgsI zeroAt) ∧
      ((runHg hgsI zeroAt).pairVA 6).toNat % 64 = 0 ∧ ∃ bs u, (runHg hgsI zeroAt).hgDesc (x6 20 2 4 6 0 1) = .ok bs u ∧
        (runHg hgsI zeroAt).hgSums (x6 20 2 4 6 0 1) (.ok bs u) ≠ [] ∧
        ∀ x ∈ (runHg hgsI zeroAt).hgSums (x6 20 2 4 6 0 1) (.ok bs u), ∀ j, j < 4 →
          Usable (runHg hgsI zeroAt) false true ((x.1 + j) % 2 ^ 56) ∧ (runHg hgsI zeroAt).ten.remote ((x.1 + j) % 2 ^ 56) = false) ∧
    (Can hgsI (pairs 0x100 0) ∧ ∃ u, (runT hgsI (pairs 0x100 0)).hgDesc (x6 20 2 4 6 0 1) = .bad u) := by
  have hg : isOk ((runHg hgfI (pairs 0x10040 0)).hgDesc (x6 20 2 4 0 0 1)) = true := by decide
  have tx : isBad ((runT texI (pairs 0x10080 0)).texDesc (x6 10 2 4 0 0 0)) = true := by decide
  have tl : isOk ((runT texldI (pairs 0x10000 0)).texDesc (x6 10 2 4 0 0 0)) = true := by decide
  have hs : isBad ((runT hgsI (pairs 0x100 0)).hgDesc (x6 20 2 4 6 0 1)) = true := by decide
  refine ⟨⟨⟨rfl, rfl, by decide⟩, by decide, _, _, _, _, .tex _ (by unfold Granted; decide) (isBad_eq tx).1 (isBad_eq tx).2.1⟩,
    ⟨⟨rfl, rfl, by decide⟩, _, _, _, _, .texld _ (by unfold Granted; decide) (isOk_eq tl).1 (isOk_eq tl).2.1⟩,
    ⟨⟨rfl, rfl, by decide⟩, (isOk_eq hg).2.2, _, _, _, _, .hgf _ (by unfold Granted; decide) (isOk_eq hg).1 (isOk_eq hg).2.1⟩,
    ⟨⟨rfl, rfl, by decide⟩, _, _, _, _, .trace _ (by unfold Granted; decide)⟩, ⟨⟨rfl, rfl, by decide⟩, by unfold Granted; decide⟩,
    ⟨⟨rfl, rfl, by decide⟩, by unfold Granted; decide, by decide, ?_⟩, ⟨⟨rfl, rfl, by decide⟩, (isBad_eq hs).2.2⟩⟩
  have h := hgs_fine
  revert h; unfold sumsFine; split
  · next bs u hd =>
    intro h
    rw [Bool.and_eq_true] at h
    refine ⟨bs, u, hd, by simpa using h.1, fun x hx j hj => ?_⟩
    have := List.all_eq_true.mp (List.all_eq_true.mp h.2 x hx) j (List.mem_range.mpr hj)
    simp only [Bool.and_eq_true, beq_iff_eq, Bool.not_eq_true'] at this
    exact ⟨usable_page this.1, this.2⟩
  · exact nofun

/-- World 3 with a pool of one page's bytes, types of one word; the team's launch has pinned it. -/
def world3 : World :=
  { num := 3, pool := 0x10000, poolsz := 0x4000, cap := 64, qcap := 16, types := [(1, 1), (255, 64)], report := 0, dir0 := 0x10000, w := {}, p := {}, d := none, q := []
    dropped := 0 }
def runW (i : Instr) (f : Team → Team) : State :=
  let s := runT i f
  { s with ten := { s.ten with worlds := [world3], launches := [{ launch0 with pins := [(3, 0)] }] } }
/-- A selector in s4. -/
def sel (x : Word) (t : Team) : Team := withS [(4, x)] t
/-- Lane 0 names an object of world 3, lane 1 one of world 2. -/
def handles (x : Word) (t : Team) : Team := sel x (withV 3 [0x03000000, 0x02000000] t)
def tresI : Instr := .tres (x6 10 2 4 0 0 0)
def tresD : Instr := .tres (x6 10 2 4 0 1 0)
def tviewI : Instr := .tview (x6 10 2 4 6 2 0)
def tqnewI : Instr := .tqnew (x6 10 0 4 0 0 0)
def tqdelI : Instr := .tqdel (x6 0 2 4 0 0 0)
def tqaddI : Instr := .tqadd (x6 128 2 4 0 0 63)
def tqremI : Instr := .tqrem (x6 0 2 4 0 0 0)
theorem usable_plain {s : State} {a : Nat} (h : s.ten.pageAt a = some page0) (hp : s.ten.poison = []) : Plain s a :=
  ⟨usable_page h, by simp [Tenant.remote, h, page0], by simp [Tenant.poisoned, hp]⟩
/-- An address in the one page. -/
theorem pageAt_page0 {t : Tenant} (hp : t.pages = [page0]) (hg : t.stage2 = [stage0]) {a : Nat} (h1 : 0x10000 ≤ a) (h2 : a < 0x20000) :
    t.pageAt a = some page0 := by
  have e : inside page0.va page0.size a = true := Bool.and_eq_true _ _ ▸ ⟨decide_eq_true (show 0x10000 ≤ a from h1), decide_eq_true h2⟩
  have e2 : inside stage0.gpa stage0.size (page0.gpa + (a - page0.va)) = true :=
    Bool.and_eq_true _ _ ▸ ⟨decide_eq_true (show 0x10000 ≤ 0x10000 + (a - 0x10000) by omega), decide_eq_true (show 0x10000 + (a - 0x10000) < 0x20000 by omega)⟩
  have e3 : a / 0x10000 = 1 := by omega
  have e4 : page0.through stage0 a = page0 := by
    simp only [Page.through, page0, stage0, Nat.min_self, e3, Nat.one_mul, Nat.sub_self, Nat.add_zero, Bool.and_self]
  rw [Tenant.pageAt, hp, List.find?_cons_of_pos (p := fun p : Page => inside p.va p.size a) e, Option.bind_some, Tenant.stage2At, hg, 
    List.find?_cons_of_pos (p := fun g : Stage2 => inside g.gpa g.size (page0.gpa + (a - page0.va))) e2, Option.map_some, e4]
theorem missing_none {t : Tenant} (h : ∀ p ∈ t.pages, p.absent = false) (vas : List Nat) : t.missing vas = [] := by
  unfold Tenant.missing
  rw [List.filter_eq_nil_iff.mpr fun p hp => by rw [h p hp]; simp]
  rfl
theorem test_meets_TablesComplete :
    (Ready tresI (clauseOf tresI) (runW tresI (sel 0x3FF)) ∧ (runW tresI (sel 0x3FF)).team.tc < 63 ∧ ∃ ds sc src, TableForms (runW tresI (sel 0x3FF)) tresI ds sc src) ∧
    (Ready tresD (clauseOf tresD) (runW tresD (sel 0x300)) ∧ ∃ ds sc src, TableForms (runW tresD (sel 0x300)) tresD ds sc src) ∧
    (Ready tviewI (clauseOf tviewI) (runW tviewI (sel 0x301)) ∧ ∃ ds sc src, TableForms (runW tviewI (sel 0x301)) tviewI ds sc src) ∧
    (Ready tqnewI (clauseOf tqnewI) (runW tqnewI (sel 0x300)) ∧ (runW tqnewI (sel 0x300)).selector ((runW tqnewI (sel 0x300)).sval 4) false = some (world3, 0) ∧
      (runW tqnewI (sel 0x300)).team.tc < 63 ∧ Granted (span 10 2) (runW tqnewI (sel 0x300)) ∧ (runW tqnewI (sel 0x300)).team.recCount < 256 ∧ world3.pool % 65536 = 0 ∧
      (∀ a, world3.pool ≤ a → a < world3.pool + world3.poolsz → Plain (runW tqnewI (sel 0x300)) a) ∧
      ∀ k, k = 0 ∨ 64 * k < world3.cap → world3.pool ≤ world3.dirVA world3.w k ∧ world3.dirVA world3.w k + 3072 ≤ world3.pool + world3.poolsz) ∧
    (Ready tqdelI (clauseOf tqdelI) (runW tqdelI (handles 0x300)) ∧ (runW tqdelI (handles 0x300)).team.recCount < 256 ∧
      (∃ k ∈ (runW tqdelI (handles 0x300)).active, ((runW tqdelI (handles 0x300)).vpair 2 k).toNat / 2 ^ 56 ≠ 3) ∧
      ∃ w op ty a val, QueueForms (runW tqdelI (handles 0x300)) tqdelI w op ty a val) ∧
    (Ready tqremI (clauseOf tqremI) (runW tqremI (handles 0x301)) ∧ ∃ w op ty a val, QueueForms (runW tqremI (handles 0x301)) tqremI w op ty a val) ∧
    Ready tqaddI (clauseOf tqaddI) (runW tqaddI (handles 0x3FF)) ∧ ∃ w op ty a val, QueueForms (runW tqaddI (handles 0x3FF)) tqaddI w op ty a val := by
  refine ⟨⟨⟨rfl, rfl, by decide⟩, by decide, _, _, _, .tres _ world3 255 (by decide) (by unfold Granted; decide)⟩,
    ⟨⟨rfl, rfl, by decide⟩, _, _, _, .tres _ world3 0 (by decide) (by unfold Granted; decide)⟩,
    ⟨⟨rfl, rfl, by decide⟩, _, _, _, .tview _ world3 1 (by decide) (by unfold Granted; decide)⟩,
    ⟨⟨rfl, rfl, by decide⟩, by decide, by decide, by unfold Granted; decide, by decide, by decide, fun a h1 h2 => ?_, fun k hk => ?_⟩,
    ⟨⟨rfl, rfl, by decide⟩, by decide, ⟨1, by decide, by decide⟩, _, _, _, _, _, .tqdel _ world3 0 (by decide) (by unfold Granted; decide)⟩,
    ⟨⟨rfl, rfl, by decide⟩, _, _, _, _, _, .tqrem _ world3 1 (by decide) (by unfold Granted; decide)⟩,
    ⟨rfl, rfl, by decide⟩, _, _, _, _, _, .tqadd _ world3 255 (by decide) (by decide) (by unfold Granted; decide) (by decide)⟩
  · have h1 : 0x10000 ≤ a := h1
    have h2 : a < 0x10000 + 0x4000 := h2
    exact usable_plain (pageAt_page0 rfl rfl h1 (by omega)) rfl
  · have hk : k = 0 ∨ 64 * k < 64 := hk
    obtain rfl : k = 0 := by omega
    decide

def launchI : Instr := .launch (x6 0 4 0 0 0 0)
def launchJ : Instr := .launch (x6 0 4 0 6 0 1)
theorem test_meets_DeviceLaunchCompletes :
    (Can launchI (withS [(4, 4032)]) ∧ ((runT launchI (withS [(4, 4032)])).sval 4).toNat = 4032 ∧ 4032 % 64 = 0 ∧ 4032 + 64 ≤ (runT launchI (withS [(4, 4032)])).blk.lsz ∧
      (runT launchI (withS [(4, 4032)])).team.recCount < 256) ∧
    Can launchJ (withS [(4, 0), (6, 0x10008)]) ∧ ((runT launchJ (withS [(4, 0), (6, 0x10008)])).sval 4).toNat = 0 ∧
      ((runT launchJ (withS [(4, 0), (6, 0x10008)])).pairVA 6).toNat % 8 = 0 := by
  refine ⟨⟨⟨rfl, rfl, by decide⟩, ?_, ?_, ?_, ?_⟩, ⟨rfl, rfl, by decide⟩, ?_, ?_⟩ <;> decide

/-! ### Hypotheses met: arrivals, memory units, pager -/

/-- A state with all cores, blocks and teams of its tenant in the lists. -/
def opened (s : State) : State := (s.openTenant 0).getD s
/-- An outstanding result of lane 3, and one whose request is still to be read. -/
def pendOf (k : CtrKind) (ws : List RegWrite) (q : Option EngReq) : Pend := { kind := k, vdst := [(1, 0xF)], ws := ws, req := q }
def lddQ : EngReq := { ins := .ldd (x6 1 2 4 0 0 0), act := maskOf [3], help := 0, src := [(3, [16#32])], sc := [] }
def tresQ : EngReq := { ins := .tres (x6 10 2 4 0 0 0), act := 3, help := 0, src := [(0, [0#32, 0x03000000#32]), (1, [5#32, 0x02000000#32])], sc := [0x3FF#32] }
def waits (p : Pend) (t : Team) : Team := { t with pend := [p], lc := 1, ac := 1, xc := 1, tc := 1, cl := none }
def atomQ (sp : Nat) (todo : List (Nat × Nat × DWord × DWord)) (old : List (Nat × DWord)) : AtomReq :=
  { scope := 1, sp := sp, op := 0, ty := 0, dst := 3, todo := todo, old := old, seen := [7], mism := true }
def doing (r : AtomReq) (t : Team) : Team := { t with wait := .atom r, ac := 1, cl := none }
/-- Four lanes at 0x1_0000, 0x1_0004, 0x1_0000, 0x1_0008 of a space. -/
def four (a : Nat) : List (Nat × Nat × DWord × DWord) := [(0, a, 1, 0), (1, a + 4, 1, 0), (2, a, 1, 0), (3, a + 8, 1, 0)]
def perfS (sp a : Nat) : State := runT endI (doing (atomQ sp (four a) []))
theorem entries_apart : EntriesApart world3 {} := by
  intro p q i j hp hq _ _
  have hp : p = {} := hp.elim id id
  have hq : q = {} := hq.elim id id
  subst hp hq
  have h (i : Nat) : (world3.entAt {} i).1 = 0x10000 + 48 * i := by
    show 0x10000 + 3072 * (i / 64) + 48 * (i % 64) = _
    omega
  rw [h i, h j]
  rcases Nat.lt_trichotomy i j with h | rfl | h
  · exact .inl (by omega)
  · exact .inr (.inr ⟨rfl, rfl⟩)
  · exact .inr (.inl (by omega))
theorem test_meets_ArrivalsWriteResults :
    (Placed 0 1 (runT endI (waits (pendOf .lc [.v 1 3 9] none))) (runT endI (waits (pendOf .lc [.v 1 3 9] none))) ∧
      Outstanding (runT endI (waits (pendOf .lc [.v 1 3 9] none))).team .lc 0 0 (pendOf .lc [.v 1 3 9] none)) ∧
    (Placed 0 1 (runT endI (waits (pendOf .tc [] none))) (runT endI (waits (pendOf .tc [] none))) ∧
      Outstanding (runT endI (waits (pendOf .tc [] none))).team .tc 0 0 (pendOf .tc [] none)) ∧
    (Placed 0 1 (runT endI (waits (pendOf .lc [] (some lddQ)))) (runT endI (waits (pendOf .lc [] (some lddQ)))) ∧
      Outstanding (runT endI (waits (pendOf .lc [] (some lddQ)))).team .lc 0 0 (pendOf .lc [] (some lddQ)) ∧ lddI.wf = true ∧
      (∀ m, m < wBytes 0 → (runT endI (waits (pendOf .lc [] (some lddQ)))).spOpen 0 (16 + m) = false) ∧
      (runT endI (waits (pendOf .lc [] (some lddQ)))).ten.queued = []) ∧
    (Placed 0 1 (runW endI (waits (pendOf .tc [] (some tresQ)))) (runW endI (waits (pendOf .tc [] (some tresQ)))) ∧
      Outstanding (runW endI (waits (pendOf .tc [] (some tresQ)))).team .tc 0 0 (pendOf .tc [] (some tresQ)) ∧
      EntriesApart world3 ((runW endI (waits (pendOf .tc [] (some tresQ)))).viewTick world3) ∧
      (runW endI (waits (pendOf .tc [] (some tresQ)))).selector 0x3FF true = some (world3, 255) ∧
      (runW endI (waits (pendOf .tc [] (some tresQ)))).poolStop
        ((runW endI (waits (pendOf .tc [] (some tresQ)))).ten.tresAll world3 ((runW endI (waits (pendOf .tc [] (some tresQ)))).viewTick world3)
          (x6 10 2 4 0 0 0) 255 tresQ tresQ.lanes (runW endI (waits (pendOf .tc [] (some tresQ)))).team).2.2 [] = none ∧ (tresQ.src.map (·.1)).Nodup) ∧
    (Opened 0 (perfS 0 0x10000) (opened (perfS 0 0x10000)) ∧ (∃ x r, (opened (perfS 0 0x10000)).ten.team? 1 = some x ∧ x.key = 1 ∧ x.wait = .atom r ∧
      r.todo = four 0x10000) ∧ (opened (perfS 0 0x10000)).ten.hasQueued 1 = false ∧ (∀ z ∈ (four 0x10000).take 1, z.2.1 ≠ 0x10004) ∧
      (opened (perfS 0 0x10000)).ten.remote 0x10004 = false ∧ ∀ j, j < 4 → (opened (perfS 0 0x10000)).ten.poisoned (0x10004 + j) = false) ∧
    (Opened 0 (perfS 1 0) (opened (perfS 1 0)) ∧ ∀ j, j < 4 → (opened (perfS 1 0)).spOpen 0 (0 + j) = false) ∧
    Placed 0 1 (runT endI (doing (atomQ 1 [] [(3, 5), (0, 6)]))) (runT endI (doing (atomQ 1 [] [(3, 5), (0, 6)]))) ∧
      ([(3, (5 : DWord)), (0, 6)].map (·.1)).Nodup :=
  ⟨⟨⟨rfl, rfl⟩, rfl, rfl, rfl⟩, ⟨⟨rfl, rfl⟩, rfl, rfl, rfl⟩, ⟨⟨rfl, rfl⟩, ⟨rfl, rfl, rfl⟩, by decide, by decide, rfl⟩,
    ⟨⟨rfl, rfl⟩, ⟨rfl, rfl, rfl⟩, entries_apart, by decide, by decide, by decide⟩, ⟨⟨rfl, rfl⟩, ⟨_, _, rfl, rfl, rfl, rfl⟩, by decide, by decide, by decide, by decide⟩,
    ⟨⟨rfl, rfl⟩, by decide⟩, ⟨rfl, rfl⟩, by decide⟩

/-- A sector of four bytes for entry 0 of the core's buffer table, its bytes read. -/
def sector4 : Sector := { team := 1, core := 0, entry := 0, src := [(0x10000, 0), (0x10001, 1), (0x10002, 2), (0x10003, 3)], got := some [1, 2, 3, 4], up := true }
def landS (e : BufEntry) : State :=
  let s := runB endI e id
  { s with ten := { s.ten with sectors := [sector4] } }
/-- A queued batch of team 1 with these records. -/
def batchOf (rs : List Rec) : Batch := { id := 9, team := 1, launch := 1, core := 0, die := 0, ctx := 0, scope := 3, dom := .device, recs := rs, parts := [], sent := false }
def queuedS (rs : List Rec) (e : BufEntry) : State :=
  let s := runB endI e id
  { s with ten := { s.ten with queued := [batchOf rs] } }
def drainR : Rec := .drain 0 0 [(0x10000, 0, 4)] [] []
def copyR : Rec := .copy [(0x10000, [1, 2]), (0x10001, [3, 4])]
def atomR : Rec := .atomMm 0 0 [(0x10000, 7, 0)] 0 (some 0)
theorem test_meets_MemoryUnitsStep :
    (Opened 0 (landS { buf .filling false with sealed := true }) (opened (landS { buf .filling false with sealed := true })) ∧
      (opened (landS { buf .filling false with sealed := true })).ten.sectors[0]? = some sector4 ∧
      Placed 0 1 (landS { buf .filling false with sealed := true }) (landS { buf .filling false with sealed := true }) ∧
      (sector4.src.map (·.2)).Nodup ∧ (landS { buf .filling false with sealed := true }).core.entry? 0 = some { buf .filling false with sealed := true } ∧
      (landS { buf .filling false with sealed := true }).core.num = 0) ∧
    (Opened 0 (queuedS [drainR] (buf .draining false)) (opened (queuedS [drainR] (buf .draining false))) ∧
      findBy (·.id) 9 (opened (queuedS [drainR] (buf .draining false))).ten.queued = some (batchOf [drainR]) ∧
      Placed 0 1 (queuedS [drainR] (buf .draining false)) (queuedS [drainR] (buf .draining false)) ∧
      (queuedS [drainR] (buf .draining false)).core.entry? 0 = some (buf .draining false) ∧ (queuedS [drainR] (buf .draining false)).team.wait ≠ .ended) ∧
    (Opened 0 (queuedS [copyR, copyR] (buf .full false)) (opened (queuedS [copyR, copyR] (buf .full false))) ∧
      findBy (·.id) 9 (opened (queuedS [copyR, copyR] (buf .full false))).ten.queued = some (batchOf [copyR, copyR]) ∧
      ((opened (queuedS [copyR, copyR] (buf .full false))).ten.queued.find? fun y => y.team == 1) = some (batchOf [copyR, copyR]) ∧
      (∀ w ∈ copies [copyR, copyR], ∀ j, j < w.2.length → (opened (queuedS [copyR, copyR] (buf .full false))).ten.remote (w.1 + j) = false) ∧
      ∀ w ∈ copies [copyR, copyR], (opened (queuedS [copyR, copyR] (buf .full false))).ten.remote w.1 = false) ∧
    Opened 0 (queuedS [atomR] (buf .full false)) (opened (queuedS [atomR] (buf .full false))) ∧
      findBy (·.id) 9 (opened (queuedS [atomR] (buf .full false))).ten.queued = some (batchOf [atomR]) ∧
      ∀ j, j < 8 → (opened (queuedS [atomR] (buf .full false))).ten.remote (0x10000 + j) = false ∧
        (opened (queuedS [atomR] (buf .full false))).ten.poisoned (0x10000 + j) = false :=
  ⟨⟨⟨rfl, rfl⟩, rfl, ⟨rfl, rfl⟩, by decide, rfl, rfl⟩, ⟨⟨rfl, rfl⟩, rfl, ⟨rfl, rfl⟩, rfl, by decide⟩,
    ⟨⟨rfl, rfl⟩, rfl, rfl, by decide, by decide⟩, ⟨rfl, rfl⟩, rfl, by decide⟩

/-- The page is in the tier and was asked for; the team is parked by a fault on it. -/
def pagerS (st : PageSt) : State :=
  let s := runT endI fun t => { t with wait := .pager [0x10000], cl := none }
  { s with ten := { s.ten with pages := [{ page0 with st := st }], pageReqs := [0x10000] } }
/-- The same in a module without a frame. -/
def noFrames : State :=
  let s := pagerS .tier
  { s with ten := { s.ten with panes := [] } }
theorem test_meets_PagerSteps :
    (Opened 0 (pagerS .tier) (opened (pagerS .tier)) ∧ 0x10000 ∈ (opened (pagerS .tier)).ten.pageReqs ∧ Fits (opened (pagerS .tier)) [0x10000]) ∧
    (∃ x, (opened (pagerS .stored)).ten.team? 1 = some x ∧ x.wait = .pager [0x10000]) ∧ Fits (opened (pagerS .stored)) [0x10000] ∧
    (Opened 0 noFrames (opened noFrames) ∧ (∃ x, (opened noFrames).ten.team? 1 = some x ∧ x.wait = .pager [0x10000]) ∧
      (∃ v, Placed 0 1 (opened noFrames) v) ∧
      (opened noFrames).framesFree < (opened noFrames).ten.framesOf ((opened noFrames).ten.missing [0x10000]) ∧ (opened noFrames).ten.evictable [0x10000] = []) ∧
    Opened 0 (run endI) (opened (run endI)) ∧ (opened (run endI)).ten.users 0x20000 4096 = [] :=
  ⟨⟨⟨rfl, rfl⟩, by decide, by unfold Fits; decide⟩, ⟨_, rfl, rfl⟩, by unfold Fits; decide,
    ⟨⟨rfl, rfl⟩, ⟨_, rfl, rfl⟩, ⟨_, rfl, rfl⟩, by decide, by decide⟩, ⟨rfl, rfl⟩, by decide⟩

/-! ### Hypotheses met: waits, clause decode, launches -/

/-- Memory with a clause of one `NOP` at 0x1_0000; a header of no instruction at 0x1_0080. -/
def codeAt (t : Team) (f : Team → Team) : State :=
  let s := runT endI fun _ => f { t with cl := none }
  { s with ten := { s.ten with main := (({} : Space).inits 0x10000 (leBytes 4 (2 ^ 28 + 0x1F * 2 ^ 16) ++ (encode (.nop (r3 0 0 0))).flatMap leWord)).inits 0x10080 (leBytes 4 0) } }
def calling (fn : Nat) (rep : Option DWord) (t : Team) : Team :=
  { t with wait := .sysc { fn := fn, a0 := 5, a1 := 6, vec := some (1, [9]), dst := 126, reply := rep }, cl := none }
def callS (fn : Nat) (rep : Option DWord) : State := runT endI (calling fn rep)
/-- Both teams of a block wait at a barrier, of batches that have completed. -/
def barS : State :=
  let s := run endI
  { s with team := { s.team with wait := .bar 0, cl := none, batch := [] }, ten := { s.ten with teams := [{ team0 with key := 2, idx := 1, wait := .bar 5 }] } }
theorem test_meets_TeamUnitsStep :
    (Placed 0 1 (codeAt team0 id) (codeAt team0 id) ∧ (codeAt team0 id).ready = true ∧ (codeAt team0 id).issues = true ∧
      (codeAt team0 id).ten.fetchCheck (codeBytes 0x10000 1) = .ok ∧ GoodHeader ((codeAt team0 id).ten.fetchWord 0 [] 0x10000) ∧
      (codeAt team0 id).ten.fetchCheck (codeBytes (0x10000 + 4#56) 1) = .ok ∧
      structural 0 0 [(codeAt team0 id).ten.fetchWord 0 [] 0x10004] = none) ∧
    (Placed 0 1 (codeAt team0 fun t => { t with pc := 0x10080 }) (codeAt team0 fun t => { t with pc := 0x10080 }) ∧
      (codeAt team0 fun t => { t with pc := 0x10080 }).ten.fetchCheck (codeBytes 0x10080 1) = .ok ∧
      ¬ GoodHeader ((codeAt team0 fun t => { t with pc := 0x10080 }).ten.fetchWord 0 [] 0x10080)) ∧
    (Placed 0 1 (codeAt team0 fun t => { t with pc := 0x20000 }) (codeAt team0 fun t => { t with pc := 0x20000 }) ∧
      ∃ sub va, (codeAt team0 fun t => { t with pc := 0x20000 }).ten.fetchCheck (codeBytes 0x20000 1) = .bad sub va) ∧
    (Placed 0 1 (callS 1 (some 7)) (callS 1 (some 7)) ∧ ∃ r, (callS 1 (some 7)).team.wait = .sysc r ∧ r.reply = some 7) ∧
    (∀ fn ∈ [0, 1, 2, 128, 255], Opened 0 (callS fn none) (opened (callS fn none)) ∧ (∃ x r, (opened (callS fn none)).ten.team? 1 = some x ∧ x.wait = .sysc r ∧
      r.reply = none ∧ r.fn = fn) ∧ (opened (callS fn none)).ten.hasQueued 1 = false) ∧
    Placed 0 1 (runT endI fun t => { t with wait := .sleep true, cl := none }) (runT endI fun t => { t with wait := .sleep true, cl := none }) ∧
    (Placed 0 1 (runT tresI fun t => { t with dl := 1 }) (runT tresI fun t => { t with dl := 1 }) ∧ (runT tresI fun t => { t with dl := 1 }).ready = true ∧
      (runT tresI fun t => { t with dl := 1 }).issues = true ∧ 1 < wordsOf (opcOf (((clauseOf tresI).words.drop 0).headD 0))) ∧
    Opened 0 barS (opened barS) ∧ InOrder (opened barS).ten ∧ (∀ x ∈ (opened barS).ten.teams, x.blk = 1 → x.wait ≠ .ended →
      ∃ id, x.wait = .bar id ∧ ∀ q ∈ (opened barS).ten.queued, q.id ≠ id) := by
  refine ⟨⟨⟨rfl, rfl⟩, by decide, by decide, by decide, by unfold GoodHeader; decide, by decide, by decide⟩,
    ⟨⟨rfl, rfl⟩, by decide, by unfold GoodHeader; decide⟩, ⟨⟨rfl, rfl⟩, _, _, rfl⟩, ⟨⟨rfl, rfl⟩, _, rfl, rfl⟩, fun fn h => ?_, ⟨rfl, rfl⟩,
    ⟨⟨rfl, rfl⟩, by decide, by decide, by decide⟩, ⟨rfl, rfl⟩, ?_, fun x hx _ _ => ?_⟩
  · fin_cases h <;> exact ⟨⟨rfl, rfl⟩, ⟨_, _, rfl, rfl, rfl, rfl⟩, by decide⟩
  · unfold InOrder; decide
  · have hx : x ∈ [(barS.stow.ten.teams[0]?).getD {}, (barS.stow.ten.teams[1]?).getD {}] := hx
    rcases List.mem_cons.mp hx with rfl | hx
    · exact ⟨_, rfl, by decide⟩
    · rcases List.mem_cons.mp hx with rfl | hx
      · exact ⟨_, rfl, by decide⟩
      · cases hx

/-- A launch in a state, with a record. -/
def launchS (rc : LRec) (st : LaunchSt) (placed retired : Nat) : State :=
  { power := .up, ten := { num := 0, live := true, panes := [pane0], slots := 1, ctxs := [{ num := 0 }], pages := [page0], stage2 := [stage0], cores := [core0], launches :=
      [{ launch0 with rc := rc, st := st, placed := placed, retired := retired, handler := 0 }], worlds := [world3], bins := [bin7], nextLaunch := 2, nextSub := 2 } }
/-- A record for one block of two teams of 1024 lanes. -/
def rec0 : LRec := { kind := 0, entry := 0x10000, blocks := 1, lanes := 1024, teams := 2, vb := 16, lsb := 64, done := 0x10008, waitva := 0, waitv := 0 }
def syncRec : LRec := { kind := 3, blocks := 3 }
/-- Two syncs of world 3: the second is held by the first. -/
def heldS : State :=
  let s := launchS syncRec .queued 0 0
  { s with ten := { s.ten with launches := { launch0 with id := 7, sub := 0, rc := syncRec, st := .released } :: s.ten.launches } }
def oneLaunch (rc : LRec) (st : LaunchSt) (k : Nat) : Launch := { launch0 with rc := rc, st := st, placed := k, retired := k, handler := 0 }
/-- A record of bin 7 that no launch has taken. -/
def agedS : State :=
  let s := launchS rec0 .running 0 0
  { s with ten := { s.ten with rings := [(7, [([1, 2, 3, 4], none)])] } }
theorem test_meets_LaunchUnitsStep :
    (Opened 0 (launchS rec0 .queued 0 0) (opened (launchS rec0 .queued 0 0)) ∧
      (opened (launchS rec0 .queued 0 0)).ten.launch? 1 = some (oneLaunch rec0 .queued 0) ∧ WaitMet (opened (launchS rec0 .queued 0 0)).ten (oneLaunch rec0 .queued 0) ∧
      (opened (launchS rec0 .queued 0 0)).ten.holds (oneLaunch rec0 .queued 0) = false) ∧
    (Opened 0 heldS (opened heldS) ∧ (opened heldS).ten.launch? 1 = some (oneLaunch syncRec .queued 0) ∧ WaitMet (opened heldS).ten (oneLaunch syncRec .queued 0) ∧
      (opened heldS).ten.holds (oneLaunch syncRec .queued 0) = true) ∧
    (Opened 0 (launchS { rec0 with waitva := 0x10000, waitv := 1 } .queued 0 0) (opened (launchS { rec0 with waitva := 0x10000, waitv := 1 } .queued 0 0)) ∧
      ¬ WaitMet (opened (launchS { rec0 with waitva := 0x10000, waitv := 1 } .queued 0 0)).ten (oneLaunch { rec0 with waitva := 0x10000, waitv := 1 } .queued 0) ∧
      (opened (launchS { rec0 with waitva := 0x10000, waitv := 1 } .queued 0 0)).ten.objPage 0x10000 = .here) ∧
    (Opened 0 (launchS rec0 .released 0 0) (opened (launchS rec0 .released 0 0)) ∧ (opened (launchS rec0 .released 0 0)).ten.core? 0 = some core0 ∧
      (oneLaunch rec0 .released 0).waiting = true ∧ (opened (launchS rec0 .released 0 0)).served (oneLaunch rec0 .released 0) = true ∧
      (opened (launchS rec0 .released 0 0)).ten.stagePages rec0 = [] ∧ (opened (launchS rec0 .released 0 0)).ten.mayRun (oneLaunch rec0 .released 0) core0 = true ∧
      ∃ f, (opened (launchS rec0 .released 0 0)).ten.fitOn 0 rec0 core0 = some f) ∧
    (Opened 0 (launchS rec0 .running 1 1) (opened (launchS rec0 .running 1 1)) ∧
      (opened (launchS rec0 .running 1 1)).ten.launch? 1 = some (oneLaunch rec0 .running 1) ∧ (opened (launchS rec0 .running 1 1)).ten.objPage 0x10008 = .here) ∧
    (Opened 0 agedS (opened agedS) ∧ findBy (·.num) 7 (opened agedS).ten.bins = some bin7 ∧ ∃ e ∈ (opened agedS).ten.ring 0 7, e.2 = none) ∧
    (Opened 0 (launchS rec0 .running 0 0) (opened (launchS rec0 .running 0 0)) ∧ ∀ e ∈ (opened (launchS rec0 .running 0 0)).ten.ring 0 7, e.2 ≠ none) ∧
    Opened 0 (launchS syncRec .released 0 0) (opened (launchS syncRec .released 0 0)) ∧
      (opened (launchS syncRec .released 0 0)).ten.launch? 1 = some (oneLaunch syncRec .released 0) ∧
      (opened (launchS syncRec .released 0 0)).ten.world? syncRec.named = some world3 := by
  refine ⟨⟨⟨rfl, rfl⟩, rfl, .inl rfl, by decide⟩, ⟨⟨rfl, rfl⟩, rfl, .inl rfl, by decide⟩, ⟨⟨rfl, rfl⟩, ?_, by decide⟩,
    ⟨⟨rfl, rfl⟩, rfl, by decide, by decide, by decide, by decide, ?_⟩, ⟨⟨rfl, rfl⟩, rfl, by decide⟩, ⟨⟨rfl, rfl⟩, rfl, _, .head _, rfl⟩,
    ⟨⟨rfl, rfl⟩, by decide⟩, ⟨rfl, rfl⟩, rfl, rfl⟩
  · rintro (h | ⟨-, v, h, h'⟩)
    · cases h
    · revert v; decide
  · exact Option.isSome_iff_exists.mp (by decide)

/-! ### Hypotheses met: contexts, gangs, peers, migration, checkpoints, the module's units -/

/-- Context 1 has a launch that waits, or not. -/
def quantumS (work : Bool) : State :=
  let s := run endI
  { s with ten := { s.ten with ctxs := [{ num := 0 }, { num := 1 }], launches := if work then [{ launch0 with id := 9, ctx := 1, st := .released, nblk := 1, placed := 0 }] else [] } }
def pane0of (u : State) : Pane := (u.ten.pane? 0).getD pane0
/-- A saved block of one team, its launch and its core. -/
def savedB : Saved := { blk := { blk0 with teams := 1, core := 5 }, teams := [{ team0 with cl := none }], ents := [], pane := 0 }
def savedS : State :=
  let s := launchS rec0 .running 1 0
  { s with ten := { s.ten with ctxs := [{ num := 0, saved := [savedB] }] } }
def savedL : Launch := { oneLaunch rec0 .running 1 with retired := 0 }
def lostS : State :=
  let s := launchS rec0 .running 1 0
  { s with ten := { s.ten with ctxs := [{ num := 0, stalled := [0] }] } }
/-- A member of gang 1 of three members. -/
def gang3 (rank : Nat) (got : List Nat) : Gang := { id := 1, nmem := 3, rank := rank, tmo := 1000, addrs := [1, 2, 3], got := got, decided := none, sent := true }
def gangS (rank : Nat) (got : List Nat) : State :=
  let s := run endI
  { s with ten := { s.ten with launches := [{ launch0 with gang := some (gang3 rank got) }] } }
theorem test_meets_ContextAndGangSteps :
    (Opened 0 (quantumS false) (opened (quantumS false)) ∧ (opened (quantumS false)).ten.pane? 0 = some pane0 ∧ (opened (quantumS false)).ten.nextCtx pane0 = none) ∧
    (Opened 0 (quantumS true) (opened (quantumS true)) ∧ (opened (quantumS true)).ten.nextCtx pane0 = some 1 ∧
      ∃ u1, u1 = (opened (quantumS true)).dropTeams (((opened (quantumS true)).ten.teamsIn ((opened (quantumS true)).ten.paneBlocks 0 0)).map (·.key)) ∧
        (u1.ten.ctx? 0).isSome = true ∧ u1.ten.paneBlocks 0 0 ≠ [] ∧ u1.ten.quiet (u1.ten.paneBlocks 0 0) = true ∧ (u1.ten.blocks.map (·.key)).Nodup) ∧
    (Opened 0 savedS (opened savedS) ∧ ((opened savedS).ten.ctxs.flatMap (·.saved)).find? (fun y => y.blk.key == 1) = some savedB ∧
      (opened savedS).ten.core? 0 = some core0 ∧ (opened savedS).ten.launch? 1 = some savedL ∧ (opened savedS).ten.mayRun { savedL with ctx := 0 } core0 = true ∧
      (opened savedS).ten.stagePages rec0 = [] ∧ ∃ f, (opened savedS).ten.fitWith 0 { rec0 with teams := 1 } rec0.units core0 = some f ∧
        (opened savedS).putBack savedB savedL core0 f ≠ none) ∧
    (Opened 0 lostS (opened lostS) ∧ (opened lostS).ten.ctx? 0 = some { num := 0, stalled := [0] }) ∧
    (Opened 0 (gangS 0 [0]) (opened (gangS 0 [0])) ∧ Member (opened (gangS 0 [0])) 1 1 (gang3 0 [0]) ∧
      (∃ r, r < 3 ∧ r ≠ 2 ∧ r ∉ (gang3 0 [0]).got)) ∧
    (Opened 0 (gangS 0 [0, 1]) (opened (gangS 0 [0, 1])) ∧ Member (opened (gangS 0 [0, 1])) 1 1 (gang3 0 [0, 1]) ∧
      ∀ r, r < 3 → r = 2 ∨ r ∈ (gang3 0 [0, 1]).got) ∧
    Opened 0 (gangS 2 []) (opened (gangS 2 [])) ∧ Member (opened (gangS 2 [])) 1 1 (gang3 2 []) := by
  refine ⟨⟨⟨rfl, rfl⟩, rfl, by decide⟩, ⟨⟨rfl, rfl⟩, by decide, _, rfl, by decide, by decide, by decide, by decide⟩,
    ⟨⟨rfl, rfl⟩, rfl, rfl, rfl, by decide, by decide, ?_⟩, ⟨⟨rfl, rfl⟩, rfl⟩, ⟨⟨rfl, rfl⟩, rfl, ⟨1, by decide, by decide, by decide⟩⟩,
    ⟨⟨rfl, rfl⟩, rfl, by decide⟩, ⟨rfl, rfl⟩, rfl⟩
  have h : ((opened savedS).ten.fitWith 0 { rec0 with teams := 1 } rec0.units core0).isSome = true := by decide
  obtain ⟨f, hf⟩ := Option.isSome_iff_exists.mp h
  exact ⟨f, hf, nofun⟩

/-- Window 3 on the page for every address, with every permission, and a peer's operation on it. -/
def window3 : Window := { id := 3, va := 0x10000, len := 0x10000, r := true, w := true, a := true, pfx := [(0, 0)] }
def peerQ (n : Nat) (xs : List Byte) : PeerOp := { src := 77, rkey := 3, va := 0x10008, len := n, data := xs, arg := 1, cmp := 0 }
def peerS : State :=
  let s := run endI
  { s with ten := { s.ten with windows := [window3] } }
/-- A batch with a part that was sent to mapping 2, which failed. -/
def partS : State :=
  let s := run endI
  { s with ten := { s.ten with queued := [{ batchOf [copyR] with parts := [2], sent := true }],
                               peers := [{ idx := 2, peer := 77, pten := 0, win := 3, lva := 0x20000, len := 0x10000, rva := 0, failed := false }] } }
theorem peerMay_run (q : PeerOp) (use : WinUse) (n : Nat) (hs : q.src = 77) (hk : q.rkey = 3) (hv : q.va = 0x10008) (hn : n ≤ 8) : PeerMay q use n peerS (opened peerS) := by
  refine ⟨rfl, ?_, rfl, rfl, missing_none (by decide) _, ⟨window3, ?_, by cases use <;> rfl, ⟨(0, 0), by decide, ?_⟩, ?_, ?_⟩, fun a h1 h2 => ⟨.inr ?_, page0, ?_, .inl rfl, fun _ => rfl, fun _ => rfl⟩⟩
  · rw [hk]; exact ⟨rfl, rfl⟩
  · rw [hk]; rfl
  · rw [hs]; decide
  · rw [hv]; decide
  · rw [hv]; show (0x10008 : Nat) + n ≤ 0x20000; omega
  · rfl
  · rw [hv] at h1 h2
    have h1 : 0x10008 ≤ a := h1
    have h2 : a < 0x10008 + n := h2
    exact pageAt_page0 rfl rfl (by omega) (by omega)
theorem test_meets_PeerSteps :
    PeerMay (peerQ 0 [1, 2, 3]) .w 3 peerS (opened peerS) ∧ PeerMay (peerQ 8 []) .r 8 peerS (opened peerS) ∧
    (PeerMay (peerQ 8 []) .a 8 peerS (opened peerS) ∧ (peerQ 8 []).va.toNat % 8 = 0) ∧
    ((run endI).power = .up ∧ Opened ((peerQ 8 []).rkey.toNat / 65536) (run endI) (opened (run endI)) ∧ findBy (·.id) 3 (opened (run endI)).ten.windows = none) ∧
    Opened 0 partS (opened partS) ∧ (∃ x, findBy (·.id) 9 (opened partS).ten.queued = some x ∧ x.sent = true ∧ 2 ∈ x.parts) ∧
      (∃ m, findBy (·.idx) 2 (opened partS).ten.peers = some m) :=
  ⟨peerMay_run _ _ _ rfl rfl rfl (by decide), peerMay_run _ _ _ rfl rfl rfl (by decide), ⟨peerMay_run _ _ _ rfl rfl rfl (by decide), by decide⟩, ⟨rfl, ⟨rfl, rfl⟩, rfl⟩, ⟨rfl, rfl⟩, ⟨_, rfl, rfl, .head _⟩, _, rfl⟩

/-- A request of method `m`, tenant 0, with a payload. -/
def ask (m : Half) (ps : List Byte) : Datagram :=
  { src := 77, magic := 0x4350524F, version := 1, method := m, tenant := 0, len := BitVec.ofNat 32 ps.length, reqid := 5, status := 0, flags := 0, payload := ps }
def migOf (moved : Bool) (left : List Nat) : Mig := { target := 99, tten := 4, q := ask 11 [], moved := moved, left := left }
def migS (m : Mig) : State :=
  let s := run endI
  { s with ten := { s.ten with mig := some m } }
def takeOf (wv : Nat) : Take := { step := 12, waitva := 0x10000, waitv := wv, buddy := 88, shards := [(1, 0x10000, 0x10000)], q := ask 10 [], recorded := false }
def takeS (wv : Nat) : State :=
  let s := run endI
  { s with ten := { s.ten with take := some (takeOf wv) } }
def ckpt0 : Ckpt := { tenant := 0, step := 12, shards := [], image := {}, manifest := [], complete := false }
def takenS : State := { takeS 0 with ckpts := [ckpt0] }
theorem test_meets_MigrationAndCheckpointSteps :
    (Opened 0 (migS (migOf false [])) (opened (migS (migOf false []))) ∧ (opened (migS (migOf false []))).ten.mig = some (migOf false []) ∧
      (opened (migS (migOf false []))).ten.still = true) ∧
    (Opened 0 (migS (migOf true [0x10000, 0x20000])) (opened (migS (migOf true [0x10000, 0x20000])))) ∧
    (Opened 0 (migS (migOf true [])) (opened (migS (migOf true []))) ∧ (opened (migS (migOf true []))).ten.mig = some (migOf true [])) ∧
    (Opened 0 (takeS 0) (opened (takeS 0)) ∧ (opened (takeS 0)).ten.take = some (takeOf 0) ∧ (opened (takeS 0)).ten.objPage 0x10000 = .here ∧
      0 ≤ (opened (takeS 0)).ten.main.num 0x10000 8 ∧ (opened (takeS 0)).freeze.ten.still = true) ∧
    (Opened 0 (takeS 1) (opened (takeS 1)) ∧ (opened (takeS 1)).ten.frozen = false ∧ (opened (takeS 1)).ten.objPage 0x10000 = .here ∧
      (opened (takeS 1)).ten.main.num 0x10000 8 < 1) ∧
    Opened 0 takenS (opened takenS) ∧ (opened takenS).ten.take = some (takeOf 0) ∧ (opened takenS).ckpts.find? (fun c => c.tenant == 0 && !c.complete) = some ckpt0 :=
  ⟨⟨⟨rfl, rfl⟩, rfl, by decide⟩, ⟨rfl, rfl⟩, ⟨⟨rfl, rfl⟩, rfl⟩, ⟨⟨rfl, rfl⟩, rfl, by decide, by decide, by decide⟩, ⟨⟨rfl, rfl⟩, rfl, by decide, by decide⟩, ⟨rfl, rfl⟩, rfl, rfl⟩

/-- An image that the vendor signed is accepted only where the vendor's key verifies it: the one hypothesis on values that the spec leaves
open is taken here. -/
theorem test_meets_ModuleUnitsStep :
    ((run endI).power = .up ∧ 105 ≤ 105 ∧ ¬ 105 ≤ 104 ∧ 95 < 96) ∧ State.reset.power = .off ∧
    (∀ key sig : List Byte, Config.sha512 key = Config.vendorKeyDigest → Config.verify key (leBytes 64 (Config.sha512 []).toNat) sig = true →
      ∃ w : FwImage, Config.sha512 w.key = Config.vendorKeyDigest ∧ Config.verify w.key (leBytes 64 (Config.sha512 w.body).toNat) w.sig = true ∧
        State.reset.rollback ≤ w.version) ∧
    (∃ (s : State) (w : FwImage), w.version < s.rollback) ∧
    Opened 0 (run endI) (opened (run endI)) ∧
    (Placed 0 1 (run endI) (run endI) ∧ (run endI).team.wait ≠ .ended ∧ (run endI).team.cl = some (clauseOf endI)) ∧
    (bayOf (.regfile 0 1) = none ∧ ∀ t ∈ (run endI).allTens, ∀ p ∈ t.panes, p.bay ≠ 3) := by
  refine ⟨⟨rfl, by decide, by decide, by decide⟩, rfl, fun key sig h1 h2 => ⟨{ version := 0, body := [], sig := sig, key := key }, h1, h2, Nat.le_refl _⟩,
    ⟨{ State.reset with rollback := 2 }, { version := 1, body := [], sig := [], key := [] }, by decide⟩, ⟨rfl, rfl⟩, ⟨⟨rfl, rfl⟩, by decide, rfl⟩, rfl, by decide⟩

/-- An operation of the sequencer with its result outstanding. -/
def mopOf (i : Instr) (started : Bool) : MatOp := { id := 4, team := 1, core := 0, ins := i, va := 0, act := 0xF, sc := [0x10000#32, 0#32], base := 0, spad := false, fence := 0, started := started }
def mopP : Pend := { kind := .mc, mop := 4 }
def mopS (i : Instr) (started : Bool) : State :=
  let s := runT endI fun t => { t with mc := 1, pend := [mopP] }
  { s with ten := { s.ten with mops := [mopOf i started] } }
def isLoaded (r : Except (Nat × Nat) (List Byte × Team)) : Bool := match r with | .ok _ => true | _ => false
theorem test_meets_MatrixUnitsStep :
    (Opened 0 (mopS (.mzero (r3 0 0 0)) false) (opened (mopS (.mzero (r3 0 0 0)) false)) ∧
      (opened (mopS (.mzero (r3 0 0 0)) false)).ten.op? 4 = some (mopOf (.mzero (r3 0 0 0)) false) ∧
      (opened (mopS (.mzero (r3 0 0 0)) false)).ten.opFree (mopOf (.mzero (r3 0 0 0)) false) = true ∧
      ∃ v bs tm, Placed 0 1 (opened (mopS (.mzero (r3 0 0 0)) false)) v ∧
        v.pageStop { r := true, w := false, remote := false } (mopOf (.mzero (r3 0 0 0)) false).fetch = none ∧
        loadBytes v.ten v.ctr [] 0 (mopOf (.mzero (r3 0 0 0)) false).fetch v.team = .ok (bs, tm)) ∧
    Opened 0 (mopS (.mzero (r3 0 0 0)) true) (opened (mopS (.mzero (r3 0 0 0)) true)) ∧
      (opened (mopS (.mzero (r3 0 0 0)) true)).ten.op? 4 = some (mopOf (.mzero (r3 0 0 0)) true) ∧
      ∃ v, Placed 0 1 (opened (mopS (.mzero (r3 0 0 0)) true)) v ∧ v.team.pend.findIdx? (fun p => p.mop == 4 && p.kind == .mc) = some 0 ∧ v.team.pend[0]? = some mopP :=
  ⟨⟨⟨rfl, rfl⟩, rfl, by decide, _, _, _, ⟨rfl, rfl⟩, by decide, rfl⟩, ⟨rfl, rfl⟩, rfl, _, ⟨rfl, rfl⟩, by decide, rfl⟩

/-! ### Hypotheses met: requests of hosts and operators -/

/-- Tenant 0 with the prefix of every address, one page, world 3, and no launch. -/
def hostS (f : Tenant → Tenant) : State :=
  let s := launchS rec0 .running 1 0
  { s with ten := f { s.ten with pfx := [(0, 0)], launches := [] } }
/-- The state opened, with the host's address tracked. -/
def tracked (s : State) : State := { opened s with ten := (opened s).ten.track 77 }
def hosted (f : Tenant → Tenant) : State := tracked (hostS f)
theorem acceptedIn (s : State) (m : Half) (ps : List Byte) (ho : Opened 0 s (opened s))
    (h : (opened s).ten.pfx = [(0, 0)] ∧ (opened s).ten.moved = none ∧ (opened s).ten.sources = [] ∧
      (opened s).ten.ctx? ((0 : Word).toNat / 2) ≠ none ∧ (opened s).ten.pending (ask m ps) = false ∧ (opened s).ten.inbox = [])
    (hl : ps.length ≤ 8160) (hp : s.power = .up) : Accepted (ask m ps) m.toNat s (tracked s) := by
  refine ⟨hp, ⟨rfl, rfl, rfl, by show (0 : Word).toNat % 2 = 0; decide, by show (0 : Word).toNat < 16; decide, rfl, ?_, hl⟩, _, ho,
    ⟨(0, 0), by rw [h.1]; exact .head _, ?_⟩, h.2.1, .inr ?_, h.2.2.2.1, h.2.2.2.2.1, h.2.2.2.2.2, ?_, rfl⟩
  · show (BitVec.ofNat 32 ps.length).toNat = ps.length
    rw [BitVec.toNat_ofNat]; exact Nat.mod_eq_of_lt (by omega)
  · show prefixHas 77 (0, 0) = true; decide
  · rw [h.2.2.1]; decide
  · rw [h.2.2.1]; exact nofun
theorem accepted (f : Tenant → Tenant) (m : Half) (ps : List Byte) (ho : Opened 0 (hostS f) (opened (hostS f)))
    (h : (opened (hostS f)).ten.pfx = [(0, 0)] ∧ (opened (hostS f)).ten.moved = none ∧ (opened (hostS f)).ten.sources = [] ∧
      (opened (hostS f)).ten.ctx? ((0 : Word).toNat / 2) ≠ none ∧ (opened (hostS f)).ten.pending (ask m ps) = false ∧ (opened (hostS f)).ten.inbox = [])
    (hl : ps.length ≤ 8160) (hp : (hostS f).power = .up) : Accepted (ask m ps) m.toNat (hostS f) (hosted f) := acceptedIn _ m ps ho h hl hp
theorem hostMay {w : Bool} {va n : Nat} {u : State} (hp : u.ten.pages = [page0]) (hg : u.ten.stage2 = [stage0]) (hq : u.ten.poison = []) (h1 : 0x10000 ≤ va) (h2 : va + n ≤ 0x20000) :
    HostMay w va n u := by
  refine ⟨missing_none (by rw [hp]; decide) _, fun a ha hb => ⟨.inr ?_, page0, ?_, .inl rfl, fun _ => rfl⟩⟩
  · unfold Tenant.poisoned; rw [hq]; rfl
  · exact pageAt_page0 hp hg (by omega) (by omega)
def readP : List Byte := leBytes 8 0x10000 ++ leBytes 4 8160 ++ leBytes 4 0
def writeP : List Byte := leBytes 8 0x1FFFF ++ leBytes 4 1 ++ leBytes 4 0 ++ [9]
def allocP (place : Nat) : List Byte := leBytes 8 0x20000 ++ leBytes 8 0x20000 ++ [0, BitVec.ofNat 8 place, 7, 1] ++ leBytes 4 0
def freeP : List Byte := leBytes 8 0x10000 ++ leBytes 8 0x10000
def noBins (t : Tenant) : Tenant := { t with worlds := [], bins := [] }
/-- An image of one code section of four bytes, without symbols and relocations. -/
def imgF : List Byte :=
  leBytes 4 0x31585244 ++ leBytes 4 1 ++ leBytes 4 1 ++ leBytes 4 0 ++ leBytes 4 0 ++ leBytes 4 0xFFFFFFFF ++ leBytes 8 64 ++ leBytes 8 96 ++
    leBytes 8 96 ++ leBytes 8 96 ++ leBytes 8 0 ++ (leBytes 4 0 ++ [0, 2, 0, 0] ++ leBytes 8 4 ++ leBytes 8 100 ++ leBytes 8 0) ++ [0, 0, 0, 0] ++ [1, 2, 3, 4]
def loadP (f : List Byte) : List Byte := leBytes 8 0 ++ leBytes 8 f.length ++ leBytes 32 0 ++ f
def launchP (gang : List Byte) (g : Nat) : List Byte :=
  (leBytes 7 0x10000 ++ [0] ++ leBytes 4 1 ++ leBytes 2 1024 ++ [2, 0] ++ leBytes 2 16 ++ [0, 0] ++ leBytes 4 64 ++ leBytes 4 0 ++ leBytes 4 0 ++ leBytes 32 0) ++
    leBytes 4 g ++ leBytes 4 0 ++ gang
/-- The same record for no lanes. -/
def badLaunchP : List Byte := (launchP [] 0).set 12 0 |>.set 13 0
def gangP : List Byte := leBytes 8 5 ++ leBytes 2 2 ++ leBytes 2 1 ++ leBytes 4 1000 ++ leBytes 32 0
def syncP : List Byte := leBytes 4 3 ++ leBytes 28 0
def waitP (v : Nat) : List Byte := leBytes 8 0x10000 ++ leBytes 8 v ++ leBytes 4 10000000 ++ leBytes 4 0
def waitS : State := hostS fun t => { t with waits := [{ q := { ask 7 (waitP 1) with reqid := 4 }, va := 0x10000, val := 1 }] }
theorem test_meets_HostRequestsComplete :
    (Accepted (ask 4 readP) 4 (hostS id) (hosted id) ∧ readP.length = 16 ∧ arg (ask 4 readP) 8 4 ≤ 8160 ∧ arg (ask 4 readP) 12 4 = 0 ∧
      HostMay false (arg (ask 4 readP) 0 8) (arg (ask 4 readP) 8 4) (hosted id)) ∧
    (Accepted (ask 5 writeP) 5 (hostS id) (hosted id) ∧ writeP.length = 16 + arg (ask 5 writeP) 8 4 ∧ 0 < arg (ask 5 writeP) 8 4 ∧ arg (ask 5 writeP) 12 4 = 0 ∧
      HostMay true (arg (ask 5 writeP) 0 8) (arg (ask 5 writeP) 8 4) (hosted id)) ∧
    (Accepted (ask 2 (allocP 0)) 2 (hostS id) (hosted id) ∧ (allocP 0).length = 24 ∧ arg (ask 2 (allocP 0)) 16 1 = 0 ∧ arg (ask 2 (allocP 0)) 17 1 = 0 ∧
      arg (ask 2 (allocP 0)) 18 1 = 7 ∧ arg (ask 2 (allocP 0)) 19 1 = 1 ∧ arg (ask 2 (allocP 0)) 20 4 = 0 ∧ arg (ask 2 (allocP 0)) 0 8 = 0x20000 ∧
      arg (ask 2 (allocP 0)) 8 8 = 0x20000 ∧ askedSize (ask 2 (allocP 0)) = 65536 ∧ (∀ p ∈ (hosted id).ten.pages, p.va + p.size ≤ 0x20000 ∨ 0x20000 + 0x20000 ≤ p.va) ∧
      0x20000 / 65536 ≤ (hosted id).framesFree) ∧
    (Accepted (ask 3 freeP) 3 (hostS noBins) (hosted noBins) ∧ freeP.length = 16 ∧ arg (ask 3 freeP) 0 8 = 0x10000 ∧ arg (ask 3 freeP) 8 8 = 0x10000 ∧
      (∀ p ∈ (hosted noBins).ten.pages, p.va < 0x10000 + 0x10000 → 0x10000 < p.va + p.size → 0x10000 ≤ p.va ∧ p.va + p.size ≤ 0x10000 + 0x10000) ∧
      (((hosted noBins).ten.pages.filter fun p => decide (p.va < 0x10000 + 0x10000) && decide (0x10000 < p.va + p.size)).map (·.size)).sum = 0x10000 ∧
      (hosted noBins).ten.users 0x10000 0x10000 = [] ∧ (hosted noBins).ten.inUse 0x10000 0x10000 = false) ∧
    (Accepted (ask 6 (launchP [] 0)) 6 (hostS id) (hosted id) ∧ (launchP [] 0).length = 72 ∧ arg (ask 6 (launchP [] 0)) 64 4 = 0 ∧
      arg (ask 6 (launchP [] 0)) 68 4 = 0 ∧ (hosted id).ten.recordStatus ((launchP [] 0).take 64) = 0) ∧
    (Accepted (ask 6 badLaunchP) 6 (hostS id) (hosted id) ∧ badLaunchP.length = 72 ∧ (hosted id).ten.recordStatus (badLaunchP.take 64) = 1) ∧
    (Accepted (ask 6 (launchP gangP 1)) 6 (hostS id) (hosted id) ∧ (launchP gangP 1).length = 88 + 16 * arg (ask 6 (launchP gangP 1)) 80 2 ∧
      arg (ask 6 (launchP gangP 1)) 64 4 = 1 ∧ arg (ask 6 (launchP gangP 1)) 80 2 = 2 ∧ arg (ask 6 (launchP gangP 1)) 82 2 = 1 ∧
      arg (ask 6 (launchP gangP 1)) 84 4 = 1000 ∧ (hosted id).ten.recordStatus ((launchP gangP 1).take 64) = 0) ∧
    (Accepted (ask 8 syncP) 8 (hostS id) (hosted id) ∧ syncP.length = 32 ∧
      (hosted id).ten.recordStatus (leBytes 7 0 ++ [3#8] ++ syncP.take 4 ++ leBytes 12 0 ++ (syncP.drop 4).take 4 ++ leBytes 12 0 ++ syncP.drop 8) = 0) := by
  refine ⟨⟨accepted _ _ _ ⟨rfl, rfl⟩ (by decide) (by decide) rfl, by decide, by decide, by decide, hostMay rfl rfl rfl (by decide) (by decide)⟩,
    ⟨accepted _ _ _ ⟨rfl, rfl⟩ (by decide) (by decide) rfl, by decide, by decide, by decide, hostMay rfl rfl rfl (by decide) (by decide)⟩,
    ⟨accepted _ _ _ ⟨rfl, rfl⟩ (by decide) (by decide) rfl, by decide, by decide, by decide, by decide, by decide, by decide, by decide, by decide, by decide, by decide, by decide⟩,
    ⟨accepted _ _ _ ⟨rfl, rfl⟩ (by decide) (by decide) rfl, by decide, by decide, by decide, by decide, by decide, by decide, by decide⟩,
    ⟨accepted _ _ _ ⟨rfl, rfl⟩ (by decide) (by decide) rfl, by decide, by decide, by decide, by decide⟩,
    ⟨accepted _ _ _ ⟨rfl, rfl⟩ (by decide) (by decide) rfl, by decide, by decide⟩,
    ⟨accepted _ _ _ ⟨rfl, rfl⟩ (by decide) (by decide) rfl, by decide, by decide, by decide, by decide, by decide, by decide⟩,
    accepted _ _ _ ⟨rfl, rfl⟩ (by decide) (by decide) rfl, by decide, by decide⟩

theorem test_meets_HostRequestsComplete_loads :
    (Accepted (ask 1 (loadP imgF)) 1 (hostS noBins) (hosted noBins) ∧ arg (ask 1 (loadP imgF)) 0 4 = 0 ∧ arg (ask 1 (loadP imgF)) 4 4 = 0 ∧
      arg (ask 1 (loadP imgF)) 36 4 = 0 ∧ arg (ask 1 (loadP imgF)) 8 8 = imgF.length ∧ (loadP imgF).length = 48 + imgF.length ∧
      ∃ d t0 vas bs, readDrx imgF = some d ∧ (hosted noBins).roomIn .hbm ((d.secs.map fun x => x.span / 65536).foldl (· + ·) 0) = true ∧
        Tenant.placeSecs (hosted noBins).ctr d.secs 0 (hosted noBins).ten = some (t0, vas) ∧ (∀ x ∈ d.syms, x.sec ≠ 0xFFFF) ∧
        relocate d vas d.rels 0 (d.secs.map (·.bytes)) = .ok bs) ∧
    (Accepted (ask 1 (loadP [1, 2])) 1 (hostS id) (hosted id) ∧ readDrx [1, 2] = none) ∧
    (Accepted (ask 7 (waitP 0)) 7 (hostS id) (hosted id) ∧ arg (ask 7 (waitP 0)) 16 4 = 10000000 ∧ (hosted id).ten.objPage 0x10000 = .here ∧
      arg (ask 7 (waitP 0)) 8 8 ≤ (hosted id).ten.main.num 0x10000 8) ∧
    (Accepted (ask 7 (waitP 1)) 7 (hostS id) (hosted id) ∧ (hosted id).ten.main.num 0x10000 8 < arg (ask 7 (waitP 1)) 8 8) ∧
    Opened 0 waitS (opened waitS) ∧ ∃ w, (opened waitS).ten.waits[0]? = some w := by
  refine ⟨⟨accepted _ _ _ ⟨rfl, rfl⟩ (by decide) (by decide) rfl, by decide, by decide, by decide, by decide, by decide, ?_⟩,
    ⟨accepted _ _ _ ⟨rfl, rfl⟩ (by decide) (by decide) rfl, by decide⟩,
    ⟨accepted _ _ _ ⟨rfl, rfl⟩ (by decide) (by decide) rfl, by decide, by decide, by decide⟩,
    ⟨accepted _ _ _ ⟨rfl, rfl⟩ (by decide) (by decide) rfl, by decide⟩, ⟨rfl, rfl⟩, _, rfl⟩
  have hd : readDrx imgF = some { secs := [{ kind := 0, align := 2, bytes := [1, 2, 3, 4] }], syms := [], rels := [], trap := none } := by decide
  have hp : ∃ va, (hosted noBins).ten.placeSec (hosted noBins).ctr 0 { kind := 0, align := 2, bytes := [1, 2, 3, 4] } = some va := by
    refine Option.isSome_iff_exists.mp (List.find?_isSome.mpr ⟨0x20000, ?_, by decide⟩)
    exact List.mem_cons_of_mem _ (List.mem_append.mpr (.inl (by decide)))
  obtain ⟨va, hp⟩ := hp
  have hs : ∃ r, Tenant.placeSecs (hosted noBins).ctr [{ kind := 0, align := 2, bytes := [1, 2, 3, 4] }] 0 (hosted noBins).ten = some r := by
    unfold Tenant.placeSecs
    rw [hp]
    exact ⟨_, rfl⟩
  obtain ⟨⟨t0, vas⟩, hs⟩ := hs
  exact ⟨_, t0, vas, _, hd, by decide, hs, nofun, rfl⟩

/-! ### Hypotheses met: registration, reports, tenants, contexts, windows, checkpoints -/

/-- A descriptor in memory at 0x1_0000. -/
def holding (d : List Byte) (t : Tenant) : Tenant := { t with main := ({} : Space).inits 0x10000 d }
def regP (what n id : Nat) : List Byte := leBytes 4 what ++ leBytes 4 n ++ leBytes 4 id ++ leBytes 4 0 ++ leBytes 8 0x10000
def worldD : List Byte := leBytes 8 0x20000 ++ leBytes 8 0x10000 ++ leBytes 4 64 ++ leBytes 4 256 ++ leBytes 8 0x10100 ++ leBytes 32 0
def queryD : List Byte := leBytes 32 2 ++ leBytes 32 2 ++ leBytes 32 0
def binD : List Byte :=
  leBytes 8 0x10000 ++ leBytes 2 2 ++ [4, 0] ++ leBytes 4 100 ++ leBytes 2 8 ++ [0, 0] ++ leBytes 4 64 ++ leBytes 24 0 ++ leBytes 4 0 ++ leBytes 4 4 ++ leBytes 8 0
def texD : List Byte := leBytes 16 0 ++ leBytes 8 0x10100 ++ leBytes 232 0
theorem registers (f : Tenant → Tenant) (what n id k : Nat) (ha : Accepted (ask 9 (regP what n id)) 9 (hostS f) (hosted f))
    (h : (regP what n id).length = 24 ∧ arg (ask 9 (regP what n id)) 0 4 = what ∧ arg (ask 9 (regP what n id)) 12 4 = 0 ∧
      arg (ask 9 (regP what n id)) 16 8 = 0x10000) (hp : (hosted f).ten.pages = [page0]) (hg : (hosted f).ten.stage2 = [stage0]) (hq : (hosted f).ten.poison = []) (hk : k ≤ 256) :
    Registers (ask 9 (regP what n id)) what k (hostS f) (hosted f) :=
  ⟨ha, h.1, h.2.1, h.2.2.1, by rw [h.2.2.2]; exact hostMay hp hg hq (by omega) (by omega)⟩
theorem test_meets_RegistrationAndReports :
    (Registers (ask 9 (regP 0 5 0)) 0 64 (hostS (holding worldD)) (hosted (holding worldD)) ∧ arg (ask 9 (regP 0 5 0)) 8 4 = 0 ∧
      descriptor (ask 9 (regP 0 5 0)) 64 (hosted (holding worldD)) = worldD ∧ arg (ask 9 (regP 0 5 0)) 4 4 = 5 ∧ (hosted (holding worldD)).ten.world? 5 = none ∧
      worldOk worldD = true ∧ field worldD 24 7 = 0x10100 ∧ HostMay false 0x10100 256 (hosted (holding worldD)) ∧
      (∀ b ∈ (hosted (holding worldD)).ten.main.gets 0x10100 256, b.toNat ≤ 64) ∧ 3072 * ((field worldD 16 4 + 63) / 64) ≤ field worldD 8 8) ∧
    (Registers (ask 9 (regP 1 3 65535)) 1 96 (hostS (holding queryD)) (hosted (holding queryD)) ∧
      descriptor (ask 9 (regP 1 3 65535)) 96 (hosted (holding queryD)) = queryD ∧ (hosted (holding queryD)).ten.world? 3 = some world3 ∧
      arg (ask 9 (regP 1 3 65535)) 8 4 = 65535 ∧ (hosted (holding queryD)).ten.queries = [] ∧ field queryD 0 32 ≠ 0 ∧
      (∀ k, k < 256 → (BitVec.ofNat 256 (field queryD 0 32)).getLsbD k = true → look 0 k world3.types ≠ 0 ∧
        ((BitVec.ofNat 256 (field queryD 32 32)).getLsbD k = true ∨ (BitVec.ofNat 256 (field queryD 64 32)).getLsbD k = true))) ∧
    (Registers (ask 9 (regP 2 255 0)) 2 64 (hostS (holding binD)) (hosted (holding binD)) ∧ arg (ask 9 (regP 2 255 0)) 8 4 = 0 ∧
      descriptor (ask 9 (regP 2 255 0)) 64 (hosted (holding binD)) = binD ∧ arg (ask 9 (regP 2 255 0)) 4 4 = 255 ∧
      findBy (·.num) 255 (hosted (holding binD)).ten.bins = none ∧ binOk binD = true ∧
      (hosted (holding binD)).ten.shapeOk ((readBin 255 0 binD).record (readBin 255 0 binD).thr) = true ∧
      (readBin 255 0 binD).ring + (readBin 255 0 binD).cap * 4 * (readBin 255 0 binD).rsw ≤ (hosted (holding binD)).ten.leastScratch) ∧
    (Registers (ask 9 (regP 3 0 0)) 3 256 (hostS (holding texD)) (hosted (holding texD)) ∧ arg (ask 9 (regP 3 0 0)) 4 4 = 0 ∧
      descriptor (ask 9 (regP 3 0 0)) 256 (hosted (holding texD)) = texD ∧ texOk texD = true ∧ HostMay false (readTex texD).lat 16 (hosted (holding texD))) ∧
    (Accepted (ask 14 (leBytes 4 16)) 14 (hostS id) (hosted id) ∧ (hosted id).ten.evWait = [] ∧ arg (ask 14 (leBytes 4 16)) 0 4 = 16) ∧
    (Accepted (ask 15 (leBytes 4 8160)) 15 (hostS id) (hosted id) ∧ arg (ask 15 (leBytes 4 8160)) 0 4 = 8160) ∧
    Accepted (ask 13 []) 13 (hostS id) (hosted id) ∧
    (Accepted (ask 16 (leBytes 4 0 ++ leBytes 4 100000 ++ leBytes 4 1 ++ leBytes 4 (2 ^ 24))) 16 (hostS id) (hosted id) ∧ (hosted id).ten.pane? 0 = some pane0) ∧
    Accepted (ask 12 (leBytes 32 7)) 12 (hostS id) (hosted id) := by
  refine ⟨⟨registers _ _ _ _ _ (accepted _ _ _ ⟨rfl, rfl⟩ (by decide) (by decide) rfl) (by decide) rfl rfl rfl (by decide), by decide, by decide, by decide, by decide,
      by decide, by decide, hostMay rfl rfl rfl (by decide) (by decide), by decide, by decide⟩,
    ⟨registers _ _ _ _ _ (accepted _ _ _ ⟨rfl, rfl⟩ (by decide) (by decide) rfl) (by decide) rfl rfl rfl (by decide), by decide, by decide, by decide, by decide,
      by decide, ?_⟩,
    ⟨registers _ _ _ _ _ (accepted _ _ _ ⟨rfl, rfl⟩ (by decide) (by decide) rfl) (by decide) rfl rfl rfl (by decide), by decide, by decide, by decide, by decide,
      by decide, by decide, by decide⟩,
    ⟨registers _ _ _ _ _ (accepted _ _ _ ⟨rfl, rfl⟩ (by decide) (by decide) rfl) (by decide) rfl rfl rfl (by decide), by decide, by decide, by decide,
      hostMay rfl rfl rfl (by decide) (by decide)⟩,
    ⟨accepted _ _ _ ⟨rfl, rfl⟩ (by decide) (by decide) rfl, rfl, by decide⟩, ⟨accepted _ _ _ ⟨rfl, rfl⟩ (by decide) (by decide) rfl, by decide⟩,
    accepted _ _ _ ⟨rfl, rfl⟩ (by decide) (by decide) rfl, ⟨accepted _ _ _ ⟨rfl, rfl⟩ (by decide) (by decide) rfl, by decide⟩,
    accepted _ _ _ ⟨rfl, rfl⟩ (by decide) (by decide) rfl⟩
  intro k hk h
  have h1 : BitVec.ofNat 256 (field queryD 0 32) = 1#256 <<< 1 := by decide
  have h2 : BitVec.ofNat 256 (field queryD 32 32) = 1#256 <<< 1 := by decide
  rw [h1] at h
  have hk1 : k = 1 := by
    rw [BitVec.getLsbD_shiftLeft] at h
    simp at h
    omega
  subst hk1
  rw [h2]
  decide

/-! Some requests have a condition on a value that the spec leaves open (an operator's address, the frames of a save area, CXL memory, a target's
room, a verified manifest): it is a hypothesis here. -/

/-- The module up with no tenant. -/
def freshS : State := { State.reset with power := .up }
def operP (op n slots : Nat) (bays : List Nat) (pfx : List Byte) (k : Nat) : List Byte :=
  leBytes 4 op ++ leBytes 4 n ++ leBytes 4 bays.length ++ leBytes 4 slots ++ leBytes 4 k ++ leBytes 4 0 ++ bays.flatMap (leBytes 4) ++ pfx
def operQ (ip : Ip) (ps : List Byte) : Datagram := { ask 19 ps with src := ip, tenant := 0xFFFFFFFF }
def createP : List Byte := operP 0 31 128 [31, 0] (leBytes 16 7 ++ leBytes 4 128) 1
def removeP : List Byte := operP 1 0 0 [] [] 0
theorem operates (ip : Ip) (h : Config.isOperator ip = true) (s : State) (ps : List Byte) (hp : s.power = .up) (hl : ps.length ≤ 8160)
    (hn : ps.length = 24 + 4 * arg (operQ ip ps) 8 4 + 20 * arg (operQ ip ps) 16 4) : Operates (operQ ip ps) s := by
  refine ⟨hp, ⟨rfl, rfl, rfl, by show (0 : Word).toNat % 2 = 0; decide, by show (0 : Word).toNat < 16; decide, rfl, ?_, hl⟩, rfl, h, hn⟩
  show (BitVec.ofNat 32 ps.length).toNat = ps.length
  rw [BitVec.toNat_ofNat]; exact Nat.mod_eq_of_lt (by omega)
def twoCtx (t : Tenant) : Tenant := { t with ctxs := [{ num := 0 }, { num := 7 }] }
def winP (op id : Nat) (n : Nat) : List Byte :=
  leBytes 4 op ++ leBytes 4 id ++ leBytes 8 0x10000 ++ leBytes 8 0x10000 ++ leBytes 4 5 ++ leBytes 4 n ++ (List.replicate n (leBytes 16 1 ++ leBytes 4 128)).flatten
def hasWindow (t : Tenant) : Tenant := { t with windows := [window3] }
def peerP : List Byte := leBytes 16 99 ++ leBytes 4 31 ++ leBytes 4 4095 ++ leBytes 8 0x30000 ++ leBytes 8 0x20000 ++ leBytes 8 0x40000
def takeP : List Byte := leBytes 4 0 ++ leBytes 4 1 ++ leBytes 8 12 ++ leBytes 8 0x10000 ++ leBytes 8 3 ++ leBytes 16 88 ++ leBytes 8 0 ++ (leBytes 4 1 ++ leBytes 20 0)
/-- A checkpoint that the buddy named is asked for: buddy 88, step 12. -/
def restoreB : List Byte := leBytes 4 1 ++ leBytes 4 1 ++ leBytes 8 12 ++ leBytes 16 88
def restoreP : List Byte := leBytes 4 1 ++ leBytes 4 0 ++ leBytes 8 12
def migrateP : List Byte := leBytes 16 99 ++ leBytes 4 31 ++ leBytes 4 0
def ckptV (m : List Byte) : Ckpt := { ckpt0 with complete := true, manifest := m }
def ckptS (m : List Byte) : State := { hostS id with ckpts := [ckptV m] }
theorem test_meets_TenantRequestsComplete :
    (∀ ip, Config.isOperator ip = true → Operates (operQ ip createP) freshS ∧ arg (operQ ip createP) 0 4 = 0 ∧ arg (operQ ip createP) 4 4 = 31 ∧
      arg (operQ ip createP) 8 4 = 2 ∧ arg (operQ ip createP) 12 4 = 128 ∧ arg (operQ ip createP) 20 4 = 0 ∧
      (List.range (arg (operQ ip createP) 8 4)).map (fun i => arg (operQ ip createP) (24 + 4 * i) 4) = [31, 0] ∧ arg (operQ ip createP) 16 4 = 1 ∧
      arg (operQ ip createP) (24 + 4 * 2 + 16) 4 = 128 ∧ freshS.allTens = [] ∧ (∀ b ∈ [31, 0], freshS.yields b = true) ∧
      (∀ p k, slotOwner (freshS.slotAt p k) ≠ some 31) ∧ arg (operQ ip createP) 12 4 ≤ (freshS.freeSlots (portsOf (distinct ([31, 0].map (· / 8))))).length) ∧
    (∀ ip, Config.isOperator ip = true → Operates (operQ ip removeP) (hostS id) ∧ arg (operQ ip removeP) 0 4 = 1 ∧ ∃ t ∈ (hostS id).allTens, t.num = 0) ∧
    (Config.saveFrames ≤ (hosted id).framesFree → Accepted (ask 20 (leBytes 8 0)) 20 (hostS id) (hosted id) ∧ arg (ask 20 (leBytes 8 0)) 0 4 = 0 ∧
      arg (ask 20 (leBytes 8 0)) 4 4 = 0 ∧ ∃ n, n < 8 ∧ (hosted id).ten.ctx? n = none) ∧
    (Accepted (ask 20 (leBytes 4 1 ++ leBytes 4 7)) 20 (hostS twoCtx) (hosted twoCtx) ∧ arg (ask 20 (leBytes 4 1 ++ leBytes 4 7)) 4 4 = 7 ∧
      (hosted twoCtx).ten.ctx? 7 = some { num := 7 } ∧ ∀ l ∈ (hosted twoCtx).ten.launches, l.ctx ≠ 7) ∧
    (Accepted (ask 17 (winP 0 0 2)) 17 (hostS id) (hosted id) ∧ (winP 0 0 2).length = 32 + 20 * arg (ask 17 (winP 0 0 2)) 28 4 ∧
      arg (ask 17 (winP 0 0 2)) 0 4 = 0 ∧ arg (ask 17 (winP 0 0 2)) 4 4 = 0 ∧ arg (ask 17 (winP 0 0 2)) 8 8 = 0x10000 ∧ arg (ask 17 (winP 0 0 2)) 16 8 = 0x10000 ∧
      arg (ask 17 (winP 0 0 2)) 24 4 = 5 ∧ arg (ask 17 (winP 0 0 2)) 28 4 = 2 ∧ (∀ i, i < 2 → arg (ask 17 (winP 0 0 2)) (32 + 20 * i + 16) 4 = 128) ∧
      findBy (·.id) 4095 (hosted id).ten.windows = none) ∧
    (Accepted (ask 17 (winP 1 3 0)) 17 (hostS hasWindow) (hosted hasWindow) ∧ arg (ask 17 (winP 1 3 0)) 28 4 = 0 ∧ (winP 1 3 0).length = 32 ∧
      arg (ask 17 (winP 1 3 0)) 0 4 = 1 ∧ findBy (·.id) (arg (ask 17 (winP 1 3 0)) 4 4) (hosted hasWindow).ten.windows = some window3) ∧
    (Accepted (ask 18 peerP) 18 (hostS id) (hosted id) ∧ peerP.length = 48 ∧ arg (ask 18 peerP) 24 8 = 0x30000 ∧ arg (ask 18 peerP) 32 8 = 0x20000 ∧
      arg (ask 18 peerP) 16 4 = 31 ∧ arg (ask 18 peerP) 20 4 = 4095 ∧ ∀ p ∈ (hosted id).ten.pages, p.va + p.size ≤ 0x30000 ∨ 0x30000 + 0x20000 ≤ p.va) ∧
    (Accepted (ask 10 takeP) 10 (hostS id) (hosted id) ∧ arg (ask 10 takeP) 0 4 = 0 ∧ arg (ask 10 takeP) 4 4 = 1 ∧ arg (ask 10 takeP) 48 8 = 0 ∧
      arg (ask 10 takeP) 16 8 = 0x10000 ∧ takeP.length = 56 + 24 * 1 ∧ shardsOk (takeP.drop 56) 1 = true) ∧
    (∀ m, (ckptV m).verifies = true → Accepted (ask 10 restoreP) 10 (ckptS m) (tracked (ckptS m)) ∧ arg (ask 10 restoreP) 0 4 = 1 ∧
      arg (ask 10 restoreP) 4 4 = 0 ∧ restoreP.length = 16 ∧ ((tracked (ckptS m)).ckpts.find? fun c =>
        c.tenant == (tracked (ckptS m)).ten.num && c.step == arg (ask 10 restoreP) 8 8 && c.complete) = some (ckptV m)) ∧
    (Accepted (ask 10 (leBytes 4 2)) 10 (hostS id) (hosted id) ∧ arg (ask 10 (leBytes 4 2)) 0 4 = 2) ∧
    ((hosted id).fitsTarget (Config.targetPanes (BitVec.ofNat 128 (arg (ask 11 migrateP) 0 16)) 31) = true → Accepted (ask 11 migrateP) 11 (hostS id) (hosted id) ∧
      migrateP.length = 24 ∧ arg (ask 11 migrateP) 16 4 = 31 ∧ arg (ask 11 migrateP) 20 4 = 0 ∧ InOrder (hosted id).ten) ∧
    Accepted (ask 21 []) 21 (hostS id) (hosted id) ∧ Accepted (ask 0 []) 0 (hostS id) (hosted id) := by
  have hf (p : Port) (k : Nat) : slotOwner (freshS.slotAt p k) = none := by
    rw [State.slotAt, show freshS.cal = [] from rfl]; simp [look, slotOwner]
  refine ⟨fun ip h => ⟨operates ip h _ _ rfl (by decide) ?_, ?_, ?_, ?_, ?_, ?_, ?_, ?_, ?_, rfl, by decide, fun p k h => by (rw [hf] at h; cases h), ?_⟩,
    fun ip h => ⟨operates ip h _ _ rfl (by decide) rfl, rfl, _, .head _, rfl⟩,
    fun _ => ⟨accepted _ _ _ ⟨rfl, rfl⟩ (by decide) (by decide) rfl, by decide, by decide, 7, by decide, by decide⟩,
    ⟨accepted _ _ _ ⟨rfl, rfl⟩ (by decide) (by decide) rfl, by decide, by decide, by decide⟩,
    ⟨accepted _ _ _ ⟨rfl, rfl⟩ (by decide) (by decide) rfl, by decide, by decide, by decide, by decide, by decide, by decide, by decide, by decide, by decide⟩,
    ⟨accepted _ _ _ ⟨rfl, rfl⟩ (by decide) (by decide) rfl, by decide, by decide, by decide, by decide⟩,
    ⟨accepted _ _ _ ⟨rfl, rfl⟩ (by decide) (by decide) rfl, by decide, by decide, by decide, by decide, by decide, by decide⟩,
    ⟨accepted _ _ _ ⟨rfl, rfl⟩ (by decide) (by decide) rfl, by decide, by decide, by decide, by decide, by decide, by decide⟩,
    fun m _ => ⟨acceptedIn _ _ _ ⟨rfl, rfl⟩ ⟨rfl, rfl, rfl, nofun, rfl, rfl⟩ (by decide) rfl, by decide, by decide, by decide, rfl⟩,
    ⟨accepted _ _ _ ⟨rfl, rfl⟩ (by decide) (by decide) rfl, by decide⟩,
    fun _ => ⟨accepted _ _ _ ⟨rfl, rfl⟩ (by decide) (by decide) rfl, by decide, by decide, by decide, by unfold InOrder; decide⟩,
    accepted _ _ _ ⟨rfl, rfl⟩ (by decide) (by decide) rfl, accepted _ _ _ ⟨rfl, rfl⟩ (by decide) (by decide) rfl⟩
  all_goals rfl

/-- DIRECT pages need CXL memory, whose size the spec leaves open. -/
theorem test_meets_HostRequestsComplete_direct : 2 ≤ Config.cxlFrames →
    Accepted (ask 2 (allocP 1)) 2 (hostS id) (hosted id) ∧ arg (ask 2 (allocP 1)) 17 1 = 1 ∧ 0x20000 / 65536 ≤ (hosted id).tierFree := by
  refine fun h => ⟨accepted _ _ _ ⟨rfl, rfl⟩ (by decide) (by decide) rfl, by decide, ?_⟩
  show 0x20000 / 65536 ≤ Config.cxlFrames - 0
  omega

/-! ### Hypotheses met: steps, words, byte spaces -/

/-- The next step is team 1's turn; an event; nothing. -/
def turnS (s : State) : State := { s with agenda := [.issue 0 1] }
theorem test_meets_StepRunsDecodedInstruction :
    ((turnS (run endI)).agenda = .issue 0 1 :: [] ∧ Placed 0 1 { turnS (run endI) with agenda := [] } (run endI) ∧ (run endI).ready = true ∧ (run endI).issues = true ∧
      decode ((clauseOf endI).words.drop (clauseOf endI).pos) = .ok (endI, [])) ∧
    (Placed 0 1 { turnS (codeAt team0 id) with agenda := [] } (codeAt team0 id) ∧ (codeAt team0 id).team.cl = none) ∧
    (Placed 0 1 { turnS (runT endI fun t => { t with cl := some { clauseOf endI with words := [0xC4000001#32] } }) with agenda := [] }
        (runT endI fun t => { t with cl := some { clauseOf endI with words := [0xC4000001#32] } }) ∧
      (runT endI fun t => { t with cl := some { clauseOf endI with words := [0xC4000001#32] } }).issues = true ∧ decode [0xC4000001#32] = .error .reserved ∧
      wordsOf (opcOf 0xC4000001#32) ≤ 100) ∧
    (Instr.powerLoss.isWord = false ∧ endI.isWord = true) ∧ (State.reset.moves = []) ∧ (run endI).moves ≠ [] :=
  ⟨⟨rfl, ⟨rfl, rfl⟩, by decide, by decide, by decide⟩, ⟨⟨rfl, rfl⟩, rfl⟩, ⟨⟨rfl, rfl⟩, by decide, by decide, by decide⟩, ⟨rfl, rfl⟩, by decide, by decide⟩

theorem test_meets_DecodeOfEncode : (Instr.mzero (r3 7 0 0)).isWord = true ∧ (Instr.mzero (r3 7 0 0)).wf = true ∧
    (Instr.vfma (x6 255 255 255 255 0 0xFFFF)).isWord = true ∧ (Instr.brCond (i3 0 1 0 0xFFFFFFFF)).wf = true := by decide

theorem test_meets_CodesSupplyValues : (127 : Byte).toNat < 128 ∧ (128 ≤ (191 : Byte).toNat ∧ (191 : Byte).toNat < 192) ∧
    (192 ≤ (207 : Byte).toNat ∧ (207 : Byte).toNat < 208) ∧ (15 : Byte).toNat < 16 ∧ (∀ p ∈ (run endI).team.pend, 16 ∉ p.mdst) ∧ (run endI).team.lanes ≤ 1024 ∧
    216 ≤ (216 : Byte).toNat ∧ 19 ≤ (19 : Byte).toNat := by decide

theorem test_meets_IllegalAndDeadlineComeFirst :
    ((Instr.mzero (r3 8 0 0)).isWord = true ∧ (run (.mzero (r3 8 0 0))).team.cl = some (clauseOf (.mzero (r3 8 0 0))) ∧
      words (.mzero (r3 8 0 0)) ≤ (run (.mzero (r3 8 0 0))).team.dl ∧ (Instr.mzero (r3 8 0 0)).wf = false) ∧
    (runT tresI fun t => { t with dl := 1 }).team.dl < words tresI := by decide

theorem test_meets_ByteSpacesKeepForm : ({} : Space).wf = true ∧ (({} : Space).writes 3 0xFFFFFF [1, 0, 2]).wf = true := by decide

theorem test_meets_RollbackIsNeverPassed : (∃ t, step State.reset = .next t) ∧ State.reset.rollback ≤ State.reset.fwVersion := ⟨⟨_, rfl⟩, by decide⟩

theorem test_meets_SpelledWordsDecode : fmtOf (opcOf 0x2F000000#32) = none ∧ fmtOf (opcOf 0x76FFFFFF#32) = none := by decide

/-! ### Hypotheses met: values of the engines -/

/-- An engine request of lane 1 in flight; a page in the tier stands at 0x3_0000. -/
def page3 : Page := { page0 with va := 0x30000, st := .tier, gpa := 0x30000 }
def stage3 : Stage2 := { stage0 with gpa := 0x30000, pa := none }
def engS (q : EngReq) : State :=
  let s := runT endI (waits (pendOf .xc [] (some q)))
  { s with ten := { s.ten with pages := [page0, page3], stage2 := [stage0, stage3] } }
def lane1 (i : Instr) (src sc : List Word) : EngReq := { ins := i, act := maskOf [1], help := 0, src := [(1, src)], sc := sc }
theorem serving (i : Instr) (src sc : List Word) :
    Serving (engS (lane1 i src sc)) (engS (lane1 i src sc)) 0 1 0 0 (pendOf .xc [] (some (lane1 i src sc))) (lane1 i src sc) := by
  refine ⟨⟨rfl, rfl⟩, ⟨rfl, rfl, rfl⟩, rfl, rfl, rfl, fun l h => ?_, nofun, fun _ => rfl⟩
  refine Nat.lt_of_not_le fun h4 => ?_
  have e : (maskOf [1] ||| 0 : Mask) = (2#4).setWidth 1024 := by decide
  have h : (maskOf [1] ||| 0 : Mask).getLsbD l = true := h
  have h4 : 4 ≤ l := h4
  rw [e, BitVec.getLsbD_setWidth, BitVec.getLsbD_of_ge _ _ h4, Bool.and_false] at h
  cases h
/-- A rule for lane 1 is one for every lane of such a request. -/
theorem ruled1 {v : State} {i : Instr} {src sc : List Word} (h : LaneRuled v (lane1 i src sc) 1) :
    ∀ l, ((lane1 i src sc).act ||| (lane1 i src sc).help).getLsbD l = true → LaneRuled v (lane1 i src sc) l := by
  intro l hl
  have hl : (maskOf [1] ||| 0 : Mask).getLsbD l = true := hl
  have e : (maskOf [1] ||| 0 : Mask) = (2#4).setWidth 1024 := by decide
  rw [e, BitVec.getLsbD_setWidth] at hl
  have h4 : l < 4 := by
    refine Nat.lt_of_not_le fun h4 => ?_
    rw [BitVec.getLsbD_of_ge _ _ h4, Bool.and_false] at hl
    cases hl
  have h1 : l = 1 := by
    rcases l with _ | _ | _ | _ | l
    · exact absurd hl (by decide)
    · rfl
    · exact absurd hl (by decide)
    · exact absurd hl (by decide)
    · omega
  rw [h1]; exact h

theorem test_meets_ArrivalsWriteResults_bare :
    ∀ away : Bool, (let q : EngReq := { ins := texI, act := 0xF, help := 0, src := [], sc := [if away then 2 else 1] }
      Placed 0 1 (engS q) (engS q) ∧ Outstanding (engS q).team .xc 0 0 (pendOf .xc [] (some q)) ∧ Fetches texI 10 4 0 ∧ q.act ≠ 0 ∧
        ∀ l, q.act.getLsbD l = true → l < (engS q).team.lanes) :=
  fun _ => ⟨⟨rfl, rfl⟩, ⟨rfl, rfl, rfl⟩, .tex (x6 10 2 4 0 0 0), (by decide : (0xF : Mask) ≠ 0), fun l h => by
    refine Nat.lt_of_not_le fun h4 => ?_
    have h4 : 4 ≤ l := h4
    have : BitVec.getLsbD (0xF : Mask) l = false := by
      have e : (0xF : Mask) = (0xF#4).setWidth 1024 := by decide
      rw [e, BitVec.getLsbD_setWidth, BitVec.getLsbD_of_ge _ _ h4, Bool.and_false]
    have h : BitVec.getLsbD (0xF : Mask) l = true := h
    rw [this] at h; cases h⟩

/-- A descriptor of one texel in FP8 channels, wrapped: at 0x1_0000 filtered by the nearest texel, at 0x3_0000 bilinearly, its latent at
0x1_0000. -/
def oneTexel : List Word := 0x10000#32 :: List.replicate 63 0
def farTexel : List Word := [0x30000#32, 0, 0, 0x400#32, 0x10000#32] ++ List.replicate 59 0
def texldQ (d : List Word) : EngReq := lane1 texldI [0, 0, 0] (0 :: d)
theorem floor0 : FloorOf (fMul 0 (fInt 1)) 0 := by
  have h : f32 (fMul 0 (fInt 1)) = .fin false 0 (-149) := by decide
  unfold FloorOf; rw [h]; norm_num [ratOf]
theorem floorHalf : FloorOf (fSub (fMul 0 (fInt 1)) 0x3F000000) (-1) := by
  have h : f32 (fSub (fMul 0 (fInt 1)) 0x3F000000) = .fin true 8388608 (-24) := by decide
  unfold FloorOf; rw [h]; norm_num [ratOf]
theorem unNan0 : unNan 0 = 0 := if_neg (by unfold IsNan32; decide)
theorem test_meets_ArrivalsWriteResults_texels : ∀ d, d = oneTexel ∨ d = farTexel →
    Serving (engS (texldQ d)) (engS (texldQ d)) 0 1 0 0 (pendOf .xc [] (some (texldQ d))) (texldQ d) ∧ Answers texldI 10 4 (some 0) ∧
      ∀ l, ((texldQ d).act ||| (texldQ d).help).getLsbD l = true → LaneRuled (engS (texldQ d)) (texldQ d) l := by
  have hl (d : List Word) : LevelIs (texldQ d) 1 1 0 1 0 := by
    show NearestLevel 0 (f32 0) 0
    have h : f32 0 = .fin false 0 (-149) := by decide
    rw [h]; simp [NearestLevel]
  have hu (d : List Word) : unNan ((texldQ d).arg 1 0) = 0 ∧ unNan ((texldQ d).arg 1 1) = 0 := ⟨unNan0, unNan0⟩
  have h1 : ∃ f, Footprint 0 1 1 0 0 false [(0, 0)] f := ⟨_, .nearest 0 0 floor0 floor0⟩
  have h4 : ∃ f, Footprint 0 1 1 0 0 true [(0, 0), (0, 0), (0, 0), (0, 0)] f := ⟨_, .bilinear (-1) (-1) floorHalf floorHalf⟩
  obtain ⟨f1, h1⟩ := h1
  obtain ⟨f4, h4⟩ := h4
  intro d hd
  refine ⟨serving _ _ _, .fetch _ _ _ _ (.texld (x6 10 2 4 0 0 0)), ruled1 ?_⟩
  rcases hd with rfl | rfl
  · refine .texels texldI 0x10000 1 1 0 0 0 0 0 false [(0, 0)] [] f1 f1
      ⟨⟨10, 0, .texld (x6 10 2 4 0 0 0)⟩, nofun, rfl, rfl, by constructor <;> decide, hl _, ?_⟩ (.inl (by decide))
    show Footprint 0 _ _ (unNan ((texldQ oneTexel).arg 1 0)) (unNan ((texldQ oneTexel).arg 1 1)) _ _ _
    rw [(hu _).1, (hu _).2]; exact h1
  · refine .texels texldI 0x30000 1 1 0 0 0 0x10000 0 true [(0, 0), (0, 0), (0, 0), (0, 0)] [(0, 0), (0, 0), (0, 0), (0, 0)] f4 f4
      ⟨⟨10, 0, .texld (x6 10 2 4 0 0 0)⟩, nofun, rfl, rfl, by constructor <;> decide, hl _, ?_⟩ (.inr ?_)
    · show Footprint 0 _ _ (unNan ((texldQ farTexel).arg 1 0)) (unNan ((texldQ farTexel).arg 1 1)) _ _ _
      rw [(hu _).1, (hu _).2]; exact h4
    · show Footprint 0 _ _ (unNan ((texldQ farTexel).arg 1 0)) (unNan ((texldQ farTexel).arg 1 1)) _ _ _
      rw [(hu _).1, (hu _).2]; exact h4

/-- A hash grid of two dimensions and one level: table at 0x1_0200, resolution 4, two features, 16 entries; the level was here, or not. -/
def gridQ (mark : Word) : EngReq :=
  lane1 hgfI [0, 0, mark] (0 :: (0x20#32 :: List.replicate 15 0) ++ [0x10200#32, 0, 4, 4])
theorem unit0 : unit01 0 = 0 := by
  have h : ¬ IsNan32 0 := by unfold IsNan32; decide
  have h' : ¬ fOne.toNat < (0 : Word).toNat := by decide
  unfold unit01
  rw [if_neg (fun h' => h'.elim h (by decide)), if_neg h']
theorem cell0 : CellIs 4 [0, 0] (fun _ => 0) fun _ => fSub (fMul 0 (fInt 4)) (fInt 0) := by
  have h : f32 (fMul 0 (fInt 4)) = .fin false 0 (-149) := by decide
  intro e p he
  have hp : p = 0 := by
    rcases e with _ | _ | e
    · exact (Option.some.inj he).symm
    · exact (Option.some.inj he).symm
    · cases he
  subst hp
  rw [unit0]
  refine ⟨0, ?_, rfl, rfl⟩
  unfold FloorOf; rw [show ((4 : Nat) : Int) = 4 from rfl, h]; norm_num [ratOf]
theorem test_meets_ArrivalsWriteResults_grid : ∀ mark : Word,
    Serving (engS (gridQ mark)) (engS (gridQ mark)) 0 1 0 0 (pendOf .xc [] (some (gridQ mark))) (gridQ mark) ∧
      ∀ l, ((gridQ mark).act ||| (gridQ mark).help).getLsbD l = true → LaneRuled (engS (gridQ mark)) (gridQ mark) l :=
  fun mark => ⟨serving _ _ _, ruled1 (.grid 2 1 [0, 0] [mark] (by
    have e : (gridQ mark).desc = (gridQ 0).desc := rfl
    refine ⟨⟨_, rfl, ?_⟩, rfl, ?_, ?_, ⟨rfl, rfl⟩, rfl, fun a ha => ?_⟩
    · show levelBase (gridQ mark) 1 = _
      unfold levelBase; rw [e]; decide
    · show 2 = numAt (gridQ mark).desc 0 1 / 16 ∧ _
      rw [e]; decide
    · show 1 = numAt (gridQ mark).desc 0 1 % 16 + 1 ∧ (gridQ mark).desc.length = _
      rw [e]; decide
    · obtain rfl : a = 0 := by omega
      show ∃ g f, CellIs (numAt (gridQ mark).desc (72 + 16 * 0) 4) [0, 0] g f
      rw [e, show numAt (gridQ 0).desc (72 + 16 * 0) 4 = 4 by decide]
      exact ⟨_, _, cell0⟩))⟩

/-- A ray from the origin along z, from 0 to 1. -/
def rayArgs : List Word := [0, 0, 0, 0, 0, 0x3F800000, 0, 0x3F800000]
def rayQ (args : List Word) (lo hi : Word) : EngReq := lane1 traceI args [lo, hi]
theorem test_meets_ArrivalsWriteResults_rays (args : List Word) (lo hi : Word) :
    Serving (engS (rayQ args lo hi)) (engS (rayQ args lo hi)) 0 1 0 0 (pendOf .xc [] (some (rayQ args lo hi))) (rayQ args lo hi) ∧
      (∃ d, Answers traceI d 8 none) ∧
      ∀ l, ((rayQ args lo hi).act ||| (rayQ args lo hi).help).getLsbD l = true → LaneRuled (engS (rayQ args lo hi)) (rayQ args lo hi) l :=
  ⟨serving _ _ _, ⟨_, .trace _⟩, ruled1 (.ray _ rfl)⟩

def tviewQ : EngReq := { ins := .tview (x6 10 2 4 6 0 0), act := 3, help := 0, src := [(0, [0#32]), (1, [5#32])], sc := [0x301#32] }
theorem test_meets_ArrivalsWriteResults_views :
    Placed 0 1 (runW endI (waits (pendOf .tc [] (some tviewQ)))) (runW endI (waits (pendOf .tc [] (some tviewQ)))) ∧
    Outstanding (runW endI (waits (pendOf .tc [] (some tviewQ)))).team .tc 0 0 (pendOf .tc [] (some tviewQ)) ∧
    (runW endI (waits (pendOf .tc [] (some tviewQ)))).selector 0x301 true = some (world3, 1) ∧
    (runW endI (waits (pendOf .tc [] (some tviewQ)))).poolStop
      (mapReads world3 ((runW endI (waits (pendOf .tc [] (some tviewQ)))).viewTick world3) 1) [] = none ∧ (tviewQ.src.map (·.1)).Nodup ∧
    ∀ x ∈ tviewQ.src, x.1 < 1024 :=
  ⟨⟨rfl, rfl⟩, ⟨rfl, rfl, rfl⟩, by decide, by decide, by decide, by decide⟩

/-! ### Hypotheses met: further clauses of the units -/

/-- A drain with transfers left, some in flight, or none. -/
def drainR2 (ws : List (Nat × Nat × Nat)) (fly : List (Nat × List Byte)) : Rec := .drain 0 0 ws fly []
theorem test_meets_MemoryUnitsStep_drains :
    (∀ ws fly, Opened 0 (queuedS [drainR2 ws fly] (buf .draining false)) (opened (queuedS [drainR2 ws fly] (buf .draining false))) ∧
      findBy (·.id) 9 (opened (queuedS [drainR2 ws fly] (buf .draining false))).ten.queued = some (batchOf [drainR2 ws fly]) ∧
      Placed 0 1 (queuedS [drainR2 ws fly] (buf .draining false)) (queuedS [drainR2 ws fly] (buf .draining false)) ∧
      (queuedS [drainR2 ws fly] (buf .draining false)).core.entry? 0 = some (buf .draining false) ∧
      (queuedS [drainR2 ws fly] (buf .draining false)).team.wait ≠ .ended) ∧
    (∀ b ∈ [batchOf [copyR, copyR], batchOf [atomR]], NoneSent (opened (queuedS b.recs (buf .full false))) b) ∧
    (∀ st, (opened (pagerS st)).ten.away = []) :=
  ⟨fun _ _ => ⟨⟨rfl, rfl⟩, rfl, ⟨rfl, rfl⟩, rfl, nofun⟩, by unfold NoneSent; decide, fun _ => rfl⟩

/-- A clause of class `e` at `h` with these words. -/
def clauseAt (h e : Nat) (ws : List Word) (ps : List Page) : State :=
  let s := runT endI fun _ => { team0 with cl := none, pc := BitVec.ofNat 56 h }
  { s with ten := { s.ten with
    main := ({} : Space).inits h (leBytes 4 (2 ^ 28 * ws.length + 2 ^ 25 * e) ++ ws.flatMap leWord), pages := ps
    stage2 := ps.map fun p => { stage0 with gpa := p.gpa, pa := if p.st = .hbm then some 0 else none } } }
/-- The page of the code in the tier, and one behind it. -/
def awayPage : Page := { page0 with st := .tier }
def nextPage : Page := { page0 with va := 0x20000, st := .tier, gpa := 0x20000 }
/-- What a clause decode at this state meets. -/
def MeetsAt (s : State) (h : Nat) : Prop :=
  s.ready = true ∧ s.issues = true ∧ s.ten.fetchCheck (codeBytes (BitVec.ofNat 56 h) 1) = .ok ∧ GoodHeader (s.ten.fetchWord s.ctr s.team.floor h)
/-- Words of a clause: `NOP`, `ENDT`, the first word of `SCMP`, of `SMOVI` with its second, of a branch with its second, one of class 1, one unassigned. -/
def wNop : Word := (encode (.nop (r3 0 0 0))).headD 0
def wEnd : Word := (encode endI).headD 0
def wCmp : Word := (encode (.scmp (x6 2 4 6 0 3 0))).headD 0
def wMov : List Word := encode (.smovi (i3 2 0 0 7))
def wBr : List Word := encode (.brCond (i3 0 1 0 0))
def wTex : Word := 0xB0000000
def wBad : Word := 0x2F000000
theorem test_meets_TeamUnitsStep_misshapen :
    Misshapen 0 [wBad] 0 1 ∧ Misshapen 0 [wTex, 0] 0 3 ∧ Misshapen 0 [wCmp] 0 5 ∧ Misshapen 0 [wEnd, wNop] 0 4 ∧ Misshapen 0 (wBr ++ [wNop]) 0 4 ∧
      Misshapen 0 [wNop, wBad] 1 1 ∧ Misshapen 0 (wMov ++ [wBad]) 2 1 ∧
    ∀ ws ∈ [[wBad], [wTex, 0], [wCmp], [wEnd, wNop], wBr ++ [wNop], [wNop, wBad], wMov ++ [wBad]],
      Placed 0 1 (clauseAt 0x10000 0 ws [page0]) (clauseAt 0x10000 0 ws [page0]) ∧ (clauseAt 0x10000 0 ws [page0]).team.cl = none ∧
      (clauseAt 0x10000 0 ws [page0]).team.hdr.getD (clauseAt 0x10000 0 ws [page0]).team.pc = 0x10000 ∧
      MeetsAt (clauseAt 0x10000 0 ws [page0]) 0x10000 ∧
      (clauseAt 0x10000 0 ws [page0]).ten.fetchCheck (codeBytes (0x10000 + 4#56) ws.length) = .ok ∧
      (List.range ws.length).map (fun i => (clauseAt 0x10000 0 ws [page0]).ten.fetchWord 0 [] (0x10000 + 4 * (i + 1))) = ws := by
  refine ⟨.opcode _ _ (by decide), .cls _ _ (by decide) (by decide) (by decide), .straddle _ (by decide) (.inl (by decide)),
    .early1 _ _ (by decide) (.inl (by decide)) (by decide) (by decide), .early2 _ _ _ (by decide) (.inl (by decide)) (by decide) (by decide),
    .after1 _ _ _ _ (by decide) (.inl (by decide)) (.inl (by decide)) (.opcode _ _ (by decide)),
    .after2 _ _ _ _ _ (by decide) (.inl (by decide)) (.inl (by decide)) (.opcode _ _ (by decide)), fun ws h => ?_⟩
  fin_cases h <;> exact ⟨⟨rfl, rfl⟩, rfl, rfl, by unfold MeetsAt GoodHeader; decide, by decide, by decide⟩
theorem test_meets_TeamUnitsStep_pages :
    (Placed 0 1 (clauseAt 0x10000 0 [wNop] [awayPage]) (clauseAt 0x10000 0 [wNop] [awayPage]) ∧
      ∃ ps, (clauseAt 0x10000 0 [wNop] [awayPage]).ten.fetchCheck (codeBytes 0x10000 1) = .absent ps) ∧
    (Placed 0 1 (clauseAt 0x1FFFC 0 [wNop] [page0]) (clauseAt 0x1FFFC 0 [wNop] [page0]) ∧ MeetsAt (clauseAt 0x1FFFC 0 [wNop] [page0]) 0x1FFFC ∧
      ∃ sub va, (clauseAt 0x1FFFC 0 [wNop] [page0]).ten.fetchCheck (codeBytes (0x1FFFC + 4#56) 1) = .bad sub va) ∧
    Placed 0 1 (clauseAt 0x1FFFC 0 [wNop] [page0, nextPage]) (clauseAt 0x1FFFC 0 [wNop] [page0, nextPage]) ∧
      MeetsAt (clauseAt 0x1FFFC 0 [wNop] [page0, nextPage]) 0x1FFFC ∧
      ∃ ps, (clauseAt 0x1FFFC 0 [wNop] [page0, nextPage]).ten.fetchCheck (codeBytes (0x1FFFC + 4#56) 1) = .absent ps :=
  ⟨⟨⟨rfl, rfl⟩, [0x10000], by decide⟩, ⟨⟨rfl, rfl⟩, by unfold MeetsAt GoodHeader; decide, 0, 0x20000, by decide⟩, ⟨rfl, rfl⟩, by unfold MeetsAt GoodHeader; decide, [0x20000], by decide⟩

/-- A member of gang 1 whose LAUNCH request is open. -/
def openGang : Gang := { gang3 2 [] with q := some (ask 6 (launchP gangP 1)) }
def openGangS : State :=
  let s := run endI
  { s with ten := { s.ten with launches := [{ launch0 with gang := some openGang }] } }
theorem test_meets_ContextAndGangSteps_open :
    (gang3 0 []).q = none ∧ Opened 0 openGangS (opened openGangS) ∧ Member (opened openGangS) 1 1 openGang ∧
      (opened openGangS).ten.binWait = [] ∧ openGang.q = some (ask 6 (launchP gangP 1)) ∧ openGang.decided = none :=
  ⟨rfl, ⟨rfl, rfl⟩, rfl, rfl, rfl, rfl⟩

/-- A part of two writes; a part that one mapping carried. -/
def twoQ : PeerOp := { peerQ 0 [1, 2, 3] with part := [.write 3 0x10008 [7]] }
def farPage : Page := { page0 with va := 0x20000, st := .remote, peer := 2, gpa := 0x20000 }
def farMap : PeerMap := { idx := 2, peer := 77, pten := 0, win := 3, lva := 0x20000, len := 0x10000, rva := 0, failed := false }
def farS : State :=
  let s := run endI
  { s with ten := { s.ten with
    pages := [page0, farPage], stage2 := [stage0, { stage0 with gpa := 0x20000, pa := none }], peers := [farMap]
    queued := [{ batchOf [.copy [(0x20000, [1, 2])]] with parts := [2], sent := true }] } }
theorem test_meets_PeerSteps_parts :
    (twoQ.part = [.write 3 0x10008 [7]] ∧ ([7] : List Byte) ≠ [] ∧ (3 : Word).toNat / 65536 = twoQ.rkey.toNat / 65536 ∧
      PeerMay twoQ .w twoQ.data.length peerS (opened peerS) ∧ PeerMay { twoQ with rkey := 3, va := 0x10008 } .w 1 peerS (opened peerS)) ∧
    Opened 0 farS (opened farS) ∧ (∃ x, findBy (·.id) 9 (opened farS).ten.queued = some x ∧ x.sent = true ∧ 2 ∈ x.parts) ∧
      (opened farS).ten.partMaps 9 2 = [farMap] :=
  ⟨⟨rfl, by decide, by decide, peerMay_run _ _ _ rfl rfl rfl (by decide), peerMay_run _ _ _ rfl rfl rfl (by decide)⟩, ⟨rfl, rfl⟩, ⟨_, rfl, rfl, .head _⟩, by decide⟩

theorem test_meets_MigrationAndCheckpointSteps_pushes :
    (opened (migS (migOf true [0x10000, 0x20000]))).ten.mig = some (migOf true [0x10000, 0x20000]) ∧ (migOf true [0x10000, 0x20000]).moved = true ∧
      (migOf true [0x10000, 0x20000]).left = 0x10000 :: [0x20000] ∧ (takeOf 1).recorded = false ∧ (takeOf 1).waitva ≠ 0 :=
  ⟨rfl, rfl, rfl, rfl, by decide⟩

/-- An image of an old version, which no root of trust with this anti-rollback value accepts. -/
def oldImage : FwImage := { version := 1, body := [], sig := [], key := [] }
def rolled (v : Nat) (ds : List (BitVec 512)) : State := { State.reset with rollback := 2, fwVersion := v, fwDigests := ds }
/-- The module clock after a corrected error of a unit. -/
def eccAt : Nat := (after (exec (.eccError (.core 0 3) true) (run endI)) (run endI)).timeNs
theorem test_meets_ModuleUnitsStep_images :
    (∀ v ds, (rolled v ds).power = .off ∧ ¬ Trusted (rolled v ds) oldImage) ∧ ([0] : List (BitVec 512)) ≠ [] ∧ (rolled 2 [0]).rollback ≤ (rolled 2 [0]).fwVersion ∧
    ((rolled 0 []).fwDigests = [] ∧ (rolled 0 [0]).fwVersion < (rolled 0 [0]).rollback) ∧
    (run endI).power ≠ .off ∧ ({ run endI with power := .outOfService } : State).power ≠ .off :=
  ⟨fun _ _ => ⟨rfl, fun h => absurd (show 2 ≤ 1 from h.2.2) (by decide)⟩, by decide, by decide, ⟨rfl, by decide⟩, nofun, nofun⟩
theorem eccTime (xs : List (HwUnit × Nat)) (es : List HwUnit) :
    (after (exec (.eccError (.core 0 3) true) { run endI with once := xs, errors := es }) (run endI)).timeNs = eccAt := by
  show (State.again _ _).timeNs = _
  unfold State.again; dsimp only
  split <;> rfl
theorem test_meets_ModuleUnitsStep_errors :
    (∀ xs : List (HwUnit × Nat), ∀ es : List HwUnit, ({ run endI with once := xs, errors := es } : State).power = .up ∧
      (after (exec (.eccError (.core 0 3) true) { run endI with once := xs, errors := es }) (run endI)).timeNs = eccAt) ∧
    (∃ x, (HwUnit.core 0 3, x) ∈ [(HwUnit.core 0 3, eccAt)] ∧ eccAt - x ≤ 1000000000) ∧ (∀ x, (HwUnit.core 0 3, x) ∉ ([] : List (HwUnit × Nat))) ∧
    HwUnit.regfile 0 1 ∈ [HwUnit.regfile 0 1] ∧ HwUnit.core 3 3 ∈ [HwUnit.core 3 3] ∧ HwUnit.core 0 3 ∉ (run endI).errors :=
  ⟨fun _ _ => ⟨rfl, eccTime _ _⟩, ⟨_, .head _, by omega⟩, nofun, .head _, .head _, nofun⟩

/-- An operation that has started, with macro 0 in state `mac`, in a scratchpad that holds `bs` from address 0. -/
def opOf (i : Instr) (sc : List Word) : MatOp := { mopOf i true with sc := sc, spad := true }
def opS (i : Instr) (sc : List Word) (mac : Mac) (bs : List Byte) : State :=
  let s := mopS i true
  { s with ten := { s.ten with mops := [opOf i sc], scratch := [(0, some (({} : Space).inits 0 bs))] }, core := { s.core with macs := [mac, {}, {}, {}] } }
/-- The operation is due, and its team stands in the state with its result outstanding. -/
def Due (s : State) (m : MatOp) : Prop :=
  Opened 0 s (opened s) ∧ (opened s).ten.op? 4 = some m ∧ m.started = true ∧ Placed 0 m.team (opened s) s ∧ m.ins.wf = true ∧ s.core.macs.length = 4 ∧
    s.team.pend.findIdx? (fun p => p.mop == 4 && p.kind == .mc) = some 0 ∧ s.team.pend[0]? = some mopP ∧ mopP.ws = []
theorem due {i : Instr} (h : i.wf = true) (sc : List Word) (mac : Mac) (bs : List Byte) : Due (opS i sc mac bs) (opOf i sc) :=
  ⟨⟨rfl, rfl⟩, rfl, rfl, ⟨rfl, rfl⟩, h, rfl, rfl, rfl, rfl⟩
/-- With no buffer open every byte of an empty scratchpad is an operand byte. -/
theorem zeros (i : Instr) (sc : List Word) (mac : Mac) (x : Nat) : OperandByte (opS i sc mac []) (opOf i sc) x 0 :=
  .inr ⟨rfl, rfl, rfl⟩
def mmaI : Instr := .mma (x6 7 0 1 63 8 0)
def moutlI : Instr := .moutl (x6 0 0 1 132 0 0)
/-- An outlier whose reserved bits are not 0. -/
def badList : List Byte := [0, 0, 1, 0, 0, 0, 0, 0]
theorem test_meets_MatrixUnitsStep_values :
    (∀ sc mac bs, Due (opS mmaI sc mac bs) (opOf mmaI sc)) ∧ ({ keyMode := true } : Mac).keyMode = true ∧ bitsOf 8 ≠ bitsOf ({ bfmt := 10 } : Mac).bfmt ∧
    (({} : Mac).keyMode = false ∧ bitsOf 8 = bitsOf ({} : Mac).bfmt ∧
      (∀ x, x < rowBytes (x6 7 0 1 63 8 0) → OperandByte (opS mmaI [] {} []) (opOf mmaI []) x 0) ∧
      (∀ i k, Owns (opOf mmaI []) i → i ≤ 63 → k < blocks 8 →
        ((List.range 256).map fun n => blockSum 8 {} (fun _ => 0) i n k).sum = checkSum 8 {} (fun _ => 0) i k)) ∧
    (∀ sc mac bs, Due (opS moutlI sc mac bs) (opOf moutlI sc)) ∧
    ((opOf moutlI [1]).sc = [1] ∧ (∀ x, x < 8 * (1 : Word).toNat → OperandByte (opS moutlI [1] {} []) (opOf moutlI [1]) x 0) ∧
      ∀ k, k < (1 : Word).toNat → goodOutlier {} (outlier (fun _ => 0) k) = true) ∧
    ((∀ x, x < 8 * (1 : Word).toNat → OperandByte (opS moutlI [1] {} badList) (opOf moutlI [1]) x (badList.getD x 0)) ∧
      goodOutlier {} (outlier (fun x => badList.getD x 0) 0) = false) ∧
    (Due (opS (.mldb (x6 0 1 0 0 8 0)) [] {} []) (opOf (.mldb (x6 0 1 0 0 8 0)) []) ∧
      ∀ x, x < 98304 → OperandByte (opS (.mldb (x6 0 1 0 0 8 0)) [] {} []) (opOf (.mldb (x6 0 1 0 0 8 0)) []) x 0) ∧
    (Due (opS (.xldb (x6 0 16 4 0 0 0)) [64] {} []) (opOf (.xldb (x6 0 16 4 0 0 0)) [64]) ∧ 16 ∉ (opOf (.xldb (x6 0 16 4 0 0 0)) [64]).taint) ∧
    (Due (opS (.xcmp (x6 7 0 1 0 0 0)) [] {} []) (opOf (.xcmp (x6 7 0 1 0 0 0)) []) ∧ 1 ∉ (opOf (.xcmp (x6 7 0 1 0 0 0)) []).taint) ∧
    ∀ i ∈ [Instr.mzero (r3 7 0 0), .mrd (x6 16 0 4 5 0 0), .xrow (x6 255 7 0 0 0 0), .xcol (x6 0 7 0 0 0 0), .xclos (x6 0 7 0 0 0 0), .xcomp (r3 0 1 7),
        .xtrn (r3 0 7 0), .xlog (x6 0 1 7 0 0 0), .xset (x6 7 0 0 0 0 0), .xmov (x6 16 7 0 0 0 0), .xmov (x6 7 16 0 0 1 0)],
      ∀ sc, Due (opS i sc {} []) (opOf i sc) ∧ 16 ∉ (opOf i sc).taint ∧ 17 ∉ (opOf i sc).taint := by
  refine ⟨fun _ _ _ => due (by decide) _ _ _, rfl, by decide, ⟨rfl, rfl, fun x _ => zeros _ _ _ x, fun i k _ _ _ => ?_⟩, fun _ _ _ => due (by decide) _ _ _,
    ⟨rfl, fun x _ => zeros _ _ _ x, fun k hk => ?_⟩, ⟨fun x hx => .inr ⟨rfl, rfl, ?_⟩, by decide⟩, ⟨due (by decide) _ _ _, fun x _ => zeros _ _ _ x⟩,
    ⟨due (by decide) _ _ _, by decide⟩, ⟨due (by decide) _ _ _, by decide⟩, fun i h sc => ⟨due ?_ _ _ _, nofun, nofun⟩⟩
  · simp [blockSum, checkSum, element]
  · obtain rfl : k = 0 := by have : k < 1 := hk; omega
    decide
  · have hx : x < 8 := hx
    interval_cases x <;> decide
  · fin_cases h <;> decide

/-! ### Hypotheses met: clauses added later -/

/-- An open phase whose atomic record uses the page. -/
def usingS : State := runT endI fun t => { t with batch := [atomR], cl := none }
theorem test_meets_PagerSteps_uses :
    (0x10000 ∉ (opened (pagerS .tier)).ten.unwell ∧ (opened (pagerS .tier)).ten.away = []) ∧
    Opened 0 usingS (opened usingS) ∧ InOrder (opened usingS).ten ∧ NoneStarted (opened usingS).ten ((opened usingS).ten.users 0x10000 4096) ∧
    ∃ x ∈ (opened usingS).ten.teams, UsesRange (opened usingS) 0x10000 4096 x := by
  refine ⟨⟨by decide, rfl⟩, ⟨rfl, rfl⟩, by unfold InOrder; decide, ?_, (opened usingS).ten.teams.headD team0, by decide, ?_⟩
  · intro m hm; cases hm
  · exact ⟨by decide, .inl ⟨atomR, by decide, 0x10000, by decide, by decide, by decide⟩⟩

/-- World 3 with its report beside the pool. -/
def worldR : World := { world3 with report := 0x18000 }
def syncS : State :=
  let s := launchS syncRec .released 0 0
  { s with ten := { s.ten with worlds := [worldR] } }
theorem objPage_page0 {t : Tenant} (hp : t.pages = [page0]) (hg : t.stage2 = [stage0]) {a : Nat} (h1 : 0x10000 ≤ a) (h2 : a < 0x20000) :
    t.objPage a = .here := by
  unfold Tenant.objPage
  rw [pageAt_page0 hp hg h1 h2]
  rfl
theorem worldR_inOrder : WorldInOrder (opened syncS).ten worldR fun _ => [] := by
  refine ⟨by decide, fun k _ => ⟨rfl, nofun, .nil, fun i => ⟨nofun, fun h => absurd h.1 (by show ¬ (0 : Nat) = 2; decide)⟩⟩, fun i _ => rfl, by decide, by decide, by decide,
    fun a h1 h2 => ⟨objPage_page0 rfl rfl h1 (Nat.lt_trans h2 (by decide)), rfl⟩, nofun, objPage_page0 rfl rfl (by decide) (by decide),
    objPage_page0 rfl rfl (by decide) (by decide), by decide⟩
theorem test_meets_LaunchUnitsStep_sync :
    Opened 0 syncS (opened syncS) ∧ (opened syncS).ten.launch? 1 = some (oneLaunch syncRec .released 0) ∧ syncRec.kind = 3 ∧
      (opened syncS).ten.world? syncRec.named = some worldR ∧ worldR.d = none ∧ (WorldInOrder (opened syncS).ten worldR fun _ => []) ∧
      (∀ p ∈ (opened syncS).ten.pages, p.st ≠ .tier ∧ p.st ≠ .stored) ∧ (opened syncS).ten.binWait = [] ∧ syncRec.done = 0 ∧
      worldR.rebuild (opened syncS).ten (opened syncS).ctr worldR.applyAll ≠ none :=
  ⟨⟨rfl, rfl⟩, rfl, rfl, rfl, rfl, worldR_inOrder, by decide, rfl, rfl, by decide⟩

/-- A query of world 3 over component 1, and a launch of it. -/
def queryS : State :=
  let s := launchS { rec0 with kind := 1, blocks := 3, teams := 1 } .queued 0 0
  { s with ten := { s.ten with queries := [{ world := 3, id := 0, req := 2, rd := 2, wr := 0 }] } }
theorem test_meets_LaunchUnitsStep_query :
    Opened 0 queryS (opened queryS) ∧ ∃ x q, (opened queryS).ten.launch? 1 = some x ∧ x.st = .queued ∧ WaitMet (opened queryS).ten x ∧
      (opened queryS).ten.holds x = false ∧ x.rc.kind = 1 ∧ x.rc.coop = false ∧ (opened queryS).ten.query? x.rc = some q ∧
      (opened queryS).ten.world? x.rc.named = some world3 ∧ q.req ≠ 0 :=
  ⟨⟨rfl, rfl⟩, _, _, rfl, rfl, .inl rfl, by decide, rfl, rfl, rfl, rfl, by decide⟩

/-- The pane's context has a sector on its way. -/
def busyS : State :=
  let s := quantumS true
  { s with ten := { s.ten with sectors := [{ sector4 with cur := false, got := none }] } }
theorem test_meets_ContextAndGangSteps_waits :
    (∃ c, (opened (quantumS false)).ten.ctx? 0 = some c) ∧
    (Opened 0 busyS (opened busyS) ∧ (opened busyS).ten.pane? 0 = some pane0 ∧ (opened busyS).ten.nextCtx pane0 = some 1 ∧
      ∃ u1, u1 = (opened busyS).dropTeams (((opened busyS).ten.teamsIn ((opened busyS).ten.paneBlocks 0 0)).map (·.key)) ∧
        (∃ c, u1.ten.ctx? 0 = some c) ∧ u1.ten.quiet (u1.ten.paneBlocks 0 0) = false) ∧
    (Opened 0 (run endI) (opened (run endI)) ∧ (opened (run endI)).ten.member? 1 = none ∧ ∀ d ∈ (opened (run endI)).ten.gangDec, d.1.toNat ≠ 1) ∧
    ((opened lostS).ten.pane? 0 = some pane0 ∧ 0 ∈ ({ num := 0, stalled := [0] } : Ctx).stalled ∧ (opened lostS).ten.binWait = []) :=
  ⟨⟨_, rfl⟩, ⟨⟨rfl, rfl⟩, rfl, by decide, _, rfl, ⟨_, rfl⟩, by decide⟩, ⟨⟨rfl, rfl⟩, rfl, nofun⟩, rfl, by decide, rfl⟩

theorem test_meets_MemoryUnitsStep_atomic : (0 : Nat) < 8 ∧ ¬ ((0 : Nat) = 1 ∨ (0 : Nat) = 2) ∧ ((0 : Nat) ≠ 0 ∨ (0 : Nat) ≠ 3) := by decide

theorem test_meets_MigrationAndCheckpointSteps_take :
    (takeOf 0).tab = none ∧ (takeOf 1).tab = none ∧ ((opened takenS).ckpts.map fun x => (x.tenant, x.seq)).Nodup ∧
      (∀ x ∈ (opened takenS).ckpts, x.tenant = 0 → x.seq ≤ ckpt0.seq) ∧ ∀ b ∈ (opened takenS).buddies, b.2.tenant = 0 → b.2.seq < ckpt0.seq :=
  ⟨rfl, rfl, by decide, by decide, nofun⟩

/-- A TAKE whose shard requests lie in a table at 0x1_0000: one STATE shard. -/
def tableP : List Byte := leBytes 4 0 ++ leBytes 4 1 ++ leBytes 8 12 ++ leBytes 8 0x10000 ++ leBytes 8 3 ++ leBytes 16 88 ++ leBytes 8 0x10000
def tabled (t : Tenant) : Tenant := { t with main := ({} : Space).inits 0x10000 (leBytes 4 1) }
def tierPage : Page := { page0 with st := .tier }
def tierS (t : Tenant) : Tenant := { t with pages := [tierPage] }
theorem test_meets_TenantRequestsComplete_table :
    (Accepted (ask 10 tableP) 10 (hostS tabled) (hosted tabled) ∧ arg (ask 10 tableP) 4 4 = 1 ∧ arg (ask 10 tableP) 48 8 = 0x10000 ∧ tableP.length = 56 ∧
      HostMay false 0x10000 (24 * 1) (hosted tabled) ∧ shardsOk ((hosted tabled).ten.main.gets 0x10000 (24 * 1)) 1 = true) ∧
    (Accepted (ask 10 tableP) 10 (hostS tierS) (hosted tierS) ∧
      (∀ a, 0x10000 ≤ a → a < 0x10000 + 24 * 1 → (hosted tierS).ten.poisoned a = false ∧ ∃ p, (hosted tierS).ten.pageAt a = some p ∧ p.st ≠ .remote) ∧
      (hosted tierS).ten.missing ((hosted tierS).ten.pageVAs (span 0x10000 (24 * 1))) ≠ []) ∧
    ∀ m, ∀ p ∈ (ckptV m).image.panes, ∀ r ∈ (tracked (ckptS m)).ten.panes, r.num = p.num → r.bay / 8 = p.bay / 8 := by
  refine ⟨⟨acceptedIn _ _ _ ⟨rfl, rfl⟩ (by decide) (by decide) (by decide), rfl, rfl, rfl, hostMay rfl rfl rfl (by decide) (by decide), by decide⟩,
    ⟨acceptedIn _ _ _ ⟨rfl, rfl⟩ (by decide) (by decide) (by decide), fun a h1 h2 => ⟨rfl, ?_⟩, by decide⟩, fun m => nofun⟩
  have h2 : a < 0x10018 := h2
  interval_cases a <;> exact ⟨_, rfl, by decide⟩

/-- An MLDB with a scale fetch of 256 bytes or more from 0x1_0000, whose page is `ps`. -/
def fetchI : Instr := .mldb (x6 0 1 0 0 8 1)
def fetchS (ps : List Page) (bays : List Pane) : State :=
  let s := mopS fetchI false
  { s with ten := { s.ten with pages := ps, panes := bays } }
def stopKind (s : State) : Nat :=
  match s.pageStop { r := true, w := false, remote := false } (mopOf fetchI false).fetch with | some (.access _ _ _ _) => 1 | some (.fault _) => 2 | _ => 0
theorem stop_ending {s : State} (h : stopKind s = 1) :
    ∃ c u i a, s.pageStop { r := true, w := false, remote := false } (mopOf fetchI false).fetch = some (.access c u i a) := by
  unfold stopKind at h; split at h
  · next e => exact ⟨_, _, _, _, e⟩
  · exact absurd h (by decide)
  · exact absurd h (by decide)
set_option maxRecDepth 100000 in
theorem fetch_faults : ∀ bays ∈ [[pane0], []],
    (fetchS [tierPage] bays).pageStop { r := true, w := false, remote := false } (mopOf fetchI false).fetch = some (.fault [0x10000]) := by
  intro bays h
  fin_cases h <;> decide
theorem test_meets_MatrixUnitsStep_faults :
    (Opened 0 (fetchS [] [pane0]) (opened (fetchS [] [pane0])) ∧ (opened (fetchS [] [pane0])).ten.op? 4 = some (mopOf fetchI false) ∧
      (opened (fetchS [] [pane0])).ten.opFree (mopOf fetchI false) = true ∧ Placed 0 1 (opened (fetchS [] [pane0])) (fetchS [] [pane0]) ∧
      ∃ c u i a, (fetchS [] [pane0]).pageStop { r := true, w := false, remote := false } (mopOf fetchI false).fetch = some (.access c u i a)) ∧
    ∀ bays ∈ [[pane0], []], Opened 0 (fetchS [tierPage] bays) (opened (fetchS [tierPage] bays)) ∧
      (opened (fetchS [tierPage] bays)).ten.op? 4 = some (mopOf fetchI false) ∧ Placed 0 1 (opened (fetchS [tierPage] bays)) (fetchS [tierPage] bays) ∧
      (fetchS [tierPage] bays).pageStop { r := true, w := false, remote := false } (mopOf fetchI false).fetch = some (.fault [0x10000]) ∧
      NoneStarted (fetchS [tierPage] bays).ten [(fetchS [tierPage] bays).team.key] ∧
      ((fetchS [tierPage] bays).ten.framesOf (union (fetchS [tierPage] bays).team.retained [0x10000]) ≤
          (fetchS [tierPage] bays).tenChannels * 32768 - (fetchS [tierPage] bays).ten.pinned ↔ bays = [pane0]) := by
  refine ⟨⟨⟨rfl, rfl⟩, rfl, by decide, ⟨rfl, rfl⟩, stop_ending (by decide)⟩, fun bays h => ?_⟩
  have e := fetch_faults bays h
  fin_cases h <;> refine ⟨⟨rfl, rfl⟩, rfl, ⟨rfl, rfl⟩, e, ?_, by decide⟩ <;> (unfold NoneStarted; decide)

/-! ### Hypotheses met: clauses of operands, windows, atomics, gangs, checkpoints -/

theorem test_meets_PrivilegeIsChecked_operands :
    (Can (.ldovt (r3 0 131 0)) id ∧ ((runT (.ldovt (r3 0 131 0)) id).sval 131).toNat / 4 ^ 0 % 4 = 3) ∧
    (Can (.ldovt (r3 0 4 0)) (withS [(4, 256)]) ∧ 256 ≤ ((runT (.ldovt (r3 0 4 0)) (withS [(4, 256)])).sval 4).toNat) ∧
    (Can (.prd (r3 2 134 0)) inHandler ∧ 6 ≤ ((runT (.prd (r3 2 134 0)) inHandler).sval 134).toNat) ∧
    (Can (.pwr (r3 0 130 133)) inHandler ∧ ((runT (.pwr (r3 0 130 133)) inHandler).sval 130).toNat ≤ 2) ∧
    (Can (.pwr (r3 0 134 133)) id ∧ 6 ≤ ((runT (.pwr (r3 0 134 133)) id).sval 134).toNat) ∧
    Can (.pwr (r3 0 132 134)) id ∧ ((runT (.pwr (r3 0 132 134)) id).sval 132).toNat = 4 ∧ 6 ≤ ((runT (.pwr (r3 0 132 134)) id).sval 134).toNat :=
  ⟨⟨⟨rfl, rfl, by decide⟩, by decide⟩, ⟨⟨rfl, rfl, by decide⟩, by decide⟩, ⟨⟨rfl, rfl, by decide⟩, by decide⟩, ⟨⟨rfl, rfl, by decide⟩, by decide⟩,
    ⟨⟨rfl, rfl, by decide⟩, by decide⟩, ⟨rfl, rfl, by decide⟩, by decide, by decide⟩

/-- A window without the permissions; its source is any address. -/
def shutS : State :=
  let s := run endI
  { s with ten := { s.ten with windows := [{ window3 with r := false, w := false, a := false }] } }
theorem turnedAway {s : State} {q : PeerOp} {use : WinUse} {n : Nat} {x : Window} (e : findBy (·.id) (q.rkey.toNat % 65536) s.ten.windows = some x)
    (h : x.grants use = false ∨ (∀ p ∈ x.pfx, prefixHas q.src p = false) ∨ q.va.toNat < x.va ∨ x.va + x.len < q.va.toNat + n) : TurnedAway q use n s :=
  fun y hy => by rw [e] at hy; obtain rfl := Option.some.inj hy; exact h
/-- The last byte of the window, the first behind it, and one before it. -/
def edgeQ (va : DWord) (n : Nat) : PeerOp := { peerQ n (List.replicate n 1) with va := va }
theorem test_meets_PeerSteps_refused :
    (peerS.power = .up ∧ Opened ((edgeQ 0x1FFFF 2).rkey.toNat / 65536) peerS (opened peerS)) ∧
    (∀ use, TurnedAway (edgeQ 0x1FFFF 2) use 2 (opened peerS) ∧ ¬ TurnedAway (edgeQ 0x1FFFE 2) use 2 (opened peerS) ∧
      TurnedAway (edgeQ 0xFFFF 1) use 1 (opened peerS)) ∧
    (Opened 0 shutS (opened shutS) ∧ ∀ use, TurnedAway (edgeQ 0x10000 8) use 8 (opened shutS)) ∧
    (edgeQ 0x1FFFC 8).va.toNat % 8 ≠ 0 ∧ (edgeQ 0x20000 8).va.toNat % 8 = 0 ∧ TurnedAway (edgeQ 0x20000 8) .a 8 (opened peerS) := by
  refine ⟨⟨rfl, ⟨rfl, rfl⟩⟩, fun use => ⟨turnedAway rfl (.inr (.inr (.inr (by decide)))), fun h => ?_, turnedAway rfl (.inr (.inr (.inl (by decide))))⟩,
    ⟨⟨rfl, rfl⟩, fun use => turnedAway rfl (.inl (by cases use <;> rfl))⟩, by decide, by decide, turnedAway rfl (.inr (.inr (.inr (by decide))))⟩
  rcases h window3 rfl with h | h | h | h
  · cases use <;> cases h
  · exact absurd (h (0, 0) (.head _)) (by decide)
  · exact absurd h (by decide)
  · exact absurd h (by decide)

/-- The line of 0x1_0000 bears a record of the team itself, of a team elsewhere, of the host, or of no team. -/
def linedS (r : LineRec) : State :=
  let s := perfS 0 0x10000
  { s with ten := { s.ten with main := { s.ten.main with lines := [(0x10000 / 128, some r)] } } }
theorem lineAt_lined (r : LineRec) : lineAt (opened (linedS r)).ten.main 0x10004 = some r := rfl
theorem test_meets_ArrivalsWriteResults_scopes :
    (∀ p ∈ (opened (perfS 0 0x10000)).ten.pages, p.va ≤ 0x10004 → 0x10004 < p.va + p.size → ∀ e ∈ (opened (perfS 0 0x10000)).ten.away, e.1 ≠ p.va) ∧
    (∀ x ∈ (opened (perfS 0 0x10000)).ten.teams, x.key = 1 →
      ScopeMismatch 1 x 0 (opened (perfS 0 0x10000)).ten (some { team := some 9, dom := .device }) ∧
      ScopeMismatch 4 x 0 (opened (perfS 0 0x10000)).ten (some { team := some 0, dom := .core 3 }) ∧
      ¬ ScopeMismatch 0 x 0 (opened (perfS 0 0x10000)).ten (some { team := some 1, dom := .system }) ∧
      ¬ ScopeMismatch 0 x 0 (opened (perfS 0 0x10000)).ten (some { team := none, dom := .system }) ∧
      ¬ ScopeMismatch 0 x 0 (opened (perfS 0 0x10000)).ten none) ∧
    (Placed 0 1 (runT endI (doing { atomQ 1 [] [(3, 2 ^ 32)] with ty := 4, mism := false })) (runT endI (doing { atomQ 1 [] [(3, 2 ^ 32)] with ty := 4, mism := false })) ∧
      atomBytes 4 = 8) := by
  refine ⟨nofun, fun x hx hk => ⟨⟨_, _, rfl, rfl, .inl fun ⟨y, hy, h, _⟩ => ?_⟩, ⟨_, _, rfl, rfl, .inr fun h => ?_⟩, fun ⟨l, k, e, h, h'⟩ => ?_,
    fun ⟨l, k, e, h, _⟩ => ?_, nofun⟩, ⟨rfl, rfl⟩, rfl⟩
  · have : ∀ y ∈ (opened (perfS 0 0x10000)).ten.teams, y.key ≠ 9 := by decide
    exact this y hy h
  · have : ∀ y ∈ (opened (perfS 0 0x10000)).ten.teams, y.core ≠ 3 := by decide
    exact this x hx (Eq.symm h)
  · obtain rfl := Option.some.inj e
    obtain rfl := Option.some.inj h
    exact h'.elim (fun f => f ⟨hk.symm, by decide⟩) (fun f => f trivial)
  · obtain rfl := Option.some.inj e
    cases h

theorem test_meets_ContextAndGangSteps_aborts :
    InOrder (opened (gangS 2 [])).ten ∧ (∃ x ∈ (opened (gangS 2 [])).ten.teams, (∃ b ∈ (opened (gangS 2 [])).ten.blocks, b.key = x.blk ∧ b.launch = 1) ∧ x.wait ≠ .ended) ∧
      ∀ x ∈ (opened (gangS 2 [])).ten.teams, x.resv = [] :=
  ⟨by unfold InOrder; decide, ⟨_, .head _, ⟨_, .head _, rfl, rfl⟩, by decide⟩, by decide⟩

theorem heard {q : Datagram} {m : Nat} {s u : State} (h : Accepted q m s u) : Heard q m s u := by
  obtain ⟨hp, hc, u0, ho, hx, hm, ht, hk, -, hi, -, e⟩ := h
  exact ⟨hp, hc, u0, ho, hx, hm, ht, hk, hi, e⟩
theorem test_meets_RegistrationAndReports_status :
    Heard (ask 13 []) 13 (hostS id) (hosted id) ∧ (ask 13 []).payload = [] ∧
      Accepted (ask 12 (leBytes 32 7)) 12 (hostS id) (hosted id) ∧ (leBytes 32 7).length = 32 ∧ (hosted id).fwDigests.length ≤ 118 :=
  ⟨heard (accepted _ _ _ ⟨rfl, rfl⟩ (by decide) (by decide) rfl), rfl, accepted _ _ _ ⟨rfl, rfl⟩ (by decide) (by decide) rfl, rfl, by decide⟩

/-- A tenant that has pages still to come, one in a migration, and one whose TAKE has been recorded. -/
def comingS (t : Tenant) : Tenant := { t with away := [(0x10000, .hbm)] }
def goingS (t : Tenant) : Tenant := { t with mig := some (migOf false []) }
def recordedK : Take := { takeOf 0 with q := { ask 10 [] with reqid := 4 }, recorded := true }
def recordedS (m : List Byte) : State := { hostS (fun t => { t with take := some recordedK }) with ckpts := [ckptV m] }
theorem test_meets_TenantRequestsComplete_busy :
    (hosted id).ten.away = [] ∧
    (Accepted (ask 10 takeP) 10 (hostS comingS) (hosted comingS) ∧ (hosted comingS).ten.away ≠ [] ∧ arg (ask 10 takeP) 0 4 = 0 ∧
      takeP.length = 56 + 24 * arg (ask 10 takeP) 4 4 ∧ arg (ask 10 takeP) 16 8 % 8 = 0 ∧ arg (ask 10 takeP) 48 8 = 0) ∧
    (Opened 0 (hostS goingS) (opened (hostS goingS)) ∧ (opened (hostS goingS)).ten.mig ≠ none) ∧
    (∀ m, Accepted (ask 10 restoreP) 10 (recordedS m) (tracked (recordedS m)) ∧ (tracked (recordedS m)).ten.take = some recordedK ∧
      (tracked (recordedS m)).ckpts.find? (fun c => c.tenant == (tracked (recordedS m)).ten.num && c.step == arg (ask 10 restoreP) 8 8 && c.complete) =
        some (ckptV m)) ∧ ∀ m, ∀ k, (tracked (ckptS m)).ten.take = some k → k.recorded = false :=
  ⟨rfl, ⟨accepted _ _ _ ⟨rfl, rfl⟩ (by decide) (by decide) rfl, by decide, by decide, by decide, by decide, by decide⟩, ⟨⟨rfl, rfl⟩, nofun⟩,
    fun m => ⟨acceptedIn _ _ _ ⟨rfl, rfl⟩ ⟨rfl, rfl, rfl, nofun, rfl, rfl⟩ (by decide) rfl, rfl, rfl⟩, fun m k => nofun⟩

end Sys2Proof.Tests
end

section
/-!
PROOFS. Completion of the per-lane floating-point instructions (06 R115, R118), and minimumNumber and maximumNumber (04 R71).
-/

open Sys2Proof.Machine

namespace Sys2Proof.Claims

/-! ### Issue of a vector instruction -/

/-- Granted registers pass the budget check (02 R20). -/
theorem vecs_eq_none {vs : List Byte} {s : State} (h : Granted (vs.map (·.toNat)) s) : vecs vs s = none := by
  have hall : (vs.map (·.toNat)).all (fun k => decide (k < s.team.budget)) = true :=
    List.all_eq_true.mpr fun k hk => decide_eq_true (h k hk)
  simp [vecs, budget, hall]

/-- Retiring moves the team in its clause and changes nothing else. -/
theorem retire_eq_movedTo (u : Team) (c : Clause) (n : Nat) : u.retire c n = movedTo (u.retire c n) u := by
  unfold Team.retire
  dsimp only
  split <;> rfl

theorem advanced_retire (u : Team) (c : Clause) (n : Nat) : Advanced n c u (u.retire c n) := by
  unfold Advanced Team.retire
  dsimp only
  split <;> exact ⟨rfl, rfl, rfl, rfl, rfl⟩

/-- A vector issue counts its passes (09 R213). -/
theorem countIssue_vector_core (s : State) : (s.countIssue .vector).core = counted 0 s.passes s.core := by
  simp only [State.countIssue, State.count, Core.count, counted, beq_iff_eq]
  split <;> rfl

/-! ### Results of lanes -/

/-- Lanes of `helpMask` lie at or above the team's lanes (02 R16). -/
theorem le_of_helpMask {u : Team} {k : Nat} (h : u.helpMask.getLsbD k = true) : u.lanes ≤ k := by
  by_contra hk
  have hq : k < u.quadTop := by unfold Team.quadTop; omega
  have hl : k < u.lanes := by omega
  simp [Team.helpMask, belowMask, BitVec.getLsbD_ofNat, Nat.testBit_two_pow_sub_one, hq, hl] at h

/-- A helper lane is not active. -/
theorem not_mem_active_of_mem_helpers {s : State} {k : Nat} (h : k ∈ s.helpers) : k ∉ s.active := by
  simp only [State.helpers, State.active, List.mem_filter, mem_lanesOf] at h ⊢
  have := le_of_helpMask h.1.2
  omega

/-- Of the acting lanes only those of Active() set STATUS (04 R67). -/
theorem flagsOf_acting (s : State) (g : Nat → Word × Word) :
    flagsOf s.active (s.acting.map fun k => (k, g k)) = raised s fun k => (g k).2 := by
  have hactive : ∀ a : Word, s.active.foldl (fun acc k => if s.active.contains k then acc ||| (g k).2 else acc) a =
      s.active.foldl (fun acc k => acc ||| (g k).2) a := fun a =>
    List.foldl_ext _ _ a fun acc k hk => by simp [hk]
  have hhelpers : ∀ a : Word, s.helpers.foldl (fun acc k => if s.active.contains k then acc ||| (g k).2 else acc) a = a := fun a =>
    (List.foldl_ext _ (fun acc _ => acc) a fun acc k hk => by simp [not_mem_active_of_mem_helpers hk]).trans (List.foldl_fixed _)
  simp only [flagsOf, raised, State.acting, List.foldl_map, List.foldl_append, hactive, hhelpers]

theorem raised_zero (s : State) : raised s (fun _ => 0) = 0 := by
  rw [raised, List.foldl_map]
  exact List.foldl_fixed' (fun _ => BitVec.or_zero) _

/-- An instruction moves the stream position on under SR (04 R69). -/
theorem drawn_eq (s : State) (o : XOps) : s.drawn o.rm = s.onTeam fun u => { u with spos := stream s o } := by
  simp only [State.drawn, State.rctx, stream, modeOf, beq_iff_eq]
  by_cases h : (if o.rm = 5 then s.team.rm.toNat else o.rm.toNat) = 4
  · simp only [h, if_true]; rfl
  · simp only [h, if_false]; rfl

theorem stream_perLane (s : State) (o : XOps) (d : Byte) (g : Nat → Word × Word) : stream (s.perLane d g) o = stream s o := by
  have hrm : (s.perLane d g).team.rm = s.team.rm := by rw [State.perLane_team]
  have hpos : (s.perLane d g).team.spos = s.team.spos := by rw [State.perLane_team]
  unfold stream modeOf
  rw [hrm, hpos]

/-- No byte lies in the list of matrix operations. -/
theorem sameBytes_of_mops {s t : State} {ms : List MatOp} (hten : t.ten = { s.ten with mops := ms }) (hblk : t.blk = s.blk) :
    SameBytes s t := by
  refine ⟨fun sp a => ?_, fun a => by rw [hblk]⟩
  rw [hten]
  cases sp <;> rfl

/-- Beside the team only the notes on outstanding matrix operations change (08 R184). -/
theorem perLane_frame (s : State) (d : Byte) (g : Nat → Word × Word) :
    s.perLane d g = { s with
      team := (s.perLane d g).team
      ten := { s.ten with mops := s.ten.mops.map (MatOp.noteWrite s.team.key [d.toNat]) } } := by
  have hkey : ∀ xs, (s.team.setLanes d.toNat xs).key = s.team.key := fun xs => by rw [Team.setLanes_eq]
  simp only [State.perLane, State.flag, State.setLanes, State.taint, State.onTeam, hkey]

/-- Retiring completes the effect of a vector instruction: `p` is the state that the effect has left. -/
theorem wroteLanes_retire {i : Instr} {c : Clause} {d : Nat} {f : Nat → Word} {bits pos : Word} {s p : State}
    (hlook : ∀ r k, k < 1024 →
      look 0 (1024 * r + k) p.team.v = if r = d ∧ k ∈ s.acting then f k else look 0 (1024 * r + k) s.team.v)
    (hteam : p.team = { s.team with v := p.team.v, status := s.team.status ||| bits, spos := pos })
    (hp : p = { s with
      team := p.team, core := counted 0 s.passes s.core
      ten := { s.ten with mops := s.ten.mops.map (MatOp.noteWrite s.team.key [d]) } }) :
    WroteLanes i c d f bits pos s (p.onTeam fun u => u.retire c (words i)) := by
  have hmoved := retire_eq_movedTo p.team c (words i)
  have hv : (p.team.retire c (words i)).v = p.team.v := by rw [hmoved]; rfl
  refine ⟨fun r k hk => ?_, ?_, ?_, ?_, sameBytes_of_mops (congrArg State.ten hp :) (congrArg State.blk hp :)⟩
  · rw [State.onTeam_team, hv]
    exact hlook r k hk
  · calc p.team.retire c (words i)
        = movedTo (p.team.retire c (words i)) p.team := hmoved
      _ = movedTo (p.team.retire c (words i)) { s.team with v := p.team.v, status := s.team.status ||| bits, spos := pos } :=
          congrArg (movedTo _) hteam
      _ = _ := by rw [State.onTeam_team, hv]; rfl
  · have h : Advanced (words i) c p.team (p.team.retire c (words i)) := advanced_retire p.team c (words i)
    have hdl : p.team.dl = s.team.dl := (congrArg Team.dl hteam :)
    have hpc : p.team.pc = s.team.pc := (congrArg Team.pc hteam :)
    have hhdr : p.team.hdr = s.team.hdr := (congrArg Team.hdr hteam :)
    have hpark : p.team.park = s.team.park := (congrArg Team.park hteam :)
    unfold Advanced at h ⊢
    rwa [hdl, hpc, hhdr, hpark] at h
  · conv_lhs => rw [hp]
    rfl

/-- The state that a vector issue with results `g` and stream position `pos` leaves. -/
theorem wroteLanes_perLane (i : Instr) (c : Clause) (s : State) (d : Byte) (g : Nat → Word × Word) (pos : Word) :
    WroteLanes i c d.toNat (fun k => (g k).1) (raised s fun k => (g k).2) pos s
      ((((s.countIssue .vector).perLane d g).onTeam fun u => { u with spos := pos }).onTeam fun u => u.retire c (words i)) := by
  refine wroteLanes_retire (fun r k hk => ?_) ?_ ?_
  · have h := State.perLane_look (s.countIssue .vector) d g r k hk
    rwa [countIssue_team, countIssue_acting] at h
  · rw [State.onTeam_team, State.perLane_team, countIssue_team, countIssue_active, countIssue_acting, flagsOf_acting]
  · conv_lhs => rw [perLane_frame, countIssue_ten, countIssue_team, countIssue_eq, countIssue_vector_core]
    rfl

/-- A floating-point instruction whose registers are granted completes with its results in the acting lanes (06 R115). -/
theorem floatOp_completes {i : Instr} {o : XOps} {c : Clause} {s : State} {vs : List Byte} (f : State → RCtx → Nat → Word × Word)
    (hr : Ready i c s) (hg : Granted (vs.map (·.toNat)) s) :
    ∃ t, floatOp i o vs f s = .next t ∧
      WroteLanes i c o.d.toNat (fun k => (f (s.countIssue .vector) (s.rctx o.rm) k).1)
        (raised s fun k => (f (s.countIssue .vector) (s.rctx o.rm) k).2) (stream s o) s t := by
  obtain ⟨hcl, hwf, hdl⟩ := hr
  refine ⟨_, issue_ok hcl hdl hwf (vecs_eq_none hg), ?_⟩
  have hstream : stream (s.countIssue .vector) o = stream s o := by unfold stream modeOf; rw [countIssue_team]
  rw [drawn_eq, stream_perLane, hstream, countIssue_rctx]
  exact wroteLanes_perLane i c s o.d (f (s.countIssue .vector) (s.rctx o.rm)) (stream s o)

/-! ### minimumNumber and maximumNumber (04 R71) -/

/-- The pattern of NaN is a full exponent field over a fraction that is not 0 (04 R57). -/
theorem isNan32_iff (x : Word) : IsNan32 x ↔ x.toNat / 2 ^ 23 % 2 ^ 8 = 255 ∧ x.toNat % 2 ^ 23 ≠ 0 := by
  unfold IsNan32
  have := x.isLt
  omega

/-- The value of an FP32 pattern (04 R57). -/
theorem f32_eq (x : Word) : f32 x =
    if x.toNat / 2 ^ 23 % 2 ^ 8 = 255 then (if x.toNat % 2 ^ 23 = 0 then .inf x.msb else .nan)
    else FFmt.unpack.num fF32 x.msb (x.toNat / 2 ^ 23 % 2 ^ 8) (x.toNat % 2 ^ 23) := by
  have hmsb : x.msb = x.toNat.testBit 31 := by rw [BitVec.msb_eq_getLsbD_last]; rfl
  simp only [← beq_iff_eq (b := 255), ← beq_iff_eq (b := 0), hmsb]
  rfl

theorem num_isNan (f : FFmt) (n : Bool) (e m : Nat) : (FFmt.unpack.num f n e m).isNan = false := by
  unfold FFmt.unpack.num
  split <;> rfl

theorem num_neg (f : FFmt) (n : Bool) (e m : Nat) : (FFmt.unpack.num f n e m).neg = n := by
  unfold FFmt.unpack.num
  split <;> rfl

theorem f32_isNan (x : Word) : (f32 x).isNan = true ↔ IsNan32 x := by
  rw [isNan32_iff, f32_eq]
  split
  · next he =>
    split
    · next hm => exact ⟨nofun, fun h => absurd hm h.2⟩
    · next hm => exact ⟨fun _ => ⟨he, hm⟩, fun _ => rfl⟩
  · next he => exact ⟨fun h => by simp [num_isNan] at h, fun h => absurd h.1 he⟩

theorem f32_isNan_eq_false {x : Word} (h : ¬ IsNan32 x) : (f32 x).isNan = false :=
  Bool.eq_false_iff.mpr (mt (f32_isNan x).mp h)

/-- The sign of a number is its top bit. -/
theorem f32_neg {x : Word} (h : ¬ IsNan32 x) : (f32 x).neg = x.msb := by
  rw [isNan32_iff] at h
  rw [f32_eq]
  split
  · next he => rw [if_pos (by_contra fun hm => h ⟨he, hm⟩)]; rfl
  · exact num_neg _ _ _ _

/-! #### The order of values -/

theorem minExp_comm (x y : Fv) (e : Int) : x.minExp (y.minExp e) = y.minExp (x.minExp e) := by
  cases x <;> cases y <;> simp only [Fv.minExp]
  split <;> split <;> omega

/-- The exponent at which a comparison of two finite values scales both. -/
def commonExp (x y : Fv) : Int := x.minExp (y.minExp (max x.someExp y.someExp))

theorem commonExp_comm (x y : Fv) : commonExp y x = commonExp x y := by
  unfold commonExp
  rw [minExp_comm, max_comm]

/-- Two values that are no infinity compare as the integers that they are at a common exponent. -/
theorem cmp_eq_sign {x y : Fv} (hx : x.isInf = false) (hy : y.isInf = false) :
    x.cmp y = (x.scaled (commonExp x y) - y.scaled (commonExp x y)).sign := by
  have hsign : ∀ d : Int, (if d < 0 then -1 else if d == 0 then 0 else 1) = d.sign := by
    intro d
    rcases lt_trichotomy d 0 with h | h | h
    · simp [h, Int.sign_eq_neg_one_of_neg h]
    · simp [h]
    · simp [h.ne', not_lt.mpr h.le, Int.sign_eq_one_of_pos h]
  cases x with
  | inf n => cases hx
  | nan =>
    cases y with
    | inf k => cases hy
    | nan => rfl
    | fin k l g => exact hsign _
  | fin n m e =>
    cases y with
    | inf k => cases hy
    | nan => exact hsign _
    | fin k l g => exact hsign _

theorem cmp_inf_left (n : Bool) {y : Fv} (hy : y.isInf = false) : (Fv.inf n).cmp y = if n then -1 else 1 := by
  cases y with
  | inf k => cases hy
  | nan => rfl
  | fin k l g => rfl

theorem cmp_inf_right (k : Bool) {x : Fv} (hx : x.isInf = false) : x.cmp (.inf k) = if k then 1 else -1 := by
  cases x with
  | inf n => cases hx
  | nan => rfl
  | fin n m e => rfl

theorem eq_inf_of_isInf {x : Fv} (h : x.isInf = true) : ∃ n, x = .inf n := by
  cases x with
  | inf n => exact ⟨n, rfl⟩
  | nan => cases h
  | fin n m e => cases h

/-- Exchanging its operands turns a comparison round. -/
theorem cmp_swap (x y : Fv) : y.cmp x = -x.cmp y := by
  cases hx : x.isInf with
  | false =>
    cases hy : y.isInf with
    | false => rw [cmp_eq_sign hx hy, cmp_eq_sign hy hx, commonExp_comm, ← Int.sign_neg, neg_sub]
    | true =>
      obtain ⟨k, rfl⟩ := eq_inf_of_isInf hy
      rw [cmp_inf_left k hx, cmp_inf_right k hx]
      cases k <;> rfl
  | true =>
    obtain ⟨n, rfl⟩ := eq_inf_of_isInf hx
    cases hy : y.isInf with
    | false =>
      rw [cmp_inf_left n hy, cmp_inf_right n hy]
      cases n <;> rfl
    | true =>
      obtain ⟨k, rfl⟩ := eq_inf_of_isInf hy
      exact (neg_sub _ _).symm

theorem notAbove_refl (x : Word) : notAbove x x :=
  .inr ⟨by have := cmp_swap (f32 x) (f32 x); omega, id⟩

/-! #### The lesser and the greater of two patterns -/

/-- Of two numbers minimumNumber is the one, maximumNumber the other, in their order. -/
theorem minNum_maxNum_of_numbers {a b : Word} (ha : ¬ IsNan32 a) (hb : ¬ IsNan32 b) :
    (minNum a b = a ∧ maxNum a b = b ∧ notAbove a b) ∨ (minNum a b = b ∧ maxNum a b = a ∧ notAbove b a) := by
  have hna : (f32 a).isNan = false := f32_isNan_eq_false ha
  have hnb : (f32 b).isNan = false := f32_isNan_eq_false hb
  have hswap := cmp_swap (f32 a) (f32 b)
  have hmin : minNum a b = if (f32 a).cmp (f32 b) < 0 then a else if (f32 a).cmp (f32 b) > 0 then b else if a.msb then a else b := by
    simp only [minNum, hna, hnb, f32_neg ha]
  have hmax : maxNum a b = if (f32 a).cmp (f32 b) < 0 then b else if (f32 a).cmp (f32 b) > 0 then a else if a.msb then b else a := by
    simp only [maxNum, hna, hnb, f32_neg ha]
  rw [hmin, hmax]
  by_cases hlt : (f32 a).cmp (f32 b) < 0
  · exact .inl ⟨if_pos hlt, if_pos hlt, .inl hlt⟩
  · by_cases hgt : (f32 a).cmp (f32 b) > 0
    · exact .inr ⟨by simp [hlt, hgt], by simp [hlt, hgt], .inl (by omega)⟩
    · cases hsign : a.msb with
      | true => exact .inl ⟨by simp [hlt, hgt], by simp [hlt, hgt], .inr ⟨by omega, fun _ => hsign⟩⟩
      | false => exact .inr ⟨by simp [hlt, hgt], by simp [hlt, hgt], .inr ⟨by omega, fun h => by simp [hsign] at h⟩⟩

/-- R71 for every pair of patterns: by which of the two are NaN, then by the order of two numbers. -/
theorem minNum_maxNum_extreme (a b : Word) : Extreme true a b (minNum a b) ∧ Extreme false a b (maxNum a b) := by
  by_cases ha : IsNan32 a
  · have hna := (f32_isNan a).mpr ha
    by_cases hb : IsNan32 b
    · have hnb := (f32_isNan b).mpr hb
      simp [Extreme, ha, hb, minNum, maxNum, hna, hnb, qnan32]
    · have hnb := f32_isNan_eq_false hb
      simp [Extreme, ha, hb, minNum, maxNum, hna, hnb]
  · by_cases hb : IsNan32 b
    · have hna := f32_isNan_eq_false ha
      have hnb := (f32_isNan b).mpr hb
      simp [Extreme, ha, hb, minNum, maxNum, hna, hnb]
    · obtain ⟨hmin, hmax, hle⟩ | ⟨hmin, hmax, hle⟩ := minNum_maxNum_of_numbers ha hb
      · simp [Extreme, ha, hb, hmin, hmax, hle, notAbove_refl]
      · simp [Extreme, ha, hb, hmin, hmax, hle, notAbove_refl]

/-! #### The two instructions -/

/-- An instruction without a rounding field does not draw (03 R45). -/
theorem stream_eq_of_modOk {o : XOps} {s : State} {sat na nb nc absa : Bool} (h : o.modOk false sat na nb nc absa = true) :
    stream s o = s.team.spos := by
  have hrm : o.rm = 0 := by
    simp only [XOps.modOk, Bool.and_eq_true, Bool.false_eq_true, if_false, beq_iff_eq] at h
    obtain ⟨⟨⟨⟨⟨hrm, -⟩, -⟩, -⟩, -⟩, -⟩ := h
    exact hrm
  simp [stream, modeOf, hrm]

/-- A per-lane instruction on A and B that neither sets a flag nor draws. -/
theorem plainOp_completes {i : Instr} {o : XOps} {c : Clause} {s : State} (f : Word → Word → Word)
    (hr : Ready i c s) (hg : Granted [o.d.toNat, o.a.toNat, o.b.toNat] s) (hpos : stream s o = s.team.spos) :
    ∃ t, floatOp i o [o.d, o.a, o.b] (fun s _ k => plain (f (s.opA o sg32 k) (s.opB o sg32 k))) s = .next t ∧
      WroteLanes i c o.d.toNat (fun k => f (s.opA o sg32 k) (s.opB o sg32 k)) 0 s.team.spos s t := by
  obtain ⟨t, ht, hw⟩ := floatOp_completes (vs := [o.d, o.a, o.b])
    (fun s _ k => plain (f (s.opA o sg32 k) (s.opB o sg32 k))) hr hg
  rw [hpos] at hw
  simp only [plain, raised_zero, countIssue_lane] at hw
  exact ⟨t, ht, hw⟩

/-- VFMIN and VFMAX take sign modifiers, and neither SAT nor a rounding mode (06 R116, R118). -/
theorem modOk_of_wf_vfmin {o : XOps} (h : (Instr.vfmin o).wf = true) : o.modOk false false true true false true = true := by
  simp only [Instr.wf, Bool.and_eq_true] at h
  obtain ⟨⟨-, hmod⟩, -⟩ := h
  exact hmod

theorem wf_vfmax (o : XOps) : (Instr.vfmax o).wf = (Instr.vfmin o).wf := rfl

/-- Settles O15: both instructions are per-lane selections, and R71's order decides which operand is selected. -/
theorem minimumNumberCompletes : Obligations.MinimumNumberCompletes := by
  intro o c s hg
  refine ⟨fun hr => ?_, fun hr => ?_⟩
  · have ⟨_, hwf, _⟩ := hr
    obtain ⟨t, ht, hw⟩ := plainOp_completes minNum hr hg (stream_eq_of_modOk (modOk_of_wf_vfmin hwf))
    exact ⟨t, _, ht, hw, fun k => (minNum_maxNum_extreme _ _).1⟩
  · have ⟨_, hwf, _⟩ := hr
    obtain ⟨t, ht, hw⟩ := plainOp_completes maxNum hr hg (stream_eq_of_modOk (modOk_of_wf_vfmin (wf_vfmax o ▸ hwf)))
    exact ⟨t, _, ht, hw, fun k => (minNum_maxNum_extreme _ _).2⟩

end Sys2Proof.Claims

end

section
/-!
PROOFS. Encoding and completion of the immediate scalar instructions (05 R85) and of the instructions that count the lanes of a
mask (05 R108).
-/

open Sys2Proof.Machine

namespace Sys2Proof.Claims

/-! ### The fields of word 0 (03 R44) -/

theorem toNat_wordOf {opc : Nat} (h : opc < 256) (d a b : Byte) :
    (wordOf opc d a b).toNat = opc * 2 ^ 24 + d.toNat * 2 ^ 16 + a.toNat * 2 ^ 8 + b.toNat := by
  have := d.isLt
  have := a.isLt
  have := b.isLt
  rw [wordOf, BitVec.toNat_ofNat]
  omega

theorem opcOf_wordOf {opc : Nat} (h : opc < 256) (d a b : Byte) : opcOf (wordOf opc d a b) = opc := by
  have := d.isLt
  have := a.isLt
  have := b.isLt
  rw [opcOf, BitVec.extractLsb'_toNat, toNat_wordOf h, Nat.shiftRight_eq_div_pow]
  omega

theorem rOf_wordOf {opc : Nat} (h : opc < 256) (d a b : Byte) : rOf (wordOf opc d a b) = { d := d, a := a, b := b } := by
  have := d.isLt
  have := a.isLt
  have := b.isLt
  rw [rOf, ROps.mk.injEq]
  refine ⟨?_, ?_, ?_⟩ <;>
    (apply BitVec.eq_of_toNat_eq; rw [BitVec.extractLsb'_toNat, toNat_wordOf h, Nat.shiftRight_eq_div_pow]; omega)

theorem iOf_wordOf {opc : Nat} (h : opc < 256) (d a b : Byte) (imm : Word) :
    iOf (wordOf opc d a b) imm = { d := d, a := a, b := b, imm := imm } := by
  have hr := rOf_wordOf h d a b
  rw [rOf, ROps.mk.injEq] at hr
  obtain ⟨hd, ha, hb⟩ := hr
  rw [iOf, hd, ha, hb]

/-! ### Decoding by form -/

theorem decode_cons_r {w : Word} (hf : fmtOf (opcOf w) = some .r) (rest : List Word) :
    decode (w :: rest) = accept (buildR (opcOf w) (rOf w)) rest := by
  rw [decode.eq_def]
  dsimp only
  rw [hf]

theorem decode_cons_i {w : Word} (hf : fmtOf (opcOf w) = some .i) (imm : Word) (rest : List Word) :
    decode (w :: imm :: rest) = accept (buildI (opcOf w) (iOf w imm)) rest := by
  rw [decode.eq_def]
  dsimp only
  rw [hf]

theorem decode_wordOf_r {opc : Nat} (h : opc < 256) (hf : fmtOf opc = some .r) (d a b : Byte) (rest : List Word) :
    decode (wordOf opc d a b :: rest) = accept (buildR opc { d := d, a := a, b := b }) rest := by
  rw [decode_cons_r (by rw [opcOf_wordOf h, hf]), opcOf_wordOf h, rOf_wordOf h]

theorem decode_wordOf_i {opc : Nat} (h : opc < 256) (hf : fmtOf opc = some .i) (d a b : Byte) (imm : Word) (rest : List Word) :
    decode (wordOf opc d a b :: imm :: rest) = accept (buildI opc { d := d, a := a, b := b, imm := imm }) rest := by
  rw [decode_cons_i (by rw [opcOf_wordOf h, hf]), opcOf_wordOf h, iOf_wordOf h]

theorem accept_of_wf {i : Instr} (h : i.wf = true) (rest : List Word) : accept (some i) rest = .ok (i, rest) := if_pos h

theorem accept_of_not_wf {i : Instr} (h : ¬ i.wf = true) (rest : List Word) : accept (some i) rest = .error .reserved := if_neg h

theorem decode_smovi (d a b : Byte) (imm : Word) (rest : List Word) :
    decode (wordOf 0x02 d a b :: imm :: rest) = accept (some (.smovi { d := d, a := a, b := b, imm := imm })) rest :=
  decode_wordOf_i (by decide) rfl d a b imm rest

theorem decode_saddi (d a b : Byte) (imm : Word) (rest : List Word) :
    decode (wordOf 0x10 d a b :: imm :: rest) = accept (some (.saddi { d := d, a := a, b := b, imm := imm })) rest :=
  decode_wordOf_i (by decide) rfl d a b imm rest

theorem decode_mcnt (d a b : Byte) (rest : List Word) :
    decode (wordOf 0x29 d a b :: rest) = accept (some (.mcnt { d := d, a := a, b := b })) rest :=
  decode_wordOf_r (by decide) rfl d a b rest

theorem decode_mfirst (d a b : Byte) (rest : List Word) :
    decode (wordOf 0x2A d a b :: rest) = accept (some (.mfirst { d := d, a := a, b := b })) rest :=
  decode_wordOf_r (by decide) rfl d a b rest

/-! ### Fields in range (03 R45, R49, R50) -/

theorem wf_smovi (o : IOps) : (Instr.smovi o).wf = true ↔ o.d.toNat < 128 ∧ o.a = 0 ∧ o.b = 0 := by
  simp [Instr.wf, Wf.sDst, Wf.atMost, Wf.z, and_assoc, Nat.lt_succ_iff]

theorem wf_saddi (o : IOps) : (Instr.saddi o).wf = true ↔ o.d.toNat < 128 ∧ o.a.toNat < 216 ∧ o.b = 0 := by
  simp [Instr.wf, Wf.sDst, Wf.sSrc, Wf.atMost, Wf.z, and_assoc, Nat.lt_succ_iff]

theorem wf_mcnt (o : ROps) : (Instr.mcnt o).wf = true ↔ o.d.toNat < 128 ∧ o.a.toNat < 19 ∧ o.b = 0 := by
  simp [Instr.wf, Wf.sDst, Wf.mSrc, Wf.atMost, Wf.z, and_assoc, Nat.lt_succ_iff]

theorem wf_mfirst (o : ROps) : (Instr.mfirst o).wf = true ↔ o.d.toNat < 128 ∧ o.a.toNat < 19 ∧ o.b = 0 := wf_mcnt o

/-! ### Completion of an instruction that writes one scalar register -/

/-- A scalar issue counts one instruction (09 R213). -/
theorem countIssue_scalar_core (s : State) : (s.countIssue .scalar).core = counted 1 1 s.core := by
  simp only [State.countIssue, State.count, Core.count, counted, beq_iff_eq]
  split <;> rfl

/-- Retiring completes the write of one scalar register. -/
theorem wroteScalar_retire (i : Instr) (c : Clause) (d : Nat) (v : Word) (s : State) :
    WroteScalar i c d v s (((s.countIssue .scalar).setS d v).onTeam fun u => u.retire c (words i)) := by
  have hmoved := retire_eq_movedTo (s.team.setS d v) c (words i)
  have hregs : ((s.team.setS d v).retire c (words i)).s = (s.team.setS d v).s := by rw [hmoved]; rfl
  refine ⟨fun k => ?_, ?_, advanced_retire (s.team.setS d v) c (words i), ?_, fun sp a => ?_, fun a => ?_⟩
  · rw [State.onTeam_team, State.setS_team, countIssue_team, hregs, Team.setS_look]
  · rw [State.onTeam_team, State.setS_team, countIssue_team, hregs]
    exact hmoved
  · rw [← countIssue_scalar_core]
    rfl
  · rw [State.onTeam_ten, State.setS_ten, countIssue_ten]
  · rw [State.onTeam_blk, State.setS_blk, countIssue_blk]

/-- A ready instruction that only writes a scalar register completes with its result there. -/
theorem scalarOp_completes {i : Instr} {c : Clause} {s : State} (d : Byte) (f : State → Word) (hr : Ready i c s) :
    ∃ t, scalarOp i d f s = .next t ∧ WroteScalar i c d.toNat (f (s.countIssue .scalar)) s t := by
  obtain ⟨hcl, hwf, hdl⟩ := hr
  exact ⟨_, issue_ok hcl hdl hwf rfl, wroteScalar_retire i c d.toNat _ s⟩

/-! ### SMOVI and SADDI (05 R85) -/

theorem smovi_completes {o : IOps} {c : Clause} {s : State} (hr : Ready (.smovi o) c s) :
    ∃ t, exec (.smovi o) s = .next t ∧ WroteScalar (.smovi o) c o.d.toNat o.imm s t := by
  rw [exec_smovi]
  exact scalarOp_completes o.d (fun _ => o.imm) hr

theorem saddi_completes {o : IOps} {c : Clause} {s : State} (hr : Ready (.saddi o) c s) :
    ∃ t, exec (.saddi o) s = .next t ∧ WroteScalar (.saddi o) c o.d.toNat (s.sval o.a + o.imm) s t := by
  rw [exec_saddi, ← countIssue_sval s .scalar]
  exact scalarOp_completes o.d (fun s => s.sval o.a + o.imm) hr

/-- The sum of two words modulo 2^32. -/
theorem ofNat_sum_mod (x y : Word) : BitVec.ofNat 32 ((x.toNat + y.toNat) % 2 ^ 32) = x + y := by
  rw [← BitVec.toNat_add, BitVec.ofNat_toNat, BitVec.setWidth_eq]

/-- Settles O2: the decoder accepts exactly the forms whose unused fields are 0, and both instructions write one scalar register. -/
theorem immediateScalarRule : Obligations.ImmediateScalarRule := by
  refine ⟨fun d a b imm rest hd ha => ⟨?_, ?_, fun hab => ?_, fun hb => ?_⟩, fun o c s => ⟨smovi_completes, fun hr => ?_⟩⟩
  · rw [decode_smovi, accept_of_wf ((wf_smovi _).mpr ⟨hd, rfl, rfl⟩)]
  · rw [decode_saddi, accept_of_wf ((wf_saddi _).mpr ⟨hd, ha, rfl⟩)]
  · rw [decode_smovi, accept_of_not_wf (mt (wf_smovi _).mp fun ⟨_, ha0, hb0⟩ => hab.elim (· ha0) (· hb0))]
  · rw [decode_saddi, accept_of_not_wf (mt (wf_saddi _).mp fun ⟨_, _, hb0⟩ => hb hb0)]
  · rw [ofNat_sum_mod]
    exact saddi_completes hr

/-! ### MCNT and MFIRST (05 R108) -/

/-- MFIRST takes the head of the mask's live lanes. -/
theorem execMfirst_eq_scalarOp (o : ROps) (s : State) :
    execMfirst o s =
      scalarOp (.mfirst o) o.d (fun s => (lanesOf (s.mval o.a) s.team.lanes).head?.elim 0xFFFFFFFF#32 word) s := by
  unfold execMfirst scalarOp
  congr 1
  funext u
  dsimp only
  cases lanesOf (u.mval o.a) u.team.lanes <;> rfl

theorem head?_lanesOf_eq_some {m : Mask} {n k : Nat} (hk : k < n) (hm : m.getLsbD k = true)
    (hlow : ∀ j, j < k → m.getLsbD j = false) : (lanesOf m n).head? = some k := by
  rw [lanesOf, List.head?_filter, List.find?_range_eq_some]
  exact ⟨hm, List.mem_range.mpr hk, fun j hj => by rw [hlow j hj]; rfl⟩

theorem lanesOf_eq_nil {m : Mask} {n : Nat} (h : ∀ k, k < n → m.getLsbD k = false) : lanesOf m n = [] :=
  List.filter_eq_nil_iff.mpr fun k hk => by simp [h k (List.mem_range.mp hk)]

/-- No helper lane is live (02 R16). -/
theorem lanesOf_helpMask (u : Team) : lanesOf u.helpMask u.lanes = [] :=
  lanesOf_eq_nil fun _ hk => Bool.eq_false_iff.mpr fun h => Nat.not_lt.mpr (le_of_helpMask h) hk

theorem mcnt_completes {o : ROps} {c : Clause} {s : State} (hr : Ready (.mcnt o) c s) :
    ∃ t, exec (.mcnt o) s = .next t ∧
      WroteScalar (.mcnt o) c o.d.toNat (word (lanesOf (s.mval o.a) s.team.lanes).length) s t := by
  obtain ⟨t, ht, hw⟩ := scalarOp_completes o.d (fun s => word (lanesOf (s.mval o.a) s.team.lanes).length) hr
  rw [countIssue_mval, countIssue_team] at hw
  exact ⟨t, (exec_mcnt o s).trans ht, hw⟩

theorem mfirst_completes {o : ROps} {c : Clause} {s : State} (hr : Ready (.mfirst o) c s) :
    ∃ t, exec (.mfirst o) s = .next t ∧
      WroteScalar (.mfirst o) c o.d.toNat ((lanesOf (s.mval o.a) s.team.lanes).head?.elim 0xFFFFFFFF#32 word) s t := by
  obtain ⟨t, ht, hw⟩ :=
    scalarOp_completes o.d (fun s => (lanesOf (s.mval o.a) s.team.lanes).head?.elim 0xFFFFFFFF#32 word) hr
  rw [countIssue_mval, countIssue_team] at hw
  exact ⟨t, (exec_mfirst o s).trans ((execMfirst_eq_scalarOp o s).trans ht), hw⟩

theorem maskCount_completes {i : Instr} {c : Clause} {s : State} {d : Nat} {v : Word} (hr : Ready i c s) (hv : MaskCount s i d v) :
    ∃ t, exec i s = .next t ∧ WroteScalar i c d v s t := by
  cases hv with
  | mcnt o => exact mcnt_completes hr
  | mfirst o k hk hm hlow =>
    have h := mfirst_completes hr
    rwa [head?_lanesOf_eq_some hk hm hlow] at h
  | mfirstNone o hnone =>
    have h := mfirst_completes hr
    rwa [lanesOf_eq_nil hnone] at h

/-- Settles O9: the results are the length and the head of the list of live lanes of the mask, which holds no helper lane. -/
theorem maskCountRule : Obligations.MaskCountRule := by
  refine ⟨fun d a b rest hd ha => ⟨?_, ?_, fun hb => ⟨?_, ?_⟩⟩, fun i c s d v => maskCount_completes, fun o c s hr _ hhelp => ?_⟩
  · rw [decode_mcnt, accept_of_wf ((wf_mcnt _).mpr ⟨hd, ha, rfl⟩)]
  · rw [decode_mfirst, accept_of_wf ((wf_mfirst _).mpr ⟨hd, ha, rfl⟩)]
  · rw [decode_mcnt, accept_of_not_wf (mt (wf_mcnt _).mp fun ⟨_, _, hb0⟩ => hb hb0)]
  · rw [decode_mfirst, accept_of_not_wf (mt (wf_mfirst _).mp fun ⟨_, _, hb0⟩ => hb hb0)]
  · have h := mcnt_completes hr
    have hmask : s.mval o.a = s.team.helpMask := by rw [hhelp]; rfl
    rwa [hmask, lanesOf_helpMask] at h

end Sys2Proof.Claims

end

section
/-!
PROOFS. Encoding and completion of the 64-bit addition on vector pairs (06 R132).
-/

open Sys2Proof.Machine

namespace Sys2Proof.Claims

/-! ### Decoding and the checks before the issue -/

theorem decode_viadd64 (d a b : Byte) (rest : List Word) :
    decode (wordOf 0x6C d a b :: rest) = accept (some (.viadd64 { d := d, a := a, b := b })) rest :=
  decode_wordOf_r (by decide) rfl d a b rest

theorem wf_viadd64 (o : ROps) : (Instr.viadd64 o).wf = true ↔ o.d.toNat ≤ 254 ∧ o.a.toNat ≤ 254 ∧ o.b.toNat ≤ 254 := by
  simp [Instr.wf, Wf.vPair, Wf.atMost, and_assoc]

/-- Granted pairs pass the budget check (02 R20). -/
theorem pairs_eq_none {ps : List Byte} {s : State}
    (h : Granted (ps.map (·.toNat) ++ ps.map (fun p => p.toNat + 1)) s) : pairs ps [] s = none := by
  have hall := List.all_eq_true.mpr fun k hk => decide_eq_true (h k hk)
  simp only [pairs, budget, List.map_nil, List.append_nil, hall, List.all_nil, Bool.and_self, if_true]

/-! ### One register written in the acting lanes, without flags -/

/-- Of the team only the vector registers change. -/
theorem setLanes_team_eq (s : State) (r : Nat) (xs : List (Nat × Word)) :
    (s.setLanes r xs).team = { s.team with v := (s.setLanes r xs).team.v } :=
  Team.setLanes_eq r xs s.team

/-- Beside the team only the notes on outstanding matrix operations change (08 R184). -/
theorem setLanes_frame (s : State) (r : Nat) (xs : List (Nat × Word)) :
    s.setLanes r xs = { s with team := (s.setLanes r xs).team, ten := (s.taint [r]).ten } := by
  rw [← State.setLanes_ten s r xs]
  rfl

theorem setLanes_look (s : State) (r : Nat) (f : Nat → Word) {q k : Nat} (hk : k < 1024) :
    look 0 (1024 * q + k) (s.setLanes r (s.acting.map fun k => (k, f k))).team.v =
      if q = r ∧ k ∈ s.acting then f k else look 0 (1024 * q + k) s.team.v := by
  rw [State.setLanes_team]
  exact Team.look_setLanes f r s.acting (fun k hk => acting_lt hk) s.team q k hk

theorem setLanes_execv (s : State) (r : Nat) (xs : List (Nat × Word)) : (s.setLanes r xs).execv = s.execv := by
  rw [State.execv, State.mreg, setLanes_team_eq]
  rfl

theorem setLanes_acting (s : State) (r : Nat) (xs : List (Nat × Word)) : (s.setLanes r xs).acting = s.acting := by
  rw [State.acting, State.active, State.helpers, setLanes_execv, setLanes_team_eq]
  rfl

theorem setLanes_passes (s : State) (r : Nat) (xs : List (Nat × Word)) : (s.setLanes r xs).passes = s.passes := by
  rw [State.passes, setLanes_execv, setLanes_team_eq]
  rfl

/-- Counting the issue and writing lanes concern different parts of the state. -/
theorem countIssue_setLanes (s : State) (r : Nat) (xs : List (Nat × Word)) :
    (s.countIssue .vector).setLanes r xs = (s.setLanes r xs).countIssue .vector := by
  simp only [State.countIssue, State.count, setLanes_passes]
  rfl

/-- An instruction that sets no flag leaves STATUS as it is (04 R67). -/
theorem status_or_zero (u : Team) : u.status ||| 0 = u.status := BitVec.or_zero

/-- The state that a vector issue leaves whose only effect is to give `r` the values `f` in the acting lanes. -/
theorem wroteLanes_setLanes (i : Instr) (c : Clause) (s : State) (r : Nat) (f : Nat → Word) :
    WroteLanes i c r f 0 s.team.spos s
      (((s.countIssue .vector).setLanes r (s.acting.map fun k => (k, f k))).onTeam fun u => u.retire c (words i)) := by
  refine wroteLanes_retire (fun q k hk => ?_) ?_ ?_
  · have h := setLanes_look (s.countIssue .vector) r f (q := q) hk
    rwa [countIssue_team, countIssue_acting] at h
  · rw [status_or_zero, setLanes_team_eq, countIssue_team]
  · conv_lhs => rw [setLanes_frame, countIssue_eq, countIssue_vector_core]
    rfl

/-! ### VIADD64 (06 R132) -/

/-- The sum of the two pairs in one lane, modulo 2^64. -/
def pairSum (o : ROps) (s : State) (k : Nat) : DWord := s.vpair o.a.toNat k + s.vpair o.b.toNat k

/-- The state after the first of the two writes: the low words of the sums stand in the named register. -/
def lowWritten (o : ROps) (s : State) : State :=
  s.setLanes o.d.toNat (s.acting.map fun k => (k, (pairSum o s k).setWidth 32))

theorem lowWritten_acting (o : ROps) (s : State) : (lowWritten o s).active ++ (lowWritten o s).helpers = s.acting :=
  setLanes_acting ..

theorem lowWritten_team (o : ROps) (s : State) : (lowWritten o s).team = { s.team with v := (lowWritten o s).team.v } :=
  setLanes_team_eq ..

theorem lowWritten_ten (o : ROps) (s : State) :
    (lowWritten o s).ten = { s.ten with mops := s.ten.mops.map (MatOp.noteWrite s.team.key [o.d.toNat]) } :=
  State.setLanes_ten ..

theorem lowWritten_passes (o : ROps) (s : State) : (lowWritten o s).passes = s.passes := setLanes_passes ..

theorem lowWritten_look (o : ROps) (s : State) {r k : Nat} (hk : k < 1024) :
    look 0 (1024 * r + k) (lowWritten o s).team.v =
      if r = o.d.toNat ∧ k ∈ s.acting then (pairSum o s k).setWidth 32 else look 0 (1024 * r + k) s.team.v :=
  setLanes_look s o.d.toNat (fun k => (pairSum o s k).setWidth 32) hk

/-- A double word is its high word before its low word. -/
theorem high_append_low (x : DWord) : (x.extractLsb' 32 32 ++ x.setWidth 32 : DWord) = x := by
  rw [BitVec.setWidth_eq_extractLsb' (by decide), BitVec.extractLsb'_append_extractLsb'_eq_extractLsb' (by decide)]
  exact BitVec.extractLsb'_eq_self

/-- VIADD64 completes: the high words of the sums, which the sources before either write give, join the low words. -/
theorem viadd64_completes {o : ROps} {c : Clause} {s : State} (hr : Ready (.viadd64 o) c s)
    (hg : Granted [o.d.toNat, o.d.toNat + 1, o.a.toNat, o.a.toNat + 1, o.b.toNat, o.b.toNat + 1] s) :
    ∃ t, exec (.viadd64 o) s = .next t ∧
      WroteLanes (.viadd64 o) c (o.d.toNat + 1) (fun k => (pairSum o s k).extractLsb' 32 32) 0 (lowWritten o s).team.spos
        (lowWritten o s) t := by
  obtain ⟨hcl, hwf, hdl⟩ := hr
  have hchk : pairs [o.d, o.a, o.b] [] s = none := pairs_eq_none fun r hmem => hg r (by
    simp only [List.map_cons, List.map_nil, List.cons_append, List.nil_append, List.mem_cons] at hmem ⊢
    tauto)
  refine ⟨_, (exec_viadd64 o s).trans (issue_ok hcl hdl hwf hchk), ?_⟩
  have h := wroteLanes_setLanes (.viadd64 o) c (lowWritten o s) (o.d.toNat + 1) fun k => (pairSum o s k).extractLsb' 32 32
  simp only [countIssue_acting, countIssue_vpair, List.map_map, Function.comp_def]
  rw [countIssue_setLanes]
  rw [lowWritten, setLanes_acting] at h
  exact h

/-- The lanes after both writes: the second register is another than the first, so the low words still stand there. -/
theorem viadd64_lanes {o : ROps} {s t : State}
    (hlook : ∀ r k, k < 1024 → look 0 (1024 * r + k) t.team.v =
      if r = o.d.toNat + 1 ∧ k ∈ s.acting then (pairSum o s k).extractLsb' 32 32 else look 0 (1024 * r + k) (lowWritten o s).team.v)
    {k : Nat} (hk : k ∈ s.acting) :
    (look 0 (1024 * (o.d.toNat + 1) + k) t.team.v ++ look 0 (1024 * o.d.toNat + k) t.team.v : DWord) = pairSum o s k := by
  have hlt : k < 1024 := acting_lt hk
  have hhigh : look 0 (1024 * (o.d.toNat + 1) + k) t.team.v = (pairSum o s k).extractLsb' 32 32 := by
    rw [hlook _ k hlt, if_pos ⟨rfl, hk⟩]
  have hlow : look 0 (1024 * o.d.toNat + k) t.team.v = (pairSum o s k).setWidth 32 := by
    rw [hlook _ k hlt, if_neg (by omega), lowWritten_look o s hlt, if_pos ⟨rfl, hk⟩]
  rw [hhigh, hlow, high_append_low]

/-- Settles O12: the sums are taken before either write, and the second write leaves the register of the first alone. -/
theorem pairAdditionRule : Obligations.PairAdditionRule := by
  refine ⟨fun d a b rest hd ha hb => ?_, fun o c s hr hg => ?_⟩
  · rw [decode_viadd64, accept_of_wf ((wf_viadd64 _).mpr ⟨hd, ha, hb⟩)]
  obtain ⟨t, ht, hlook, hteam, hadv, hrest, -⟩ := viadd64_completes hr hg
  rw [lowWritten_acting] at hlook
  rw [lowWritten_team] at hteam hadv
  have hframe : t = { s with
      team := t.team, core := counted 0 s.passes s.core
      ten := { s.ten with
        mops := s.ten.mops.map fun m => MatOp.noteWrite s.team.key [o.d.toNat + 1] (MatOp.noteWrite s.team.key [o.d.toNat] m) } } := by
    rw [lowWritten_passes, lowWritten_ten, lowWritten_team, List.map_map] at hrest
    exact hrest
  refine ⟨t, ht, fun k hk => ?_, fun r k hk hout => ?_, ?_, hadv, hframe,
    sameBytes_of_mops (congrArg State.ten hframe :) (congrArg State.blk hframe :)⟩
  · rw [viadd64_lanes hlook hk, pairSum, BitVec.toNat_add]
  · have hhigh : ¬ (r = o.d.toNat + 1 ∧ k ∈ s.acting) := fun ⟨hr, hk⟩ => hout.elim (fun h => h.2 hr) (· hk)
    have hlow : ¬ (r = o.d.toNat ∧ k ∈ s.acting) := fun ⟨hr, hk⟩ => hout.elim (fun h => h.1 hr) (· hk)
    rw [hlook r k hk, if_neg hhigh, lowWritten_look o s hk, if_neg hlow]
  · rw [status_or_zero] at hteam
    exact hteam

end Sys2Proof.Claims

end
